-- ==== Sys2Proof/Word.lean ====
section
/-!
DEFINITION. Word.lean: the plain word types of the model and the numbers of things (R16), with the few list and bit
operations every other file uses.
-/
namespace Sys2Proof

abbrev Byte := BitVec 8
abbrev Word := BitVec 32
abbrev DWord := BitVec 64
/-- A 64-byte line, a command entry or a vector register; byte j is bits [8j+7:8j] (R6). -/
abbrev Line := BitVec 512

/-- A logical Clause processor and the context that runs on it (R40). -/
abbrev CtxId := Fin 16
/-- A queue of a context (R358). -/
abbrev QId := Fin 4
/-- A physical array (R14). -/
abbrev ArrId := Fin 208
/-- A chip-link port (R273). -/
abbrev PortId := Fin 18
/-- A codec session (Table 14-1). -/
abbrev SessId := Fin 256
/-- A codec engine, encode 0 to 3, decode 4 to 7 (Table 14-1). -/
abbrev EngId := Fin 8
/-- A module of a group (R303). -/
abbrev ModId := Fin 64

/-- The byte j of a line (R6). -/
def Line.byte (l : Line) (j : Nat) : Byte := l.extractLsb' (8 * j) 8

/-- Bits `[lo + w - 1 : lo]` of `x`, as a number. -/
def bits {n : Nat} (x : BitVec n) (lo w : Nat) : Nat := (x.extractLsb' lo w).toNat

/-- Bit `i` of a number. -/
def nbit (x i : Nat) : Bool := x.testBit i

/-- ceiling(a / b), 0 where b is 0. -/
def cdiv (a b : Nat) : Nat := (a + b - 1) / b

/-- The `n` low bytes of `x`, lowest first (R6). -/
def leBytes (x : Nat) : Nat → List Byte
  | 0 => []
  | n + 1 => BitVec.ofNat 8 x :: leBytes (x / 256) n

/-- The number whose bytes, lowest first, are `bs` (R6). -/
def leNat : List Byte → Nat
  | [] => 0
  | b :: bs => b.toNat + 256 * leNat bs

/-- The bytes of a line, lowest first. -/
def Line.bytes (l : Line) : List Byte := leBytes l.toNat 64

/-- The line whose bytes are `bs`. -/
def Line.ofBytes (bs : List Byte) : Line := BitVec.ofNat 512 (leNat bs)

/-- `x` held at the largest value of `w` bits: a counter that "holds at" all ones. -/
def holdAt (w x : Nat) : Nat := min x (2 ^ w - 1)

/-- One more, holding at all ones. -/
def satInc {w : Nat} (x : BitVec w) : BitVec w := if x = BitVec.allOnes w then x else x + 1

/-- `n` more, holding at all ones. -/
def satAdd {w : Nat} (x : BitVec w) (n : Nat) : BitVec w := BitVec.ofNat w (holdAt w (x.toNat + n))

end Sys2Proof
end

