-- ==== Sys2Proof/Syntax.lean ====
section
/-!
DEFINITION. Syntax.lean: the commands of the block, one constructor of `Instr` for each row of spec/opcode_table.json,
and the operand types they carry. spec/95_what_each_step_holds.md says what comes about inside each.
-/
namespace Sys2Proof

/-! ## Slots of a clause word (Tables 08-2, 08-4, 08-5, 08-8, 08-10) -/

/-- The Q slot's fields (Table 08-2) under the slot header (Table 08-1). -/
structure QSlot where
  op : BitVec 8 := 0
  gp : BitVec 3 := 0
  gn : Bool := false
  f : BitVec 8 := 0
  sr : BitVec 6 := 0
  pd : BitVec 3 := 0
  ci : BitVec 3 := 0
  imm : BitVec 32 := 0
deriving DecidableEq, Repr

/-- The T slot's fields (Table 08-4). -/
structure TSlot where
  op : BitVec 8 := 0
  gp : BitVec 3 := 0
  gn : Bool := false
  ldt : BitVec 8 := 0
  rm : BitVec 6 := 0
  rn : BitVec 6 := 0
  rk : BitVec 6 := 0
  rp0 : BitVec 6 := 0
  rp1 : BitVec 6 := 0
  rp2 : BitVec 6 := 0
  w0e : Bool := false
  w0f : BitVec 8 := 0
  w0t : BitVec 6 := 0
  w1e : Bool := false
  w1f : BitVec 8 := 0
  w1t : BitVec 6 := 0
  se : Bool := false
  sf : BitVec 8 := 0
  rsv : Bool := false
deriving DecidableEq, Repr

/-- The V slot's fields (Table 08-5). -/
structure VSlot where
  op : BitVec 8 := 0
  gp : BitVec 3 := 0
  gn : Bool := false
  vd : BitVec 5 := 0
  va : BitVec 5 := 0
  vb : BitVec 5 := 0
  vc : BitVec 5 := 0
  fn : BitVec 4 := 0
  rm : BitVec 3 := 0
  rsv : BitVec 3 := 0
  sr : BitVec 6 := 0
  ix : BitVec 8 := 0
  epi : BitVec 8 := 0
  imm : BitVec 32 := 0
deriving DecidableEq, Repr

/-- The A slot's fields (Table 08-8). -/
structure ASlot where
  op : BitVec 8 := 0
  gp : BitVec 3 := 0
  gn : Bool := false
  rd : BitVec 6 := 0
  rb : BitVec 6 := 0
  ri : BitVec 6 := 0
  sc : BitVec 2 := 0
  vr : BitVec 5 := 0
  space : BitVec 2 := 0
  ldti : BitVec 8 := 0
  rsv : BitVec 17 := 0
  off : BitVec 32 := 0
deriving DecidableEq, Repr

/-- The S1 and S0 slots' fields (Table 08-10). -/
structure SSlot where
  op : BitVec 8 := 0
  gp : BitVec 3 := 0
  gn : Bool := false
  rd : BitVec 6 := 0
  ra : BitVec 6 := 0
  rb : BitVec 6 := 0
  pd : BitVec 3 := 0
  pa : BitVec 3 := 0
  pb : BitVec 3 := 0
  i : Bool := false
  rsv : BitVec 8 := 0
  imm : BitVec 32 := 0
deriving DecidableEq, Repr

/-- A clause word as its six slots (Table 07-2). -/
structure ClauseWord where
  q : QSlot := {}
  t : TSlot := {}
  v : VSlot := {}
  a : ASlot := {}
  s1 : SSlot := {}
  s0 : SSlot := {}
deriving DecidableEq, Repr

/-- Which of the two scalar slots an operation stands in. -/
inductive SSel | s1 | s0
deriving DecidableEq, Repr

/-- The six slots (Table 07-2). -/
inductive SlotName | q | t | v | a | s1 | s0
deriving DecidableEq, Repr

/-! ## Operands of the block's other commands -/

/-- The event that a Period source gives (Table 02-2). -/
inductive SrcKind | syncIn | sync0
deriving DecidableEq, Repr

/-- The window a register access goes through (Table 15-5). -/
inductive Window
  | priv
  | ctx (c : CtxId)
deriving DecidableEq, Repr

/-- A CoE SDO Information request (Table 16-7). -/
inductive SdoInfo
  | objectList
  | object (index : BitVec 16)
  | entry (index : BitVec 16) (sub : BitVec 8)
deriving DecidableEq, Repr

/-- What a hardware fault does to one row of a tile at its check (Table 05-6). -/
inductive RowFlaw
  | none
  | wrongSum (col : Nat) (delta : Int)
  | checkColumn (delta : Int)
  | specialState
deriving DecidableEq, Repr

/-- What a scrub or a demand read finds (R258, R266, Table 11-1): in an LPDDR line one erroneous symbol is corrected, two or
three and a line from a wrong address are not; in a word one bit is corrected and two are not. -/
inductive EccFinding | clean | corrected | uncorrectable
deriving DecidableEq, Repr

/-- Why a channel is spared (R410). -/
inductive SpareCause | thresholds | tracking | silent
deriving DecidableEq, Repr

/-- The header and the payload of a flit (Tables 12-2, 12-3). -/
structure Flit where
  type : BitVec 4
  cls : BitVec 3
  stomp : Bool
  seq : BitVec 12
  ack : BitVec 12
  nak : Bool
  crcls : BitVec 3
  crv : Bool
  dest : BitVec 6
  src : BitVec 6
  stream : BitVec 12
  payload : Line
deriving DecidableEq, Repr

/-- The link a flit arrives on: a chip-link port (R276), or RCL, whose flits have the same protection and replay (R346). -/
inductive LinkEnd
  | chip (p : PortId)
  | rcl
deriving DecidableEq, Repr

/-- What the far end of a port tells at IDENT (Table 12-5, R280). -/
structure FarIdent where
  module : ModId
  port : PortId
  group : BitVec 32
  release : BitVec 24
  /-- The far end is a member that the Head has admitted (R305). -/
  admitted : Bool := false
deriving DecidableEq, Repr

/-- One entry of a route table (R282). -/
structure RouteEntry where
  valid : Bool := false
  hops : BitVec 6 := 0
  ports : BitVec 18 := 0
deriving DecidableEq, Repr

/-- What one member announces of one collective (R287). -/
structure Announce where
  members : BitVec 64
  tag : BitVec 32
  digest : Nat
  dest : Nat
  isPermute : Bool
  isReshard : Bool
  withdrawn : Bool
  poisoned : Bool
deriving DecidableEq, Repr

/-- Why a die-wide fatal fault arises, the CAUSE of Table 18-2. -/
inductive FatalCause | tileFourArrays | supervisor | cpCheckpoint | supCheckpoint | secondFault
deriving DecidableEq, Repr

/-- Where a further fault stops a dump (R419): in the dump region, or in the companion copy, after so many whole sections. -/
inductive DumpStop
  | region (sections : Nat)
  | copy (sections : Nat)
deriving DecidableEq, Repr

/-- A collective one member reports to a standby Head (R311). -/
structure TakeoverItem where
  ann : Announce
  csn : Option Nat
deriving DecidableEq, Repr

/-- A set that has its CSN and has not completed on all members: members still to report (R318). -/
structure HeadSet where
  csn : Nat
  ann : Announce
  left : BitVec 64
deriving DecidableEq, Repr

/-- A placed stream (R314). -/
structure Placement where
  stream : BitVec 32
  module : ModId
  ctx : BitVec 8
  cost : Nat
deriving DecidableEq, Repr

/-- What a member publishes of its contexts (Table 13-1, R314): by context the stream units it has left, none where the context
is not ACTIVE or the member is MISCONFIGURED. -/
structure Published where
  module : ModId
  left : List (Option Nat)
deriving DecidableEq, Repr

/-- One reading of the sensors and of the power block (R471, R472). -/
structure Reading where
  temps : List (BitVec 16)
  vin : BitVec 16
  iin : BitVec 16
  pin : BitVec 16
  cons : List (BitVec 16)
deriving DecidableEq, Repr

/-- A test-port instruction (R446). -/
inductive TestInstr | bypass | idcode | margin | other (code : Nat)
deriving DecidableEq, Repr

/-- The commands of the block: one constructor per row of spec/opcode_table.json, in the table's order.
Slot operations carry the context, their own slot's fields (the OP field is set by the operation) and the clause word
whose other slots stand beside it (R150 to R153). An operand with a default tells what an event may have found or carried
beside its usual course: an error of a code, a missing lane group, a further fault. -/
inductive Instr
  -- the Period (02)
  | internalTick
  | sourceEvent (k : SrcKind) (t sys : Nat)
  | holdoverEntry
  | holdoverTick
  | acquireTimeout
  | newSettingTimeout
  | shareZeroed (c : CtxId)
  | syncOutPulseEnd
  | comparatorFire (i : Fin 8)
  -- registers and snapshots (00, 05, 07, 15)
  | registerWrite (w : Window) (off : Nat) (v : Word)
  | fencePoisonClear (c : CtxId) (j : Fin 8) (v : Word)
  | arrInject (v : Word)
  | take
  | ctxSnapTake (c : CtxId)
  | indirectWrite (v : Word)
  | indirectRead
  | indirectComplete
  | marginDone (ch : Fin 192) (errors : Nat)
  -- the Lexicon and the field network (16)
  | lexReadInForce (index : BitVec 16) (sub : BitVec 8)
  | lexWrite (index : BitVec 16) (sub : BitVec 8)
  | lexReadPending (index : BitVec 16) (sub : BitVec 8)
  | lexReadCaptured (index : BitVec 16) (sub : BitVec 8)
  | lexReadDescription (index : BitVec 16) (sub : BitVec 8)
  | lexFlashReadDone (ok : Bool)
  | coeSdoDownload (index : BitVec 16) (sub : BitVec 8) (value : List Byte) (complete : Bool := false)
  | coeSdoUpload (index : BitVec 16) (sub : BitVec 8) (complete : Bool := false)
  | coeSdoInformation (r : SdoInfo)
  | alStateRequest (st : BitVec 4)
  | fieldPortLink (p : Fin 2) (up : Bool)
  -- security (19)
  | stageImage
  | confirm
  | discard
  | swap
  | install
  | quote
  | extend
  | getCerts
  | unlock
  | spareReady
  | spareReloaded
  -- queues (15)
  | tailLineInvalidation (c : CtxId) (q : QId) (line : Line) (poison : Bool)
  | entryFetched (c : CtxId) (q : QId) (entry : Line) (poison : Bool)
  | cplRdInvalidation (c : CtxId) (q : QId) (line : Line)
  | eventRdInvalidation (ring : Option CtxId) (line : Line)
  | entryDispatch (c : CtxId) (q : QId)
  | commandReady (id : Nat)
  | launch (id : Nat)
  | fenceSet (id : Nat)
  | fenceAdd (id : Nat)
  | allReduce (id : Nat)
  | allGather (id : Nat)
  | permute (id : Nat)
  | reshard (id : Nat)
  | sgather (id : Nat)
  | place (id : Nat) (rooms : List Published := [])
  | scatter (id : Nat)
  | batch (id : Nat)
  | codOpen (id : Nat)
  | codEnc (id : Nat)
  | codDec (id : Nat)
  | codRel (id : Nat)
  | codClose (id : Nat)
  -- Clause slot operations (08)
  | nop (c : CtxId) (n : SlotName) (w : ClauseWord)
  | fwait (c : CtxId) (f : QSlot) (w : ClauseWord)
  | fset (c : CtxId) (f : QSlot) (w : ClauseWord)
  | fadd (c : CtxId) (f : QSlot) (w : ClauseWord)
  | twait (c : CtxId) (f : QSlot) (w : ClauseWord)
  | post (c : CtxId) (f : QSlot) (w : ClauseWord)
  | cmd (c : CtxId) (f : QSlot) (w : ClauseWord)
  | endProgram (c : CtxId) (f : QSlot) (w : ClauseWord)
  | matrix (c : CtxId) (f : TSlot) (w : ClauseWord)
  | attn (c : CtxId) (f : TSlot) (w : ClauseWord)
  | vaddf (c : CtxId) (f : VSlot) (w : ClauseWord)
  | vsubf (c : CtxId) (f : VSlot) (w : ClauseWord)
  | vmulf (c : CtxId) (f : VSlot) (w : ClauseWord)
  | vfmaf (c : CtxId) (f : VSlot) (w : ClauseWord)
  | vminf (c : CtxId) (f : VSlot) (w : ClauseWord)
  | vmaxf (c : CtxId) (f : VSlot) (w : ClauseWord)
  | vsf (c : CtxId) (f : VSlot) (w : ClauseWord)
  | vpack (c : CtxId) (f : VSlot) (w : ClauseWord)
  | vunpk (c : CtxId) (f : VSlot) (w : ClauseWord)
  | vbcast (c : CtxId) (f : VSlot) (w : ClauseWord)
  | vext (c : CtxId) (f : VSlot) (w : ClauseWord)
  | vins (c : CtxId) (f : VSlot) (w : ClauseWord)
  | vsumf (c : CtxId) (f : VSlot) (w : ClauseWord)
  | vand (c : CtxId) (f : VSlot) (w : ClauseWord)
  | vor (c : CtxId) (f : VSlot) (w : ClauseWord)
  | vxor (c : CtxId) (f : VSlot) (w : ClauseWord)
  | vaddi (c : CtxId) (f : VSlot) (w : ClauseWord)
  | rupld (c : CtxId) (f : VSlot) (w : ClauseWord)
  | rurd (c : CtxId) (f : VSlot) (w : ClauseWord)
  | ldb (c : CtxId) (f : ASlot) (w : ClauseWord)
  | ldh (c : CtxId) (f : ASlot) (w : ClauseWord)
  | ldw (c : CtxId) (f : ASlot) (w : ClauseWord)
  | ldd (c : CtxId) (f : ASlot) (w : ClauseWord)
  | ldws (c : CtxId) (f : ASlot) (w : ClauseWord)
  | stb (c : CtxId) (f : ASlot) (w : ClauseWord)
  | sth (c : CtxId) (f : ASlot) (w : ClauseWord)
  | stw (c : CtxId) (f : ASlot) (w : ClauseWord)
  | std (c : CtxId) (f : ASlot) (w : ClauseWord)
  | vld (c : CtxId) (f : ASlot) (w : ClauseWord)
  | vst (c : CtxId) (f : ASlot) (w : ClauseWord)
  | lea (c : CtxId) (f : ASlot) (w : ClauseWord)
  | ldtld (c : CtxId) (f : ASlot) (w : ClauseWord)
  | add (c : CtxId) (sel : SSel) (f : SSlot) (w : ClauseWord)
  | sub (c : CtxId) (sel : SSel) (f : SSlot) (w : ClauseWord)
  | andOp (c : CtxId) (sel : SSel) (f : SSlot) (w : ClauseWord)
  | orOp (c : CtxId) (sel : SSel) (f : SSlot) (w : ClauseWord)
  | xorOp (c : CtxId) (sel : SSel) (f : SSlot) (w : ClauseWord)
  | shl (c : CtxId) (sel : SSel) (f : SSlot) (w : ClauseWord)
  | shr (c : CtxId) (sel : SSel) (f : SSlot) (w : ClauseWord)
  | sar (c : CtxId) (sel : SSel) (f : SSlot) (w : ClauseWord)
  | mul (c : CtxId) (sel : SSel) (f : SSlot) (w : ClauseWord)
  | divu (c : CtxId) (sel : SSel) (f : SSlot) (w : ClauseWord)
  | remu (c : CtxId) (sel : SSel) (f : SSlot) (w : ClauseWord)
  | minOp (c : CtxId) (sel : SSel) (f : SSlot) (w : ClauseWord)
  | maxOp (c : CtxId) (sel : SSel) (f : SSlot) (w : ClauseWord)
  | inshi (c : CtxId) (sel : SSel) (f : SSlot) (w : ClauseWord)
  | cmpeq (c : CtxId) (sel : SSel) (f : SSlot) (w : ClauseWord)
  | cmpne (c : CtxId) (sel : SSel) (f : SSlot) (w : ClauseWord)
  | cmplt (c : CtxId) (sel : SSel) (f : SSlot) (w : ClauseWord)
  | cmpltu (c : CtxId) (sel : SSel) (f : SSlot) (w : ClauseWord)
  | cmple (c : CtxId) (sel : SSel) (f : SSlot) (w : ClauseWord)
  | cmpleu (c : CtxId) (sel : SSel) (f : SSlot) (w : ClauseWord)
  | pand (c : CtxId) (sel : SSel) (f : SSlot) (w : ClauseWord)
  | por (c : CtxId) (sel : SSel) (f : SSlot) (w : ClauseWord)
  | pxor (c : CtxId) (sel : SSel) (f : SSlot) (w : ClauseWord)
  | pandn (c : CtxId) (sel : SSel) (f : SSlot) (w : ClauseWord)
  | addf (c : CtxId) (sel : SSel) (f : SSlot) (w : ClauseWord)
  | subf (c : CtxId) (sel : SSel) (f : SSlot) (w : ClauseWord)
  | mulf (c : CtxId) (sel : SSel) (f : SSlot) (w : ClauseWord)
  | fmaf (c : CtxId) (sel : SSel) (f : SSlot) (w : ClauseWord)
  | minf (c : CtxId) (sel : SSel) (f : SSlot) (w : ClauseWord)
  | maxf (c : CtxId) (sel : SSel) (f : SSlot) (w : ClauseWord)
  | cmpltf (c : CtxId) (sel : SSel) (f : SSlot) (w : ClauseWord)
  | cmpeqf (c : CtxId) (sel : SSel) (f : SSlot) (w : ClauseWord)
  | cvtif (c : CtxId) (sel : SSel) (f : SSlot) (w : ClauseWord)
  | cvtfi (c : CtxId) (sel : SSel) (f : SSlot) (w : ClauseWord)
  | br (c : CtxId) (f : SSlot) (w : ClauseWord)
  | brr (c : CtxId) (f : SSlot) (w : ClauseWord)
  | call (c : CtxId) (f : SSlot) (w : ClauseWord)
  | loop (c : CtxId) (f : SSlot) (w : ClauseWord)
  | rdper (c : CtxId) (sel : SSel) (f : SSlot) (w : ClauseWord)
  | rdtime (c : CtxId) (sel : SSel) (f : SSlot) (w : ClauseWord)
  -- the pair behind a Clause processor (07, 17)
  | loadDataReturn (c : CtxId) (f : EccFinding := .clean)
  | checkpointDurable (c : CtxId)
  | lockstepCompareFailure (c : CtxId)
  | cpFailover (c : CtxId)
  | pairTestDone (pair : Fin 20) (ok : Bool)
  | supFailover
  -- tiles and arrays (04, 05, 09, 17)
  | tileExpand (c : CtxId)
  | arrayFree (a : ArrId)
  | bPassLoaded (a : ArrId) (parity : Bool)
  | multicastAdvance (ch : Fin 8)
  | rowRelease (tile row : Nat) (flaw : RowFlaw)
  | rowStaged (tile row : Nat) (compareFailure : Bool)
  | bf16Compare (tile : Nat)
  | tileCommit (tile : Nat)
  | rephraseDecision (c : CtxId)
  | slotCopyDone (slot : Fin 192) (dead : Bool := false)
  | arrayTestDone (a : ArrId) (ok : Bool)
  | fatalFault (cause : FatalCause) (unit : BitVec 32) (stop : Option DumpStop := none)
  -- memory (11, 17)
  | scratchpadScrub (a : ArrId) (word : Nat) (f : EccFinding)
  | lpddrScrub (ch : Fin 192) (line : Nat) (f : EccFinding)
  | wcbAgeEvict (k : Fin 48)
  | channelSpared (ch : Fin 192) (cause : SpareCause)
  | migrationDone (ch : Fin 192)
  -- chip links (12)
  | flitReceived (l : LinkEnd) (w : BitVec 640) (fixed : List (Fin 16)) (limited : Bool := false)
  | nak (l : LinkEnd) (ack : BitVec 12)
  | laneFailed (p : PortId) (lane : Fin 12)
  | portDetect (p : PortId) (answered : Bool)
  | portTrained (p : PortId) (ok : Bool) (idle : Option (Fin 3) := none)
  | identExchange (p : PortId) (far : FarIdent)
  | portDown (p : PortId)
  | routeUpdate (routes : List RouteEntry) (lost : BitVec 64 := 0)
  | neighbourTable (m : ModId) (far : List (Option ModId))
  | announcementReceived (m : ModId) (a : Announce)
  | csnAssignment (sender : ModId) (members : BitVec 64) (tag : BitVec 32) (csn : Nat) (failed : Option Bool)
  | reservationGrant
  | segmentSend (csn seg : Nat) (down : Bool) (bad : List Nat := [])
  | segDone (csn seg : Nat) (child : ModId)
  | completionReport (m : ModId) (csn : Nat)
  | memberLost (m : ModId)
  -- groups (13)
  | tickFlit (t gperiod : Nat) (rate : BitVec 8) (hstate : BitVec 8) (head : ModId) (lead num den : Nat)
  | delayEcho (m : ModId) (trips : List Nat)
  | headEnd
  -- attention (10)
  | spanMerge (cmd row : Nat)
  | poolInitDone (c : CtxId) (pool : Bool)
  -- codec (14)
  | unitStart (e : EngId)
  | unitVisible (e : EngId)
  | windowFetchDone (e : Fin 4)
  | unitRecode (e : EngId)
  | decodeTimeBound (e : EngId)
  -- the companion link (15)
  | rclLaneFailed (lane : Fin 16)
  | rclDown
  | rclTrainAttempt (ok : Bool)
  | rclUp
  | getClean (addr : Nat)
  | getSole (addr : Nat)
  | getOnce (addr : Nat)
  | putLine (addr : Nat) (line : Line) (poison : Bool)
  | putBytes (addr : Nat) (line : Line) (mask : BitVec 64) (poison : Bool)
  | returnLine (addr : Nat) (line : Line) (poison : Bool)
  | letGo (addr : Nat)
  | winRead (region : Fin 3) (off size : Nat)
  | winWrite (region : Fin 3) (off size : Nat) (v : Word)
  | probeDrop (addr : Nat)
  | probeDemote (addr : Nat)
  | ansDone (addr : Nat)
  | ansLine (addr : Nat) (line : Line) (poison : Bool)
  -- power and reset (18, 19, 20)
  | modEnAssert
  | railGood
  | railWindowExpired
  | serviceReached
  | watchdogReset
  | modEnDeassert
  | rstNReset
  | rstNRise
  | inputOutOfRange (mv : Int)
  | sensorSample (r : Reading)
  | overTemperatureTrip
  | histogramSecond
  | lifetimeFlush (ok : Bool)
  -- the rows the table ends with
  | tickLeadElapsed
  | prsntNChange (p : PortId) (high : Bool)
  | laneGroupRetrained (p : PortId)
  | rclHalfRetrained
  | headStateReceived (csnNext : Nat) (sets : List (ModId × Announce)) (gperiod : Nat) (flying : List HeadSet := [])
    (placed : List Placement := [])
  | takeoverReportRequest (fromMod : ModId)
  | takeoverReport (m : ModId) (items : List TakeoverItem) (carried : List Placement := [])
  | streamPlacement (stream : BitVec 32) (ctx : BitVec 8) (cost : Nat) (remove : Bool := false)
  | shardGenerationsReceived (gens : List (BitVec 16))
  | engineTestDone (e : EngId) (ok : Bool)
  | slotZeroed (a : ArrId)
  | modEnHoldoffElapsed
  | testPortInstruction (i : TestInstr)
  | ethercatDatagram (adr : BitVec 16) (value : BitVec 64)
  | instructionFetchReturn (c : CtxId) (first count : Nat)
deriving DecidableEq, Repr

end Sys2Proof
end

