-- ==== Sys2Proof/Config.lean ====
section
/-!
DEFINITION. Config.lean: the values that the spec leaves open, as constants without a body: nothing can be proved of them
but what holds of every value (assumption log 2, 5 to 10).
-/
namespace Sys2Proof.Machine

/-- The value that the n-th draw of an open value gives. -/
opaque Config.free : Nat → Nat

/-- The polynomials of a special function: the argument, in units of 2^-640, from which on the result is at least the FP32
value `v` (in order, both zeros 0), or up to which it is where the function falls (R204). -/
opaque Config.step (fn : Nat) (brix : Bool) (v : Int) : Int

/-- Which of the FP32 values within 1 ulp the walker gives for the cosine and the sine of an FP32 angle (R239). -/
opaque Config.cosPick (x : Word) : Nat
opaque Config.sinPick (x : Word) : Nat

/-- The four FEC check symbols of a flit: the spec gives no generator of the code (R274). -/
opaque Config.fecSymbols (bytes : BitVec 608) : BitVec 32

/-- Receive buffers of a class at a port, in units of 8 (R275). -/
opaque Config.rxUnits (cls : Nat) : Nat

/-- The four check symbols of an LPDDR line: the spec gives no generator of the code (R258). -/
opaque Config.checkSymbols (line : Nat) (data : Nat) : BitVec 32

/-- The serial number of the module (Lexicon 0x1018 subindex 4). -/
opaque Config.serial : Word

/-- The patch level as text, the end of the version string (Lexicon 0x100A), for the low byte of the revision. -/
opaque Config.patchText : Byte → List Byte

/-- The identity public key of the module, 64 bytes (R442). -/
opaque Config.identityKey : BitVec 512

/-- The module flash as the module comes from the factory, by byte address (Table 19-3). -/
opaque Config.factoryFlash : Nat → Byte

/-! ## Boot and security (19): keys, signatures and the boot record, whose layout and tag the spec does not give -/

/-- State of an image slot (Table 19-7). -/
inductive SlotSt | empty | trial | confirmed | invalid
deriving DecidableEq, Repr

def SlotSt.code : SlotSt → Nat | .empty => 0 | .trial => 1 | .confirmed => 2 | .invalid => 3

/-- A boot record (R439), with the number of boot attempts in a row that did not reach service. -/
structure BootRec where
  seq : Nat := 0
  slotA : SlotSt := .empty
  slotB : SlotSt := .empty
  /-- false A, true B. -/
  preferred : Bool := false
  floor : BitVec 16 := 0
  lastSlot : Bool := false
  lastFails : Nat := 0
deriving DecidableEq, Repr

/-- The boot record in force in the flash as it comes from the factory. -/
opaque Config.factoryRecord : Option BootRec

/-- The bytes of a boot-record copy, tag included. -/
opaque Config.recordBytes : BootRec → List Byte

/-- Thedulor's root public key and the factory key, 64 bytes each. -/
opaque Config.rootKey : BitVec 512
opaque Config.factoryKey : BitVec 512

/-- SLH-DSA-SHAKE-256s of FIPS 205 with an empty context string: does the signature over the body verify (R438)? -/
opaque Config.slhVerify (key : BitVec 512) (body sig : List Byte) : Bool

/-- Byte `i` of the SLH-DSA-SHAKE-256f signature by the identity key (R448). -/
opaque Config.signByte (body : List Byte) (i : Nat) : Byte

/-- Byte `i` of the factory key and device identity certificates (GET_CERTS). -/
opaque Config.certByte (i : Nat) : Byte

/-- Measurement 0: the digest of the boot ROM (Table 19-5). -/
opaque Config.romDigest : BitVec 512

/-- A byte of erased flash (R426). -/
opaque Config.erased : Byte

/-- The raw bytes of the conjunction store in the n-th dump, by offset (Table 18-4). -/
opaque Config.storeRaw : Nat → Nat → Byte

/-! The bitstreams of HEVC and AV1, which the spec takes from their standards (R324, R329, R331, R335, R339 to R341). `par`
holds what a session's bytes may depend on: STD, the profile and the level written, WIDTH, HEIGHT, DEPTH, RPU, GOP, LTR_MAX,
QP, KEYINT and RATE; `work` is what its work region holds. -/

/-- The coding state at open, at the Period rate in force. -/
opaque Config.codecStart (par : List Nat) (num den : Nat) : Nat

/-- What coding a unit comes to. -/
structure EncOut where
  payload : List Byte
  /-- The coding state after it. -/
  next : Nat
  /-- Writes to the work region, offset and bytes; reference samples it reads there, offset and length. -/
  writes : List (Nat × List Byte)
  reads : List (Nat × Nat)
deriving Inhabited

/-- A coded unit. -/
opaque Config.encode (par : List Nat) (code : Nat) (key : Bool) (mark use row rows : Nat) (src work : List Byte) : EncOut

/-- A repeat unit: its payload and the coding state after it. -/
opaque Config.repeatUnit (par : List Nat) (code row rows : Nat) : List Byte × Nat

/-- What decoding the next slice or tile group comes to. -/
structure DecOut where
  /-- Bytes parsed, 0 where the input ends within a syntax element. -/
  take : Nat
  /-- The picture ends, has a decodable header, is a random-access point, has concealed blocks, is concealed whole, refers
  to a concealed picture. -/
  ends : Bool
  header : Bool
  rap : Bool
  conceal : Bool
  whole : Bool
  refsBad : Bool
  /-- What its parameter sets or its sequence header say (Table 14-2): general_profile_idc or seq_profile, general_level_idc or
  seq_level_idx, chroma (0 monochrome, 1 4:2:0, 2 4:2:2, 3 4:4:4), bits of a sample, an option that no role supports. -/
  profile : Nat
  level : Nat
  chroma : Nat
  bits : Nat
  extension : Bool
  w : Nat
  h : Nat
  /-- Samples of the work region that it reads, offset and length; the samples of the picture that are concealed. -/
  reads : List (Nat × Nat)
  gone : List (Nat × Nat)
  /-- Which free buffer the picture takes; the buffers that are references after it; those output now, in order. -/
  pick : Nat
  refs : BitVec 16
  shows : List Nat
  samples : List Byte
  next : Nat
deriving Inhabited

/-- Decode from a coding state; a byte with its mark is poisoned; `cut` at the time bound. -/
opaque Config.decode (par : List Nat) (code : Nat) (cut : Bool) (input work : List (Byte × Bool)) : DecOut

/-- Bytes before the next random-access point in the input, none where it has none. -/
opaque Config.nextRap (par : List Nat) (input : List (Byte × Bool)) : Option Nat

end Sys2Proof.Machine
end

