-- ==== Sys2Proof/Machine/LexTable.lean ====
section
/-!
DEFINITION. Machine/LexTable.lean: the entries of the Lexicon (R384 to R386, R393, R394): Tables 02-7, 02-11, 04-6,
10-14, 11-8, 12-11, 13-2, 14-9, 16-5, 16-8, 17-5, 18-9, 19-9 and 20-14. A row stands for `n` indexes from `base` and
`m` subindices from `sub`.
-/
namespace Sys2Proof.Machine

/-- Table 16-2; an OCTET_STRING with the length its entry states. -/
inductive LexTy
  | i32 | u8 | u16 | u32 | r32 | vstr | ostr (n : Nat) | i64 | u64
deriving DecidableEq, Repr

/-- The CiA 301 code of a type (Table 16-2). -/
def LexTy.code : LexTy → Nat
  | .i32 => 4 | .u8 => 5 | .u16 => 6 | .u32 => 7 | .r32 => 8 | .vstr => 9 | .ostr _ => 10 | .i64 => 0x15 | .u64 => 0x1B

/-- The bytes of a type; the largest length of a VISIBLE_STRING. -/
def LexTy.bytes : LexTy → Nat
  | .i32 => 4 | .u8 => 1 | .u16 => 2 | .u32 => 4 | .r32 => 4 | .vstr => 64 | .ostr n => n | .i64 => 8 | .u64 => 8

/-- The state condition of an Apply column (R386). -/
inductive LexCond
  | none
  /-- Only while the context is FREE or REJECTED (Table 02-7). -/
  | freeOrRejected
  /-- Only while the context is FREE (Table 10-14). -/
  | free
  /-- Only while no context is ACTIVE or DRAINING (Tables 11-8, 13-2). -/
  | noneResident
deriving DecidableEq, Repr

/-- Apply timing (R386). -/
inductive LexAp
  | immediate
  | tick (c : LexCond)
  | command
deriving DecidableEq, Repr

/-- The apply code of R382. -/
def LexAp.code : LexAp → Nat
  | .immediate => 0 | .tick .none => 1 | .tick _ => 2 | .command => 3

structure LexRow where
  base : Nat
  n : Nat
  sub : Nat
  m : Nat
  ty : LexTy
  rw : Bool
  ap : LexAp
  dflt : Nat
deriving DecidableEq, Repr

/-- A read-only Immediate row. -/
def ro (base n sub m : Nat) (ty : LexTy) : LexRow := ⟨base, n, sub, m, ty, false, .immediate, 0⟩
/-- A writable row. -/
def rw (base n sub m : Nat) (ty : LexTy) (ap : LexAp) (dflt : Nat) : LexRow := ⟨base, n, sub, m, ty, true, ap, dflt⟩

/-- The communication area (Table 16-5) and the Period and timing area (Tables 02-11, 16-8). -/
def lexRows0 : List LexRow :=
  [ ro 0x1000 1 0 1 .u32, ro 0x1001 1 0 1 .u8, ro 0x1008 1 0 1 .vstr, ro 0x1009 1 0 1 .vstr, ro 0x100A 1 0 1 .vstr,
    ro 0x1018 1 1 4 .u32, ro 0x1C00 1 1 4 .u8,
    rw 0x2000 1 1 1 .u8 (.tick .none) 0, rw 0x2000 1 2 1 .u8 (.tick .none) 2, rw 0x2000 1 3 1 .u32 (.tick .none) 25,
    rw 0x2000 1 4 1 .u32 (.tick .none) 1, rw 0x2000 1 5 1 .u8 (.tick .none) 0,
    ro 0x2001 1 1 1 .u8, ro 0x2001 1 2 1 .u32, ro 0x2002 1 0 1 .u64,
    ro 0x2003 1 1 3 .u8, ro 0x2003 1 4 1 .u32, ro 0x2003 1 5 1 .i32, ro 0x2003 1 6 1 .u8, ro 0x2003 1 7 1 .u64,
    rw 0x2008 2 1 1 .u8 (.tick .none) 0, rw 0x2008 2 2 1 .u32 (.tick .none) 1000, ro 0x2008 2 3 1 .u8,
    rw 0x2010 8 1 1 .u32 (.tick .none) 0, ro 0x2010 8 2 1 .u16 ]

/-- Contexts and claims (Table 02-7), Rephrase policy (Table 04-6). -/
def lexRows1 : List LexRow :=
  [ ro 0x2100 1 1 3 .u8, rw 0x2100 1 4 1 .u32 (.tick .none) 65536,
    rw 0x2110 16 1 1 .u8 .command 0, ro 0x2110 16 2 2 .u8,
    rw 0x2110 16 4 2 .u8 (.tick .freeOrRejected) 0, rw 0x2110 16 6 3 .u8 (.tick .freeOrRejected) 1,
    rw 0x2110 16 9 1 .u8 (.tick .freeOrRejected) 0, ro 0x2110 16 10 1 .u32,
    rw 0x2130 16 1 2 .u8 (.tick .none) 0, ro 0x2130 16 3 1 .u8, ro 0x2130 16 4 1 .u16,
    rw 0x2200 1 1 1 .u16 (.tick .none) 64, rw 0x2200 1 2 1 .u16 (.tick .none) 25, rw 0x2200 1 3 1 .u16 (.tick .none) 0,
    rw 0x2210 16 1 1 .u32 (.tick .none) 0, ro 0x2210 16 2 1 .u32, ro 0x2210 16 3 1 .u8,
    rw 0x2230 16 1 1 (.ostr 32) (.tick .none) 0 ]

/-- Memory (Table 11-8), group (Table 13-2), links and conjunction unit (Table 12-11). -/
def lexRows2 : List LexRow :=
  [ ro 0x2300 1 1 2 .u64, rw 0x2300 1 3 1 .u8 (.tick .noneResident) 0, ro 0x2300 1 4 2 .u8,
    rw 0x2301 1 1 1 .u8 (.tick .none) 8, rw 0x2301 1 2 1 .u8 (.tick .none) 6, rw 0x2301 1 3 2 .u8 (.tick .none) 2,
    rw 0x2301 1 5 1 .u8 (.tick .none) 4,
    rw 0x2302 1 1 1 .u16 (.tick .none) 24, rw 0x2302 1 2 1 .u16 (.tick .none) 100,
    rw 0x2302 1 3 1 .u16 (.tick .none) 1000, rw 0x2303 1 1 1 .u16 (.tick .none) 2000,
    rw 0x2400 1 1 1 .u32 (.tick .none) 0, rw 0x2400 1 2 1 .u8 (.tick .noneResident) 0,
    rw 0x2400 1 3 1 .u8 (.tick .none) 0, rw 0x2400 1 4 1 .u8 (.tick .none) 0xFF, rw 0x2400 1 5 1 .u64 (.tick .none) 1,
    ro 0x2400 1 6 1 .u8, ro 0x2400 1 7 2 .u64,
    rw 0x2401 1 1 1 .u16 (.tick .none) 2000, ro 0x2401 1 2 1 .u16, ro 0x2402 1 1 64 .u32,
    rw 0x2410 16 1 1 .u16 (.tick .none) 0, ro 0x2410 16 2 1 .u16,
    rw 0x2440 18 1 1 .u8 (.tick .none) 1, rw 0x2440 18 2 1 .u16 (.tick .none) 1000, rw 0x2440 18 3 1 .u8 .command 0,
    ro 0x2440 18 4 1 .u8, ro 0x2440 18 5 1 .u32, ro 0x2460 1 1 2 .u32, ro 0x2460 1 3 1 .u64 ]

/-- Codec (Table 14-9), attention (Table 10-14), dependability (Table 17-5), dump and lifetime record (Table 18-9),
power (Table 20-14) and security (Tables 16-8, 19-9). -/
def lexRows3 : List LexRow :=
  [ ro 0x2500 1 1 2 .u8, ro 0x2500 1 3 1 .u16, rw 0x2500 1 4 1 .u16 (.tick .none) 250,
    rw 0x2510 1 1 1 .u8 (.tick .none) 0, ro 0x2510 1 2 1 .u8,
    ro 0x2600 1 1 1 .u32, ro 0x2600 1 2 1 .u16,
    rw 0x2610 16 1 1 .u64 (.tick .free) 0, rw 0x2610 16 2 3 .u32 (.tick .free) 0, ro 0x2610 16 5 3 .u32,
    ro 0x2610 16 8 1 .u8,
    ro 0x2700 1 1 6 .u8, rw 0x2700 1 7 1 .u8 (.tick .none) 4,
    rw 0x2701 1 1 1 .u8 (.tick .none) 2, rw 0x2701 1 2 1 .u32 (.tick .none) 10000, rw 0x2701 1 3 1 .u8 (.tick .none) 2,
    rw 0x2702 1 1 2 .u8 (.tick .none) 0, rw 0x2702 1 3 1 .u8 .command 0, ro 0x2702 1 4 1 .u8,
    rw 0x2703 1 1 1 .u64 (.tick .none) 0, rw 0x2703 1 2 1 .u32 (.tick .none) 0, ro 0x2703 1 3 1 .u8,
    rw 0x2703 1 4 1 .u8 .command 0,
    ro 0x2800 1 1 1 .u64, ro 0x2800 1 2 2 .u32, ro 0x2800 1 4 2 .u64, ro 0x2800 1 6 1 .u8,
    ro 0x2810 16 0 1 (.ostr 1024), ro 0x2820 1 0 1 (.ostr 832),
    ro 0x2900 1 1 3 .u16, ro 0x2901 1 1 8 .u16, ro 0x2902 1 1 3 .i32, rw 0x2902 1 4 1 .u8 (.tick .none) 95,
    ro 0x2902 1 5 1 .u8,
    ro 0x2A00 1 1 1 .u32, ro 0x2A00 1 2 1 .u16, ro 0x2A00 1 3 2 .u8,
    rw 0x2A01 1 1 1 .u8 (.tick .none) 1, ro 0x2A02 1 0 1 (.ostr 64) ]

/-- The value bytes of a type for the Lexicon's own count of subindices (R384): subindex 0 of a record. -/
def lexRows : List LexRow := lexRows0 ++ lexRows1 ++ lexRows2 ++ lexRows3

def LexRow.has (r : LexRow) (index sub : Nat) : Bool :=
  decide (r.base ≤ index ∧ index < r.base + r.n ∧ r.sub ≤ sub ∧ sub < r.sub + r.m)

/-- Does the index exist (R394)? -/
def lexIndex (index : Nat) : Bool := lexRows.any fun r => decide (r.base ≤ index ∧ index < r.base + r.n)

/-- The highest subindex of an index. -/
def lexCount (index : Nat) : Nat :=
  lexRows.foldl (fun a r => if r.base ≤ index ∧ index < r.base + r.n then max a (r.sub + r.m - 1) else a) 0

/-- The row of an entry and subindex; subindex 0 of a record is UNSIGNED8, RO and Immediate, with the count (R384). -/
def lexRow (index sub : Nat) : Option LexRow :=
  match lexRows.find? (·.has index sub) with
  | some r => some r
  | none => if sub = 0 ∧ lexIndex index then some ⟨index, 1, 0, 1, .u8, false, .immediate, lexCount index⟩ else none

/-- The default of a writable entry. -/
def lexDefault (index sub : Nat) : Nat := ((lexRow index sub).map (·.dflt)).getD 0

/-- Check 5 of Table 16-3: the value lies in the range, and is an encoding, that the entry's table states. -/
def lexInRange (index sub v : Nat) : Bool :=
  if index = 0x2000 then
    match sub with
    | 1 => decide (v ≤ 3)
    | 2 => decide (v ≤ 0xA ∨ v = 0xF)
    | 5 => decide (v ≤ 1)
    | _ => true
  else if index = 0x2008 ∨ index = 0x2009 then
    match sub with
    | 1 => decide (v ≤ 1)
    | 2 => decide (100 ≤ v ∧ v ≤ 1000000)
    | _ => true
  else if 0x2110 ≤ index ∧ index < 0x2120 then
    match sub with
    | 1 => decide (v ≤ 2)
    | 4 => decide (v ≤ 7)
    | 5 => decide (v ≤ 1)
    | 6 => decide (1 ≤ v ∧ v ≤ 128)
    | 7 => decide (1 ≤ v ∧ v ≤ 192)
    | 8 => decide (1 ≤ v ∧ v ≤ 192)
    | 9 => decide (v ≤ 1)
    | _ => true
  else if index = 0x2200 ∧ sub = 2 then decide (1 ≤ v ∧ v ≤ 1024)
  else if index = 0x2300 ∧ sub = 3 then decide (v ≤ 4)
  else if index = 0x2301 then decide (v ≤ 15)
  else if index = 0x2302 then
    match sub with
    | 1 => decide (1 ≤ v ∧ v ≤ 168)
    | 2 => decide (10 ≤ v ∧ v ≤ 1000)
    | 3 => decide (1000 ≤ v ∧ v ≤ 16000)
    | _ => true
  else if index = 0x2303 then decide (500 ≤ v ∧ v ≤ 10000)
  else if index = 0x2400 then
    match sub with
    | 2 => decide (v ≤ 63)
    | 3 => decide (v ≤ 63)
    | 4 => decide (v ≤ 63 ∨ v = 0xFF)
    | _ => true
  else if index = 0x2401 ∧ sub = 1 then decide (1000 ≤ v ∧ v ≤ 10000)
  else if 0x2440 ≤ index ∧ index < 0x2452 then
    match sub with
    | 1 => decide (v ≤ 1)
    | 2 => decide (16 ≤ v)
    | 3 => decide (v ≤ 1)
    | _ => true
  else if index = 0x2500 ∧ sub = 4 then decide (50 ≤ v ∧ v ≤ 2000)
  else if index = 0x2510 ∧ sub = 1 then decide (v = 0 ∨ v = 2 ^ v.log2)
  else if 0x2610 ≤ index ∧ index < 0x2620 then
    match sub with
    | 1 => decide (v % 65536 = 0 ∧ v < 2 ^ 52)
    | 2 => decide (v < 2 ^ 27)
    | 3 => decide (v % 65536 = 0)
    | _ => true
  else if index = 0x2700 ∧ sub = 7 then decide (v ≤ 7)
  else if index = 0x2701 then
    match sub with
    | 1 => decide (1 ≤ v ∧ v ≤ 16)
    | 2 => decide (100 ≤ v ∧ v ≤ 1000000)
    | 3 => decide (1 ≤ v)
    | _ => true
  else if index = 0x2702 then
    match sub with
    | 1 => decide (v ≤ 6)
    | 3 => decide (v ≤ 3)
    | _ => true
  else if index = 0x2703 then
    match sub with
    | 1 => decide (v = 0 ∨ (v / 2 ^ 51 = 1 ∧ v % 4096 = 0))
    | 2 => decide (v % 4096 = 0)
    | 4 => decide (v ≤ 1)
    | _ => true
  else if index = 0x2902 ∧ sub = 4 then decide (70 ≤ v ∧ v ≤ 100)
  else if index = 0x2A01 then decide (v ≤ 2)
  else true

end Sys2Proof.Machine
end

