-- ==== Sys2Proof/Machine/Num.lean ====
section
/-!
DEFINITION. Machine/Num.lean: the number formats of Table 03-1, exact values, the rounding modes, the stochastic
generator, FP32 arithmetic, output conversion and the wire formats (R51 to R75).
-/
namespace Sys2Proof.Machine

/-- Rounding modes (Table 03-5). -/
inductive RMode | rne | rtz | rdn | rup | sr
deriving DecidableEq, Repr

/-- The mode a 3-bit field names; codes 5 to 7 never select a mode (R67). -/
def RMode.ofCode : Nat → Option RMode
  | 0 => some .rne
  | 1 => some .rtz
  | 2 => some .rdn
  | 3 => some .rup
  | 4 => some .sr
  | _ => none

/-- An exact value: NaN, an infinity, or a sign and a magnitude n / d with d > 0. -/
inductive Num
  | nan
  | inf (neg : Bool)
  | fin (neg : Bool) (n d : Nat)
deriving DecidableEq, Repr

/-- m × 2^e as a fraction. -/
def pow2frac (m : Nat) (e : Int) : Nat × Nat :=
  if 0 ≤ e then (m * 2 ^ e.toNat, 1) else (m, 2 ^ (-e).toNat)

/-- The value (−1)^s × m × 2^e. -/
def Num.dyadic (neg : Bool) (m : Nat) (e : Int) : Num :=
  .fin neg (pow2frac m e).1 (pow2frac m e).2

/-- The value of an integer times 2^e; zero is +0. -/
def Num.ofInt (i : Int) (e : Int) : Num := .dyadic (decide (i < 0)) i.natAbs e

def Num.isNan : Num → Bool | .nan => true | _ => false
def Num.isInf : Num → Bool | .inf _ => true | _ => false
def Num.isZero : Num → Bool | .fin _ n _ => n == 0 | _ => false
def Num.isFin : Num → Bool | .fin _ _ _ => true | _ => false
def Num.isNeg : Num → Bool | .fin s _ _ => s | .inf s => s | .nan => false

def Num.negate : Num → Num
  | .nan => .nan
  | .inf s => .inf (!s)
  | .fin s n d => .fin (!s) n d

def Num.abs : Num → Num
  | .nan => .nan
  | .inf _ => .inf false
  | .fin _ n d => .fin false n d

/-- The signed numerator. -/
def signed (neg : Bool) (n : Nat) : Int := if neg then -(n : Int) else n

/-- Exact sum; a zero sum of values that are not both −0 is +0 (R63; IEEE under RNE). -/
def Num.add : Num → Num → Num
  | .nan, _ => .nan
  | _, .nan => .nan
  | .inf s, .inf t => if s == t then .inf s else .nan
  | .inf s, _ => .inf s
  | _, .inf t => .inf t
  | .fin s a b, .fin t c d =>
    let z := signed s (a * d) + signed t (c * b)
    if z = 0 then .fin (s && t) 0 1 else .fin (decide (z < 0)) z.natAbs (b * d)

def Num.sub (x y : Num) : Num := x.add y.negate

/-- Exact product; an infinity times zero is NaN (R63). -/
def Num.mul : Num → Num → Num
  | .nan, _ => .nan
  | _, .nan => .nan
  | .inf s, .inf t => .inf (s != t)
  | .inf s, .fin t c _ => if c = 0 then .nan else .inf (s != t)
  | .fin s a _, .inf t => if a = 0 then .nan else .inf (s != t)
  | .fin s a b, .fin t c d => .fin (s != t) (a * c) (b * d)

/-- Exact quotient. -/
def Num.div : Num → Num → Num
  | .nan, _ => .nan
  | _, .nan => .nan
  | .inf _, .inf _ => .nan
  | .inf s, .fin t _ _ => .inf (s != t)
  | .fin s _ _, .inf t => .fin (s != t) 0 1
  | .fin s a b, .fin t c d =>
    if c = 0 then (if a = 0 then .nan else .inf (s != t)) else .fin (s != t) (a * d) (b * c)

/-- x < y as real numbers; false where either is NaN. -/
def Num.lt : Num → Num → Bool
  | .nan, _ => false
  | _, .nan => false
  | .inf s, .inf t => s && !t
  | .inf s, .fin _ _ _ => s
  | .fin _ _ _, .inf t => !t
  | .fin s a b, .fin t c d => decide (signed s (a * d) < signed t (c * b))

/-- x = y as real numbers; false where either is NaN. -/
def Num.eqv (x y : Num) : Bool := !x.isNan && !y.isNan && !x.lt y && !y.lt x

/-! ## Floating-point layouts (Tables 03-1, 03-3) -/

/-- Exponent width, mantissa width and bias of a floating-point layout. -/
structure FF where
  ew : Nat
  mw : Nat
  bias : Nat
deriving DecidableEq, Repr

def ffFp4 : FF := ⟨2, 1, 1⟩
def ffE4m3 : FF := ⟨4, 3, 7⟩
def ffE5m2 : FF := ⟨5, 2, 15⟩
def ffBf16 : FF := ⟨8, 7, 127⟩
def ffFp32 : FF := ⟨8, 23, 127⟩

/-- Exponent of the smallest normal. -/
def FF.emin (f : FF) : Int := 1 - (f.bias : Int)

def FF.sign (f : FF) (c : Nat) : Bool := c.testBit (f.ew + f.mw)
def FF.expo (f : FF) (c : Nat) : Nat := c / 2 ^ f.mw % 2 ^ f.ew
def FF.mant (f : FF) (c : Nat) : Nat := c % 2 ^ f.mw

/-- The value of a code that is no special (R53, R54). -/
def FF.finite (f : FF) (c : Nat) : Num :=
  if f.expo c = 0 then .dyadic (f.sign c) (f.mant c) (f.emin - f.mw)
  else .dyadic (f.sign c) (2 ^ f.mw + f.mant c) ((f.expo c : Int) - f.bias - f.mw)

/-- The value of a code of a layout with infinities and NaN at the top exponent (E5M2, BF16, FP32). -/
def FF.ieee (f : FF) (c : Nat) : Num :=
  if f.expo c = 2 ^ f.ew - 1 then (if f.mant c = 0 then .inf (f.sign c) else .nan) else f.finite c

def numFp4 (c : Nat) : Num := ffFp4.finite c
/-- E4M3: 0x7F and 0xFF are NaN, there is no infinity (Table 03-3). -/
def numE4m3 (c : Nat) : Num := if c % 128 = 127 then .nan else ffE4m3.finite c
def numE5m2 (c : Nat) : Num := ffE5m2.ieee c
def numBf16 (c : Nat) : Num := ffBf16.ieee c
/-- The value of an FP32 word. -/
def f32 (w : Word) : Num := ffFp32.ieee w.toNat

/-- A two's-complement field of `w` bits. -/
def sext (w c : Nat) : Int := if c % 2 ^ w < 2 ^ (w - 1) then (c % 2 ^ w : Int) else (c % 2 ^ w : Int) - 2 ^ w

/-- Format codes (Table 03-1). -/
inductive Fmt | fp4 | int4 | e4m3 | e5m2 | int8 | bf16 | fp32
deriving DecidableEq, Repr

def Fmt.ofCode : Nat → Option Fmt
  | 0 => some .fp4
  | 1 => some .int4
  | 2 => some .e4m3
  | 3 => some .e5m2
  | 4 => some .int8
  | 5 => some .bf16
  | 6 => some .fp32
  | _ => none

def Fmt.code : Fmt → Nat
  | .fp4 => 0 | .int4 => 1 | .e4m3 => 2 | .e5m2 => 3 | .int8 => 4 | .bf16 => 5 | .fp32 => 6

/-- Width of an element in bits. -/
def Fmt.width : Fmt → Nat
  | .fp4 => 4 | .int4 => 4 | .e4m3 => 8 | .e5m2 => 8 | .int8 => 8 | .bf16 => 16 | .fp32 => 32

/-- The formats that carry block scales (Table 03-1). -/
def Fmt.blocked : Fmt → Bool
  | .fp4 => true | .int4 => true | .e4m3 => true | .e5m2 => true | .int8 => true | .bf16 => false | .fp32 => false

/-- The value of an element code (R53, R54, Table 03-1). -/
def Fmt.value : Fmt → Nat → Num
  | .fp4, c => numFp4 c
  | .int4, c => .ofInt (sext 4 c) 0
  | .e4m3, c => numE4m3 c
  | .e5m2, c => numE5m2 c
  | .int8, c => .ofInt (sext 8 c) 0
  | .bf16, c => numBf16 c
  | .fp32, c => ffFp32.ieee c

/-- The largest element of a block-scaled output (R65). -/
def Fmt.elemMax : Fmt → Nat
  | .fp4 => 6 | .int4 => 7 | .e4m3 => 448 | .e5m2 => 57344 | .int8 => 127 | .bf16 => 0 | .fp32 => 0

/-- The code of the largest element (R65, Table 03-3). -/
def Fmt.maxCode : Fmt → Nat
  | .fp4 => 0x7 | .int4 => 7 | .e4m3 => 0x7E | .e5m2 => 0x7B | .int8 => 127 | .bf16 => 0x7F7F | .fp32 => 0x7F7FFFFF

/-- The code of minus the largest element. -/
def Fmt.minCode : Fmt → Nat
  | .fp4 => 0xF | .int4 => 9 | .e4m3 => 0xFE | .e5m2 => 0xFB | .int8 => 129 | .bf16 => 0xFF7F | .fp32 => 0xFF7FFFFF

/-! ## Scales (R55 to R57) -/

/-- The block exponent of an E8M0 code, none for the NaN code 0xFF (R55). -/
def blockExp (c : Nat) : Option Int := if c = 255 then none else some ((c : Int) - 127)

/-- A block exponent is in range from −40 to +40 (R56). -/
def expInRange (e : Int) : Bool := decide (-40 ≤ e) && decide (e ≤ 40)

def clampExp (e : Int) : Int := max (-40) (min 40 e)

/-- A tensor scale is a positive, finite, normal FP32 value (R57). -/
def tscaleOk (w : Word) : Bool :=
  !ffFp32.sign w.toNat && ffFp32.expo w.toNat != 0 && ffFp32.expo w.toNat != 255

/-! ## Rounding -/

/-- floor(log2 (n / d)) for n, d > 0. -/
def log2q (n d : Nat) : Int :=
  let e : Int := (n.log2 : Int) - d.log2
  if (pow2frac d e).1 ≤ n * (pow2frac d e).2 then e else e - 1

/-- Whether the larger candidate is taken: `lo` the smaller candidate, `rem / den` the fraction between the two (R67,
R68; r is the word of the generator). -/
def roundUp (m : RMode) (neg : Bool) (lo rem den r : Nat) : Bool :=
  if rem = 0 then false
  else match m with
    | .rne => decide (2 * rem > den) || (decide (2 * rem = den) && decide (lo % 2 = 1))
    | .rtz => false
    | .rdn => neg
    | .rup => !neg
    | .sr => decide (2 ^ 32 ≤ rem * 2 ^ 32 / den + r)

/-- n / d rounded to an integer. -/
def roundInt (m : RMode) (neg : Bool) (n d r : Nat) : Nat :=
  n / d + (if roundUp m neg (n / d) (n % d) d r then 1 else 0)

/-- The magnitude code of n / d in a floating-point layout with no upper limit: the code one above the largest
finite stands for the next step of the grid. -/
def FF.roundMag (f : FF) (m : RMode) (neg : Bool) (n d r : Nat) : Nat :=
  if n = 0 then 0
  else
    let e := max (log2q n d) f.emin
    let u := e - f.mw
    let k := roundInt m neg (n * (pow2frac 1 (-u)).1) (d * (pow2frac 1 (-u)).2) r
    (e - f.emin).toNat * 2 ^ f.mw + k

/-- What a conversion gives: the code and the flags it sets (R71). -/
structure Conv where
  code : Nat
  sat : Bool := false
  nan : Bool := false
deriving DecidableEq, Repr

/-- Conversion to BF16 or FP32 (Table 03-7). -/
def FF.conv (f : FF) (m : RMode) (r : Nat) (v : Num) : Conv :=
  let top := 2 ^ (f.ew + f.mw)
  let infc := (2 ^ f.ew - 1) * 2 ^ f.mw
  match v with
  | .nan => { code := infc + 2 ^ (f.mw - 1), nan := true }
  | .inf s => { code := (if s then top else 0) + infc }
  | .fin s n d =>
    let sg := if s then top else 0
    let lim := f.finite (infc - 1)
    if lim.lt (.fin false n d) then
      let past : Bool :=
        match m with
        | .rtz => false
        | .rdn => s
        | .rup => !s
        | .rne => decide (infc ≤ f.roundMag .rne s n d r)
        | .sr => decide (infc ≤ f.roundMag .sr s n d r)
      { code := sg + (if past then infc else infc - 1), sat := true }
    else { code := sg + f.roundMag m s n d r }

/-- One FP32 result under RNE (R197). -/
def toF32 (v : Num) : Word := BitVec.ofNat 32 (ffFp32.conv .rne 0 v).code

def toBf16 (m : RMode) (r : Nat) (v : Num) : Conv := ffBf16.conv m r v

/-- The generated NaN of FP32 (Table 03-3). -/
def f32NaN : Word := 0x7FC00000#32
def f32One : Word := 0x3F800000#32
def f32Inf : Word := 0x7F800000#32
def f32NegInf : Word := 0xFF800000#32

def fadd32 (a b : Word) : Word := toF32 ((f32 a).add (f32 b))
def fsub32 (a b : Word) : Word := toF32 ((f32 a).sub (f32 b))
def fmul32 (a b : Word) : Word := toF32 ((f32 a).mul (f32 b))
def fdiv32 (a b : Word) : Word := toF32 ((f32 a).div (f32 b))
/-- a × b + c rounded once. -/
def fma32 (a b c : Word) : Word := toF32 (((f32 a).mul (f32 b)).add (f32 c))
def fneg32 (a : Word) : Word := if (f32 a).isNan then f32NaN else a ^^^ 0x80000000#32
def fabs32 (a : Word) : Word := if (f32 a).isNan then f32NaN else a &&& 0x7FFFFFFF#32
def natToF32 (n : Nat) : Word := toF32 (.fin false n 1)
def intToF32 (i : Int) : Word := toF32 (.ofInt i 0)

/-- Whether one FP32 operation overflowed: an infinity made from finite operands. -/
def overflowed (exact : Num) : Bool := (ffFp32.conv .rne 0 exact).sat

/-! ## The stochastic generator (R69) -/

def srQuarter (a b c d : Word) : Word × Word × Word × Word :=
  let a := a + b
  let d := (d ^^^ a).rotateLeft 16
  let c := c + d
  let b := (b ^^^ c).rotateLeft 12
  let a := a + b
  let d := (d ^^^ a).rotateLeft 8
  let c := c + d
  let b := (b ^^^ c).rotateLeft 4
  (a, b, c, d)

/-- The word of the generator for an element (R69). -/
def srWord (seed tensorId : Word) (index : Nat) : Word :=
  let (a, b, c, d) := srQuarter seed tensorId (BitVec.ofNat 32 index)
    (0x6A5D39C1#32 ^^^ BitVec.ofNat 32 (index / 2 ^ 32))
  let (a, b, c, d) := srQuarter a b c d
  a ^^^ b ^^^ c ^^^ d

/-! ## The long accumulator (R59 to R63) -/

/-- The special state of an accumulator (R63). -/
inductive Special | finite | posInf | negInf | nan
deriving DecidableEq, Repr

/-- One accumulator: A in units of 2^-120 × sA × sB, its sticky bit and special state, and whether a product was
clamped (R59, R61, R63); with what the entered sum holds beyond A, which the conversion needs (R62). -/
structure Acc where
  a : Int := 0
  sticky : Bool := false
  /-- The entered sum less A, in units of 2^-266, the last bit of a product of BF16 elements. -/
  rest : Nat := 0
  /-- Something lies below 2^-266: a quotient by a tensor scale that is no power of two (R84). -/
  below : Bool := false
  special : Special := .finite
  clamped : Bool := false
deriving DecidableEq, Repr

/-- Two special states meeting (R63). -/
def Special.join : Special → Special → Special
  | .finite, x => x
  | x, .finite => x
  | .posInf, .posInf => .posInf
  | .negInf, .negInf => .negInf
  | _, _ => .nan

/-- A finite product enters A: truncated toward minus infinity to a multiple of 2^-120, or clamped to ±2^114 (R61).
`bf16` products alone can be inexact (R60). -/
def Acc.addFinite (x : Acc) (neg : Bool) (n d : Nat) : Acc :=
  if 2 ^ 114 * d ≤ n then
    { x with a := x.a + signed neg (2 ^ 234), clamped := true }
  else
    let z : Int := signed neg (n * 2 ^ 120)
    let r := (z % (d : Int)).toNat * 2 ^ 146
    { x with a := x.a + z / (d : Int), sticky := x.sticky || decide (z % (d : Int) ≠ 0)
             rest := x.rest + r / d, below := x.below || decide (r % d ≠ 0) }

/-- A product enters an accumulator (R61, R63). -/
def Acc.addProduct (x : Acc) (p : Num) : Acc :=
  match p with
  | .nan => { x with special := .nan }
  | .inf s => { x with special := x.special.join (if s then .negInf else .posInf) }
  | .fin s n d => x.addFinite s n d

/-- Two accumulators' contents added (the check column's sums, R107). -/
def Acc.merge (x y : Acc) : Acc :=
  { a := x.a + y.a, sticky := x.sticky || y.sticky, rest := x.rest + y.rest, below := x.below || y.below, special := x.special.join y.special
    clamped := x.clamped || y.clamped }

/-- The entered sum × sA × sB, as which the accumulator converts (R62, R64); what lies below 2^-266 counts as half of that
(DESIGN CHOICE, log entry 41). A zero result from a finite state is +0 (R63). -/
def Acc.value (x : Acc) (sA sB : Word) : Num :=
  match x.special with
  | .nan => .nan
  | .posInf => .inf false
  | .negInf => .inf true
  | .finite =>
    let sum : Int := x.a * 2 ^ 146 + x.rest
    let e : Num := if x.below then .ofInt (2 * sum + 1) (-267) else .ofInt sum (-266)
    (e.mul (f32 sA)).mul (f32 sB)

/-- An operand element with its block exponent: the product's factor without the tensor scale (R55, R63). -/
def operandValue (f : Fmt) (code : Nat) (e : Option Int) : Num :=
  match e with
  | none => .nan
  | some k => (f.value code).mul (.dyadic false 1 k)

/-! ## Block-scaled outputs (R65, R66) -/

/-- What the conversion of one block gives. -/
structure BlockConv where
  scale : Nat
  codes : List Nat
  sat : Bool := false
  nan : Bool := false
  satBlock : Bool := false
  flushed : Bool := false
  scaleOut : Bool := false
deriving DecidableEq, Repr

/-- The largest magnitude among finite values. -/
def amax : List Num → Num
  | [] => .fin false 0 1
  | v :: vs =>
    let r := amax vs
    if v.isFin && r.lt v.abs then v.abs else r

/-- ceiling(log2 (n / d)). -/
def clog2q (n d : Nat) : Int :=
  let e := log2q n d
  if n * (pow2frac 1 (-e)).1 = d * (pow2frac 1 (-e)).2 then e else e + 1

/-- One element of a block format: a magnitude rounded and clamped to elem_max; every zero is +0 (R65). -/
def Fmt.roundElem (f : Fmt) (m : RMode) (neg : Bool) (n d r : Nat) : Nat :=
  match f with
  | .int4 =>
    let k := min 7 (roundInt m neg n d r)
    if neg then (16 - k) % 16 else k
  | .int8 =>
    let k := min 127 (roundInt m neg n d r)
    if neg then (256 - k) % 256 else k
  | .fp4 =>
    let k := min 0x7 (ffFp4.roundMag m neg n d r)
    if neg && k != 0 then k + 0x8 else k
  | .e4m3 =>
    let k := min 0x7E (ffE4m3.roundMag m neg n d r)
    if neg && k != 0 then k + 0x80 else k
  | .e5m2 =>
    let k := min 0x7B (ffE5m2.roundMag m neg n d r)
    if neg && k != 0 then k + 0x80 else k
  | .bf16 => 0
  | .fp32 => 0

/-- The block exponent before its clamp (R65): 0 for an all-zero block. -/
def rawBlockExp (f : Fmt) (a : Num) : Int :=
  match a with
  | .fin _ n d => if n = 0 then 0 else clog2q n (d * f.elemMax)
  | _ => 0

/-- Conversion of one block: the values already divided by the output tensor scale, each with its generator word
(R65, R66, Table 03-7). A block with a NaN sets NAN_SEEN alone, whatever else it holds (DESIGN CHOICE, log entry 90). -/
def blockConv (f : Fmt) (m : RMode) (vs : List (Num × Nat)) : BlockConv :=
  let nums := vs.map (·.1)
  if nums.any Num.isNan then
    { scale := 0xFF, codes := vs.map (fun _ => 0), nan := true }
  else
    let raw := rawBlockExp f (amax nums)
    let e := clampExp raw
    let elem (v : Num × Nat) : Nat × Bool :=
      match v.1 with
      | .inf s => (if s then f.minCode else f.maxCode, true)
      | .nan => (0, false)
      | .fin s n d =>
        let n' := n * (pow2frac 1 (-e)).1
        let d' := d * (pow2frac 1 (-e)).2
        (f.roundElem m s n' d' v.2, decide (f.elemMax * d' < n'))
    let es := vs.map elem
    let anySat := es.any (·.2)
    { scale := (e + 127).toNat
      codes := es.map (·.1)
      sat := anySat
      satBlock := anySat
      flushed := nums.any (fun v => !v.isZero) && es.all (fun x => decide (x.1 = 0))
      scaleOut := decide (raw ≠ e) }

/-! ## Wire formats (R72 to R74) -/

inductive Wire | w64 | w128
deriving DecidableEq, Repr

def Wire.bytes : Wire → Nat | .w64 => 8 | .w128 => 16
/-- The contribution limit (R73). -/
def Wire.limit : Wire → Nat | .w64 => 2 ^ 57 - 1 | .w128 => 2 ^ 121 - 1
/-- The wire NaN code, the most negative integer (R73). -/
def Wire.nanInt : Wire → Int | .w64 => -(2 ^ 63) | .w128 => -(2 ^ 127)

/-- What one contribution puts on the wire, with its flags (R72, R73, Table 03-7). -/
structure WireConv where
  w : Int
  sat : Bool := false
  nan : Bool := false
deriving DecidableEq, Repr

def Wire.conv (k : Wire) (L : Int) (v : Num) : WireConv :=
  match v with
  | .nan => { w := k.nanInt, nan := true }
  | .inf s => { w := signed s k.limit, sat := true }
  | .fin s n d =>
    let q := roundInt .rne s (n * (pow2frac 1 (-L)).1) (d * (pow2frac 1 (-L)).2) 0
    if k.limit < q then { w := signed s k.limit, sat := true } else { w := signed s q }

/-- A sum with a NaN contribution is NaN (R73). -/
def Wire.add (k : Wire) (x y : Int) : Int :=
  if x = k.nanInt || y = k.nanInt then k.nanInt else x + y

/-- The value W × 2^L (R72). -/
def Wire.value (k : Wire) (L : Int) (w : Int) : Num := if w = k.nanInt then .nan else .ofInt w L

end Sys2Proof.Machine
end

