-- ==== Sys2Proof/Machine/State.lean ====
section
/-!
DEFINITION. Machine/State.lean: the state of the Kraip as plain data, chapter by chapter, and the state right after
reset. `Dev` is the device; `State` adds the captured copies (R376, R377) and the queue of commands that wait. Field
docstrings name the rule or register that gives the field.
-/
namespace Sys2Proof.Machine

/-- The block has no stop: no command ends in a fault, so this type has no constructor. -/
inductive Fault
deriving DecidableEq, Repr

/-- Why a command has no meaning. -/
inductive Refusal
  /-- Raised by an arm of `exec` for a row that the model gives no meaning; safe. -/
  | notModelled (mnemonic : String)
deriving DecidableEq, Repr

/-! ## The Period (02) -/

/-- `SUP_PERIOD_STAT.STATE` (Table 02-4). -/
inductive PState | freeRun | locked | holdover | acquiring
deriving DecidableEq, Repr

structure Period where
  /-- The 1 GHz timestamp count (R8). -/
  now : Nat := 0
  /-- A tick has been made since boot (R29). -/
  started : Bool := false
  /-- The Period number (R29). -/
  number : DWord := 0
  /-- Time of the last tick. -/
  lastTick : Nat := 0
  pstate : PState := .freeRun
  /-- The source in force, Table 02-2. -/
  source : BitVec 2 := 0
  /-- The rate code in force, Table 02-3, with the custom rate in force (R23). -/
  rate : BitVec 8 := 2
  num : Nat := 25
  den : Nat := 1
  /-- Epoch and next k of the internal generator (R24). -/
  epoch : Nat := 0
  k : Nat := 0
  /-- The first event of a new setting is awaited (R28). -/
  newSetting : Bool := false
  /-- Accepted intervals since the source or the rate changed, newest first, at most 16 (R26). -/
  intervals : List Nat := []
  /-- The last measured interval (Lexicon 0x2001 sub 2). -/
  lastInterval : Nat := 0
  /-- The source time of the last tick: when its event came or its generator made it, before any tick lead (R25, R306). -/
  lastSrc : Nat := 0
  /-- Time from which the next holdover tick is counted (R26). -/
  base : Nat := 0
  /-- Consecutive tied events (R26). -/
  ties : Nat := 0
  /-- The run of events outside the tie window: count and time of the last (R27). -/
  run : Nat := 0
  runLast : Nat := 0
  /-- `SUP_APPLY_LAST.DURATION`. -/
  applyLast : BitVec 13 := 0
  /-- `SUP_OVERRUN.CTX`. -/
  overrun : BitVec 16 := 0
  /-- The entry that holds SYNC_OUT, 0 for none (R48); the pin is high, with the time its pulse ends (R465). -/
  syncHolder : Nat := 0
  syncOutHigh : Bool := false
  pulseEnd : Nat := 0
deriving DecidableEq, Repr

/-- A Period-edge comparator (R48, R50). -/
structure Comparator where
  /-- Lexicon index of the holding entry, 0 for none. -/
  holder : Nat := 0
  armed : Bool := false
  fired : Bool := false
  /-- The offset re-armed at step 6. -/
  offset : Nat := 0
deriving DecidableEq, Repr

/-! ## The Lexicon (16) -/

structure Lex where
  /-- RW values in force that differ from their defaults: key 256 × index + subindex, in canonical form. -/
  vals : List (Nat × Nat) := []
  /-- The buffer of accepted writes of the current Period, last write kept (R32, R387), in canonical form. -/
  buf : List (Nat × Nat) := []
  /-- Claim statuses: claiming indexes whose last claim was denied (R49). -/
  denied : List Nat := []
  /-- `LEX_MBX_CTL` OP, SUBINDEX and INDEX. -/
  op : BitVec 3 := 0
  sub : BitVec 8 := 0
  index : BitVec 16 := 0
  /-- `LEX_MBX_LEN`. -/
  len : BitVec 11 := 0
  busy : Bool := false
  count : BitVec 16 := 0
  /-- `LEX_MBX_RESULT`. -/
  result : Word := 0
  /-- `LEX_STAT.REFUSED`. -/
  refused : BitVec 16 := 0
  /-- `LEX_MBX_DATA`, little-endian words. -/
  data : Vector Word 256 := Vector.replicate 256 0
  /-- The flash read that a mailbox read waits for: the entry. -/
  flashWait : Option (Nat × Nat) := none
  /-- Window reads of `LEX_MBX_RESULT` that complete when the operation ends (R380). -/
  readers : Nat := 0
  /-- The flash read that a CoE upload waits for. -/
  coeWait : Option (Nat × Nat) := none
deriving DecidableEq, Repr

/-! ## Commands (07, 15) -/

/-- A fence wait (R163). -/
structure Wait where
  f : BitVec 8
  t : Word
deriving DecidableEq, Repr

/-- The place of a tile: problem, tile row and column, and K chunk (R140). -/
structure TilePos where
  p0 : Nat := 0
  p1 : Nat := 0
  p2 : Nat := 0
  r : Nat := 0
  s : Nat := 0
  ch : Nat := 0
deriving DecidableEq, Repr

/-- A tensor command past step 5 of Table 06-7: its own copy of the entry it uses, its shape and how far it is
expanded (R136 to R141, R192). -/
structure Tensor where
  cmd : Nat
  e : BitVec 2048
  m : Nat
  n : Nat
  k : Nat
  p0 : Nat
  p1 : Nat
  p2 : Nat
  seed : Word
  /-- The selected entry and, where it names a usable one, the wide variant, with their indexes: which of the two the command
  uses is settled when its first tile is expanded (R92, R138). -/
  sel : BitVec 8 := 0
  selE : BitVec 2048 := 0
  wide : Option (BitVec 8 × BitVec 2048) := none
  /-- Place in the expansion procedure: the next candidate. -/
  next : Nat := 0
  /-- Tiles whose final attempt has committed (R86). -/
  fin : List TilePos := []
  /-- The quota has gone to 0 and the tiles not placed have been dropped (R44). -/
  cut : Bool := false
  /-- The epilogue-unusable event has been written (R212). -/
  epiEvent : Bool := false
deriving DecidableEq, Repr

inductive CmdPhase
  /-- Dispatched or issued, its waits not all met. -/
  | waiting
  /-- Its waits are met and its own row runs it. -/
  | ready
  | running
deriving DecidableEq, Repr

/-- A command that has not ended: a dispatched queue entry or a program-issued command (R155, R160, R163). -/
structure Cmd where
  id : Nat
  c : CtxId
  /-- The queue that dispatched it, or the queue whose launch issued it (R369). -/
  q : QId
  /-- Its entry number in the queue; for a program's command, its launch's. -/
  entryNo : Nat
  /-- The launch whose program issued it, none for a queue entry. -/
  launch : Option Nat
  /-- KIND of Table 15-11; 0x40 a tensor command, 0x41 an attention command. -/
  kind : Nat
  entry : Line
  /-- The number of the Period whose work it is (R33). -/
  period : Nat
  waits : List Wait
  sig : Option (BitVec 8)
  phase : CmdPhase := .waiting
  /-- The status with which it ended at issue; it completes with it when its waits are met (R136). -/
  status : Option (BitVec 8) := none
  /-- Flags gathered so far (R373). -/
  flags : BitVec 4 := 0
  arg0 : Word := 0
  arg1 : Word := 0
  fault : BitVec 8 := 0
  /-- Its first unmapped access has been reported (R190). -/
  unmapped : Bool := false
  /-- Its first access to a protected region has been reported (R252). -/
  protect : Bool := false
  /-- The tensor command that an OVERLAP collective binds to, with the tiles it has released (R296). -/
  bound : Option Tensor := none
deriving DecidableEq, Repr

/-! ## Clause processors (07, 08) -/

/-- `CTX_CP_STAT.STATE` (Table 07-9). -/
inductive CpState | idle | running | waiting | stalled | failover
deriving DecidableEq, Repr

/-- A destination register. -/
inductive Dest
  | s (r : BitVec 6)
  | p (r : BitVec 3)
  | v (r : BitVec 5)
deriving DecidableEq, Repr

/-- The six shape registers, the waits, the signal and the seed that a T slot holds at issue (R183). -/
structure TIssue where
  attn : Bool
  ldt : BitVec 8
  shape : List Nat
  waits : List Wait
  sig : Option (BitVec 8)
  seed : Word
deriving DecidableEq, Repr

/-- An effect that waits in the escape buffer (R171). -/
inductive Effect
  | store (space addr : Nat) (bytes : List Byte)
  | rup (epi : BitVec 8) (word : BitVec 4) (v : Line)
  | ldt (i : BitVec 8) (entry : BitVec 2048) (check : BitVec 8)
  /-- The place of an LDTLD whose data has not returned (R192). -/
  | ldtld (i : BitVec 8)
  | tensor (t : TIssue)
  | cmd (entry : Line)
  | fset (f : BitVec 8) (v : Word)
  | fadd (f : BitVec 8) (n : Word)
  | post (tag : BitVec 16)
  | endp
deriving DecidableEq, Repr

/-- A load whose data has not returned (R151, R191): its destination, the value it will write, and whether the data
holds an uncorrectable error. -/
structure Load where
  dest : Dest
  /-- The bytes it returns, as read at issue with the program's own earlier stores (R167). -/
  bytes : List Byte
  bad : Bool
  /-- LDWS: the value is sign-extended. -/
  signed : Bool := false
  /-- The device address of a load some of whose lines were not at hand at issue (R349, R351). -/
  companion : Option Nat := none
  /-- The memory key of its first byte where it reads LPDDR or a scratchpad: what its data return with may be found there
  (R191, R266). -/
  key : Option Nat := none
  /-- The lines it still awaits. -/
  need : List Nat := []
  /-- Bytes that the program's own earlier stores give to it: place, value, and whether the store wrote the granule whole. -/
  patch : List (Nat × Byte × Bool) := []
  /-- Bytes that the program's own later stores have replaced in memory: place, the byte before, and whether the Kraip had
  written that byte itself (R167). -/
  old : List (Nat × Byte × Bool) := []
  /-- LDTLD: the entry that awaits the same result (R192). -/
  ldt : Option (BitVec 8) := none
deriving DecidableEq, Repr

/-- The processor state that a checkpoint holds (R171). -/
structure Snap where
  s : Vector DWord 64 := Vector.replicate 64 0
  p : BitVec 8 := 1
  v : Vector Line 32 := Vector.replicate 32 0
  pc : Word := 0
  loads : List Load := []
  bad : List Dest := []
deriving DecidableEq, Repr

/-- What a running program has issued so far, oldest first: its commands with the status and flags of those that have
ended, its POSTs and its END (R157, R158). -/
inductive LaunchOp
  | cmd (id : Nat) (done : Option (BitVec 8 × BitVec 4))
  | post (tag : BitVec 16)
  | endp
deriving DecidableEq, Repr

/-- The program that runs, or that has ended and waits for its commands (R155, R157). -/
structure Program where
  launch : Nat
  image : Nat
  words : Nat
  ops : List LaunchOp := []
  /-- A program fault has stopped it: class and word offset (R170). -/
  faulted : Option (BitVec 8 × Word) := none
  /-- Stopped by *skip* (R159). -/
  skipped : Bool := false
  /-- END has issued; no word issues after it. -/
  ending : Bool := false
  /-- The post summary (Table 07-1): status and flags since the previous POST that was written (R158). -/
  postStatus : BitVec 8 := 0
  postFlags : BitVec 4 := 0
  /-- The same over every command of the program, for its launch (R157). -/
  allStatus : BitVec 8 := 0
  allFlags : BitVec 4 := 0
  /-- BUILD of the image (R368). -/
  build : Word := 0
  /-- The last tensor command it has issued (R296). -/
  lastT : Option Tensor := none
  /-- The launch of a program that *skip* has ended, whose POSTs still wait behind a collective (R38, R158). -/
  skippedLaunch : Option Cmd := none
deriving DecidableEq, Repr

/-- A TWAIT that holds its word: the Period in which it began to wait, its comparator, and whether that has fired since
(R166). -/
structure Twait where
  period : Nat
  ci : BitVec 3
  fired : Bool := false
deriving DecidableEq, Repr

structure Cp where
  st : CpState := .idle
  /-- Offset of the last word issued (`CTX_CP_PC` while IDLE). -/
  lastPc : Word := 0
  /-- `CTX_CP_STAT.FENCE`. -/
  awaited : BitVec 8 := 0
  /-- The physical pair, none reads 0x1F. -/
  pair : Option (Fin 18) := none
  fault : BitVec 8 := 0
  faultPc : Word := 0
  /-- Registers, program counter, loads in flight and marked destinations (Table 07-1, R191). -/
  r : Snap := {}
  /-- Effects not yet in a checkpoint, oldest first. -/
  escape : List Effect := []
  /-- The checkpoint in flight: the state at its word and the effects it releases. -/
  ckpt : Option (Snap × List Effect) := none
  /-- Its drain has ended, and an LDTLD among its effects still awaits its data. -/
  drained : Bool := false
  /-- The last durable checkpoint. -/
  durable : Snap := {}
  /-- A lockstep compare has failed and the failover has not ended (R172). -/
  failed : Bool := false
  failovers : BitVec 16 := 0
  prog : Option Program := none
  /-- Programs that have ended, faulted or been stopped, whose launches wait for their commands, oldest first. -/
  ended : List Program := []
  twait : Option Twait := none
  /-- The instruction buffer: the words it holds by device address, oldest first, with the mark of an uncorrectable error (Table 07-1). -/
  ibuf : List (Nat × Line × Bool) := []
  /-- The fence counters and poison bits (R162). -/
  fence : Vector Word 256 := Vector.replicate 256 0
  poison : BitVec 256 := 0
deriving DecidableEq, Repr

/-! ## Loop descriptor table and row-unit table (06, 08) -/

structure Ldt where
  /-- Entries whose bytes are not all zero, in canonical form. -/
  entries : List (Nat × BitVec 2048) := []
  refused : BitVec 8 := 0xFF
  reason : BitVec 4 := 0
  tiles : BitVec 16 := 0
  selected : BitVec 8 := 0
  exceeds : BitVec 16 := 0
  empty : BitVec 16 := 0
  /-- Row-unit parameter words that are not zero, key 16 × EPI + word, in canonical form (R188). -/
  rup : List (Nat × Line) := []
deriving DecidableEq, Repr

/-! ## Rephrase (04) -/

/-- The Rephrase state of a context. The budget and the promoted layers in force are Lexicon values 0x2210 + c and
0x2230 + c (R89, R92). -/
structure Rph where
  remain : Word := 0
  exhausted : Bool := false
  /-- Exhausted in the last completed Period (`CTX_RPH_STAT.EXHAUSTED`). -/
  exhaustedLast : Bool := false
  step1 : BitVec 16 := 0
  step2 : BitVec 16 := 0
  unrep : BitVec 16 := 0
  step1Last : BitVec 16 := 0
  step2Last : BitVec 16 := 0
  unrepLast : BitVec 16 := 0
  /-- Troubled tiles: (layer, Period of the work, count) (R91). -/
  counts : List (Nat × Nat × Nat) := []
  /-- The tick at which each layer was last promoted (R93). -/
  promotedAt : List (Nat × Nat) := []
deriving DecidableEq, Repr

/-! ## Queues and event rings (15) -/

inductive QState | disabled | enabling | enabled | error
deriving DecidableEq, Repr

def QState.code : QState → Nat | .disabled => 0 | .enabling => 1 | .enabled => 2 | .error => 3

/-- An entry that is fetched and not dispatched (R360, R362). -/
structure Held where
  no : Nat
  line : Line
  period : Nat
  poison : Bool
deriving DecidableEq, Repr

/-- A completion record (Table 15-12) but for what its writing adds: TS_NS, TS_DELTA and PHASE. -/
structure CplRec where
  seq : Word
  status : BitVec 8
  flags : BitVec 4
  kind : BitVec 8
  cmd : BitVec 8
  entry : Word
  arg0 : Word
  arg1 : Word
  period : Nat
  fault : BitVec 8
deriving DecidableEq, Repr

/-- A record of a queue source that has been formed and not written: a completion, or an event that must not become
visible before it (R370). -/
inductive QRec
  | cpl (r : CplRec)
  | ev (bytes : List Byte)
deriving DecidableEq, Repr

structure Queue where
  st : QState := .disabled
  cause : BitVec 4 := 0
  enable : Bool := false
  /-- Address bits [50:8] of the QCB. -/
  qcb : BitVec 64 := 0
  ring : Nat := 0
  size : Nat := 0
  cplRing : Nat := 0
  cplSize : Nat := 0
  cplRd : DWord := 0
  /-- Number of the next completion record. -/
  cplNext : Nat := 0
  /-- The line that holds CPL_RD, in the monitor while the ring is written (R367); 0 for none. -/
  cplLine : Nat := 0
  head : DWord := 0
  tail : DWord := 0
  /-- Entries whose reads have been issued: fetches go up to here (R360). -/
  issued : DWord := 0
  held : List Held := []
  /-- Records formed and not yet written, oldest first (R367, R370). -/
  recs : List QRec := []
  /-- Next SEQ of the queue source (R370). -/
  seq : Word := 0
  /-- The launch that holds back later entries (R155). -/
  launch : Option Nat := none
deriving DecidableEq, Repr

structure EvRing where
  st : QState := .disabled
  enable : Bool := false
  /-- Address bits [50:7] of the ECB. -/
  ecb : BitVec 64 := 0
  ring : Nat := 0
  size : Nat := 0
  rd : DWord := 0
  next : Nat := 0
  drop : Word := 0
deriving DecidableEq, Repr

/-- Next SEQ of the sources other than queues, sessions and ports (R370). -/
structure Seqs where
  fault : Word := 0
  lex : Word := 0
  period : Word := 0
  rcl : Word := 0
deriving DecidableEq, Repr

/-! ## Contexts (02) -/

inductive CState | free | active | draining | rejected
deriving DecidableEq, Repr

def CState.code : CState → Nat | .free => 0 | .active => 1 | .draining => 2 | .rejected => 3

/-- What a context is granted at creation (R40, R42), and the quota in force (R44). -/
structure Grant where
  base : Nat := 0
  units : Nat := 0
  prio : Nat := 0
  skip : Bool := false
  quota : Nat := 0
  minQuota : Nat := 0
  borrow : Bool := false
deriving DecidableEq, Repr

/-- A share being zeroed (R43): it is free at step 5 of the tick after the zeroing ends. -/
structure Zeroing where
  c : CtxId
  base : Nat
  units : Nat
  done : Bool := false
deriving DecidableEq, Repr

/-! ## Tensor commands and tiles (04, 05, 06, 09) -/

/-- One key-value span tile's place in its attention command (R232). -/
structure SpanPos where
  entry : Nat := 0
  g : Nat := 0
  chunk : Nat := 0
  span : Nat := 0
deriving DecidableEq, Repr

/-- The running softmax state of one row: none while empty (R234). -/
structure SmRow where
  m : Word
  l : Word
  o : List Word
deriving DecidableEq, Repr

inductive TileWork
  | matrix (pos : TilePos)
  | span (pos : SpanPos)
deriving DecidableEq, Repr

inductive TilePhase
  /-- Expanded, not placed. -/
  | held
  /-- Its expansion has been lost with its Clause processor: it awaits to be expanded again (R147). -/
  | lost
  /-- Placed on an array; its passes or its drain are under way. -/
  | placed
  /-- A troubled attempt has committed and its decision is awaited (R86). -/
  | troubled
deriving DecidableEq, Repr

/-- One row of a tile in the row unit or in staging: its accumulators as released, then what stage 9 has made of it: the
codes of its output elements, its block scales and the bytes of its statistics records by group (R65, R210). -/
structure StagedRow where
  row : Nat
  accs : List Acc
  staged : Bool := false
  codes : List Nat := []
  scales : List Nat := []
  recs : List (List Byte) := []
  sat : Bool := false
  nan : Bool := false
  /-- It reports trouble (R66), and trouble other than blocks saturated by accumulators in state ±Inf (R79). -/
  trouble : Bool := false
  other : Bool := false
  /-- Flushed blocks of an output that is not sensitive. -/
  flushes : Nat := 0
deriving DecidableEq, Repr

structure Tile where
  uid : Nat
  /-- Its number in the context's Period work (R86). -/
  n : Nat
  c : CtxId
  cmd : Nat
  period : Nat
  layer : Nat
  work : TileWork
  rows : Nat
  cols : Nat
  kLen : Nat
  /-- Step of the ladder (R78). -/
  step : Nat := 0
  phase : TilePhase := .held
  arr : Option ArrId := none
  /-- Its last A row has entered the cells (R104). -/
  freed : Bool := false
  /-- Arrays that have failed an attempt of it (R402). -/
  failedOn : List ArrId := []
  retry : Bool := false
  /-- The order among retries in which they became so. -/
  retryNo : Nat := 0
  /-- An attempt of it has failed and its retry has not committed (R401). -/
  faulty : Bool := false
  /-- Passes whose rows have entered the cells. -/
  passes : Nat := 0
  /-- Accumulators and check accumulators, row by row (R59, R111). -/
  acc : List (List Acc) := []
  chk : List Int := []
  /-- The load path has reported a parity error (R106). -/
  parity : Bool := false
  /-- The compare of the issuing processor has failed since expansion (R106). -/
  cpFailed : Bool := false
  /-- A data product was clamped, so the check is not used (R112). -/
  clamped : Bool := false
  released : Nat := 0
  stagedRows : List StagedRow := []
  /-- The finished first attempt of a tile that runs a second time, and its array (R112). -/
  firstRows : List StagedRow := []
  firstArr : Option ArrId := none
  /-- The second run agreed. -/
  agreed : Bool := false
  /-- What the load path has reported (Table 04-1, R80, R84). -/
  ldTrouble : Bool := false
  ldNan : Bool := false
  ldSat : Bool := false
  ldFlushes : Nat := 0
  /-- Blocks of Q and K that the load path saturated or flushed (R237). -/
  requant : Nat := 0
  readUnrep : Bool := false
  /-- A block was folded to BF16 outside the exact range: the tile is finished unrepaired (R80). -/
  folded : Bool := false
  /-- The entry of the row-unit parameter table as the tile read it, whether it is unusable, and the per-column vectors
  (bias, gamma, beta, u) over the tile's columns (R200, R212). -/
  epiRead : Bool := false
  epi : Line := 0
  epiRest : List Line := []
  epiBad : Bool := false
  vecs : List (List Word) := []
  /-- The trouble of the committed attempt is only blocks saturated by accumulators in state ±Inf (R79). -/
  infOnly : Bool := false
  /-- Flags of the committed attempt (R96). -/
  flags : BitVec 4 := 0
  injected : Bool := false
  injectAt : Option (Nat × Nat) := none
  /-- The multicast channel of whose group it is a member (R119, R143). -/
  member : Option (Fin 8) := none
  /-- The values that the previous K chunk committed, by row, as it read them (R142). -/
  prev : List (Nat × List Word) := []
  /-- Softmax states of a span tile's rows, and the rows that hold a NaN. -/
  sm : List (Option SmRow) := []
  smNan : List Bool := []
  /-- Quantized p of each row for the key block whose scores have been released, none for a row that skips it and for a
  key that the mask excludes (R234). -/
  probs : List (Option (List (Option Num))) := []
deriving DecidableEq, Repr

inductive ArrState | inService | spare | retired | test
deriving DecidableEq, Repr

def ArrState.code : ArrState → Nat | .inService => 0 | .spare => 1 | .retired => 2 | .test => 3

/-- One buffer of an array's cells and check cells (R98, R101, R110): the B pass it holds. -/
structure Cells where
  /-- The tile and pass it was written for. -/
  tile : Option Nat := none
  pass : Nat := 0
  /-- Column n: B[k, n] for k from 0, in units of the tensor scale of B. -/
  cols : List (List Num) := []
  /-- Check entry c[k] (R110). -/
  check : List Num := []
deriving DecidableEq, Repr

/-- The element in lane `lane` of cell row `row` of a column (R98). -/
def Cells.cell (x : Cells) (row lane col : Nat) : Num := (x.cols.getD col []).getD (2 * row + lane) (.fin false 0 1)

/-- Why an array is in TEST, which decides what its test result does (R405, R406, R414). -/
structure Arr where
  st : ArrState := .test
  /-- Uid of the running tile (R104). -/
  tile : Option Nat := none
  mcast : Bool := false
  mismatch : BitVec 16 := 0
  /-- Slot it holds, none outside the pool. -/
  slot : Option (Fin 192) := none
  /-- Times of its failed attempts (R405). -/
  fails : List Nat := []
  /-- A firmware test is under way. -/
  testing : Bool := false
  /-- It awaits its running tile's end to take a retired array's slot (R406). -/
  moveTo : Option (Fin 192) := none
  /-- Firmware is zeroing it for the pool to grow, or has zeroed it (R415). -/
  zeroing : Bool := false
  zeroed : Bool := false
  /-- Its test returns it to service (R414). -/
  returning : Bool := false
  ce : BitVec 16 := 0
  ue : BitVec 8 := 0
  /-- The buffer that computes, and the second, which the load path writes (R101). -/
  cells : Cells := {}
  second : Cells := {}
deriving DecidableEq, Repr

/-- A slot of the service pool: the array that holds it and, while it is copied, the array that takes it (R405). -/
structure Slot where
  arr : Option ArrId := none
  copyTo : Option ArrId := none
  /-- Words written since the copy began, ascending (R405, R406). -/
  written : List Nat := []
deriving DecidableEq, Repr

/-- A multicast group in flight (R119, R143). -/
structure McGroup where
  cmd : Nat
  operandB : Bool
  /-- Group key: tile row or column range within its grid block. -/
  key : Nat × Nat × Nat × Nat
  members : List Nat
  joined : List Nat := []
  pass : Nat := 0
deriving DecidableEq, Repr

/-- A block of a stored operand as its bytes were read, each with its mark of poison: its map byte where it has a map, its
elements and its block scale (R84). -/
structure RawBlock where
  map : List (Byte × Bool) := []
  elems : List (Byte × Bool) := []
  scale : List (Byte × Bool) := []
deriving DecidableEq, Repr

/-- A pass in a channel's buffer: the blocks of each row (R119). -/
structure McPass where
  pass : Nat
  rows : List (List RawBlock)
deriving DecidableEq, Repr

structure Mcast where
  holder : Option CtxId := none
  group : Option McGroup := none
  /-- Groups waiting in expansion order. -/
  waiting : List McGroup := []
  operandB : Bool := false
  direct : BitVec 16 := 0
  /-- At most two passes of the group in flight (R119). -/
  buf : List McPass := []
deriving DecidableEq, Repr

/-- `ARR_INJECT` armed (R124). -/
structure Inject where
  arr : ArrId
  row : Nat
  col : Nat
  /-- The tile it was applied to. -/
  tile : Option Nat := none
deriving DecidableEq, Repr

/-! ## Attention (10) -/

/-- A sequence snapshot (R222). -/
structure SeqSnap where
  slot : Nat
  gen : Nat
  len : Nat
  pages : Nat
  gh : Nat
  gw : Nat
  t0 : Nat
  table : Nat
  pmax : Nat
deriving DecidableEq, Repr

/-- One step-list entry of an attention command (Table 10-9) with its outcome. -/
structure StepEntry where
  slot : Nat
  nq : Nat
  f : Nat
  qoff : Nat
  qrow : Nat
  frow : Nat
  tree : DWord
  /-- The parent array of a verify step (R241). -/
  parents : List Nat := []
  status : BitVec 8 := 0
  flags : BitVec 4 := 0
  /-- The walker met an entry that fails R226, and met it after the issue. -/
  refused : Bool := false
  late : Bool := false
deriving DecidableEq, Repr

/-- Merged states of one row chunk of an entry and head: for each row its next span, its state and whether it holds a NaN
(R234). -/
structure Merge where
  entry : Nat
  g : Nat
  chunk : Nat
  next : List Nat := []
  rows : List (Option SmRow) := []
  nan : List Bool := []
  /-- Span states that wait: span number and rows. -/
  waiting : List (Nat × List (Option SmRow) × List Bool) := []
deriving DecidableEq, Repr

structure Attn where
  cmd : Nat
  e : BitVec 2048
  stepList : Nat
  count : Nat
  header : Nat
  h0 : Nat
  hc : Nat
  seed : Word
  hkv : Nat
  /-- Tokens of a page (R216). -/
  tpp : Nat
  pool : Nat
  snaps : List SeqSnap := []
  entries : List StepEntry := []
  next : Nat := 0
  merges : List Merge := []
  /-- Output rows written. -/
  done : Nat := 0
  /-- The quota has gone to 0 and the tiles not placed have been dropped (R44). -/
  cut : Bool := false
deriving DecidableEq, Repr

/-- A page freed and not yet returned: pool, page, batch header, slot and the freeing generation (R224). -/
structure Deferred where
  pool : Bool
  page : Nat
  header : Nat
  slot : Nat
  gen : Nat
deriving DecidableEq, Repr

inductive PoolState | none | initializing | ready | invalid
deriving DecidableEq, Repr

def PoolState.code : PoolState → Nat | .none => 0 | .initializing => 1 | .ready => 2 | .invalid => 3

/-- A page pool in force (R218, R219). -/
structure Pool where
  st : PoolState := .none
  base : Nat := 0
  pages : Nat := 0
  /-- The bitmap is written; the pool reads ready from the next step 5 (R219). -/
  written : Bool := false
  free : Nat := 0
deriving DecidableEq, Repr

structure Att where
  pool0 : Pool := {}
  pool1 : Pool := {}
  deferred : List Deferred := []
  held : BitVec 16 := 0
  waiting : BitVec 16 := 0
  emptyRows : Word := 0
deriving DecidableEq, Repr

/-! ## Memory (11) -/

/-- An entry of a write-combining buffer: the line, its 128-bit nibble mask and the time of its last write (R263). -/
structure WcEntry where
  line : Nat
  mask : BitVec 128
  time : Nat
deriving DecidableEq, Repr

structure Wcb where
  /-- Oldest first. -/
  entries : List WcEntry := []
  rmw : BitVec 16 := 0
deriving DecidableEq, Repr

inductive ChState | inService | sparing | spared | held
deriving DecidableEq, Repr

def ChState.code : ChState → Nat | .inService => 0 | .sparing => 1 | .spared => 2 | .held => 3

structure Channel where
  st : ChState := .inService
  ue : BitVec 4 := 0
  ce : BitVec 16 := 0
  /-- Times of corrected errors and poisoned reads that the thresholds count (R410). -/
  ceTimes : List Nat := []
  ueTimes : List Nat := []
  /-- ECC groups scrubbed in this scrub pass, rising (R266). -/
  scrubbed : List Nat := []
  /-- Margin engine (Table 11-6). -/
  mrgParam : BitVec 3 := 0
  mrgOffset : BitVec 8 := 0
  mrgBursts : BitVec 16 := 0x400
  mrgRun : Bool := false
  mrgDone : Bool := false
  mrgErrors : BitVec 16 := 0
deriving DecidableEq, Repr

/-- A reserve unit in use (R268, Table 11-7 `MEM_SPARE`): the spared channel, the reserve k when it was spared, the lines it
held, how many have been copied, and when its migration began. -/
structure SpareUnit where
  channel : Fin 192
  reserve : Nat := 1
  lines : Nat := 0
  copied : Nat := 0
  since : Nat := 0
deriving DecidableEq, Repr

structure Mem where
  /-- Every byte that differs from zero, in canonical form: device addresses, then scratchpads (see `padKey`). -/
  cells : List Host.Cell := []
  /-- Bases of poisoned granules, rising (R259). -/
  poison : List Nat := []
  /-- Channels that stopped answering, with the spares of that time: every line they held then is poisoned but those written
  whole since (R410). -/
  lost : List (Fin 192 × List SpareUnit) := []
  fresh : List Nat := []
  /-- The 48 write-combining buffers, one per LPDDR package (R263). -/
  wcb : Vector Wcb 48 := Vector.replicate 48 {}
  ch : Vector Channel 192 := Vector.replicate 192 {}
  /-- Spared channels in order (R268). -/
  spares : List SpareUnit := []
  lpddrPasses : BitVec 16 := 0
  spPasses : BitVec 16 := 0
  /-- Scratchpad words scrubbed in this pass, rising: 2^22 × array + word (R254). -/
  spScrubbed : List Nat := []
deriving DecidableEq, Repr

/-- The indirect pair (R375). -/
structure Ind where
  domain : BitVec 8 := 0
  offset : BitVec 24 := 0
  data : Word := 0
  busy : Bool := false
  err : Bool := false
  overrun : Bool := false
  autoInc : Bool := false
  /-- The access in progress is a write of this value. -/
  wr : Option Word := none
deriving DecidableEq, Repr

/-! ## Faults and repair (17) -/

inductive PairState | active | spare | test | retired
deriving DecidableEq, Repr

def PairState.code : PairState → Nat | .active => 0 | .spare => 1 | .test => 2 | .retired => 3

structure Pair where
  st : PairState := .test
  logical : Option CtxId := none
  fails : BitVec 16 := 0
  failTimes : List Nat := []
  testing : Bool := false
  /-- Its test returns it to service (R414). -/
  returning : Bool := false
  /-- For a Supervisor pair: it loads a new image for a planned swap (R457). -/
  loading : Bool := false
deriving DecidableEq, Repr

structure Flt where
  fatal : Bool := false
  replace : BitVec 6 := 0
  recovered : BitVec 16 := 0
  pair : Vector Pair 18 := Vector.replicate 18 {}
  sup : Vector Pair 2 := Vector.replicate 2 {}
  slot : Vector Slot 192 := Vector.replicate 192 {}
  /-- The size of the pool. -/
  pool : Nat := 0
  svcKind : BitVec 8 := 0
  svcUnit : BitVec 8 := 0
  svcAction : BitVec 8 := 0
  svcResult : BitVec 8 := 0
  /-- Planned failover of a logical processor at its next durable checkpoint (Table 17-4, KIND 2). -/
  planned : List CtxId := []
  retrySeq : Nat := 0
deriving DecidableEq, Repr

/-! ## One context -/

structure Ctx where
  st : CState := .free
  reason : BitVec 8 := 0
  g : Grant := {}
  cp : Cp := {}
  ldt : Ldt := {}
  rph : Rph := {}
  queue : Vector Queue 4 := Vector.replicate 4 {}
  ring : EvRing := {}
  att : Att := {}
  /-- Multicast and comparator masks held by entry 0x2130 + c (R49). -/
  heldMc : BitVec 8 := 0
  heldCmp : BitVec 8 := 0
  /-- Next tile number of the Period work it expands (R86), and that work's Period. -/
  nextTile : Nat := 0
  tilePeriod : Nat := 0
  /-- Turn of the dispatch among its queues (R362). -/
  turn : QId := 0
  /-- No pair backs it any longer: its commands fail (R408). -/
  noPair : Bool := false
  /-- Stream units placed (Lexicon 0x2410 + c sub 2), and those that take effect at the next tick (R314). -/
  streamUnits : Nat := 0
  streamNext : Nat := 0
deriving DecidableEq, Repr

/-! ## Chip links and collectives (12) -/

/-- `LNK_PORT_STAT.STATE` (Table 12-5). -/
inductive LnkState | down | detect | train | ident | up12 | up8 | retrain | disabled
deriving DecidableEq, Repr

def LnkState.code : LnkState → Nat
  | .down => 0 | .detect => 1 | .train => 2 | .ident => 3 | .up12 => 4 | .up8 => 5 | .retrain => 6 | .disabled => 7

inductive LaneState | active | idle | failed
deriving DecidableEq, Repr

def LaneState.code : LaneState → Nat | .active => 0 | .idle => 1 | .failed => 2

/-- A message of a group's supervisors, carried as control flits (12, 13). -/
inductive GrpMsg
  | tick (gperiod : Nat) (rate hstate : BitVec 8) (head : ModId) (lead num den : Nat)
  | announce (m : ModId) (a : Announce)
  | assign (members : BitVec 64) (tag : Word) (csn : Nat) (failed : Option Bool)
  | complete (m : ModId) (csn : Nat)
  | segDone (csn seg : Nat)
  | headEnd
  | headState (csnNext : Nat) (gperiod : Nat) (sets : List (ModId × Announce)) (flying : List HeadSet) (placed : List Placement)
  | reportRequest
  | report (items : List TakeoverItem) (carried : List Placement)
  | neighbours (far : List (Option ModId))
  | routes (l : List RouteEntry) (lost : BitVec 64)
  | echo
  | place (stream : Word) (ctx : BitVec 8) (cost : Nat)
  | remove (stream : Word) (ctx : BitVec 8) (cost : Nat)
  | shardGens (gens : List (BitVec 16))
deriving DecidableEq, Repr

/-- A flit that a port sends (R274, R275). -/
structure TxFlit where
  f : Flit
  /-- The message that a CONTROL or TICK flit of this module carries, and its destination. -/
  msg : Option (ModId × GrpMsg) := none
  /-- DATA: a contribution to what it carries was limited (R73, R297). -/
  limited : Bool := false
  /-- The port in whose receive buffer a flit that is passed on stands (R275, R276). -/
  inPort : Option PortId := none
deriving DecidableEq, Repr

structure Port where
  st : LnkState := .down
  nbrPort : Option PortId := none
  nbrModule : ModId := 0
  /-- 0 none, else one above the dropped lane group. -/
  dropped : BitVec 2 := 0
  retrains : BitVec 16 := 0
  replays : BitVec 16 := 0
  crcFail : BitVec 16 := 0
  corrected : Word := 0
  lanes : Vector LaneState 12 := Vector.replicate 12 .active
  /-- Symbols corrected in the last 1 ms, newest first: time and lane (R278, `LNK_LANE.LAST_MS`). -/
  fixes : List (Nat × Fin 12) := []
  /-- Next SEQ to send and highest SEQ received in order. -/
  seq : BitVec 12 := 0
  ack : BitVec 12 := 0xFFF
  /-- Sent and not acknowledged, oldest first, at most 1,024 (R277). -/
  replay : List TxFlit := []
  /-- Times of replays counted for a storm (R278). -/
  replayTimes : List Nat := []
  stormReported : Bool := false
  /-- Flits that wait to be sent, oldest first, and the class of 1 to 4 that was served last (R275). -/
  txq : List TxFlit := []
  turn : Nat := 4
  /-- Credits held at the far end by class 0 to 4, and buffers freed here and not yet returned (R275). -/
  credits : Vector Nat 5 := Vector.replicate 5 0
  owed : Vector Nat 5 := Vector.replicate 5 0
  /-- A lane group is being retrained (R278). -/
  busy : Bool := false
  /-- A replay has been asked for and no good flit has come since (R277, R401). -/
  asking : Bool := false
  /-- PRSNT_N is high: no cable (R461 and the power chapter). -/
  absent : Bool := false
  /-- Next SEQ of the port's event source. -/
  evSeq : Word := 0
deriving DecidableEq, Repr

/-- A segment of a collective at this member (R291, R294, R295, R298). -/
structure Seg where
  /-- Its first element and its elements; for byte kinds, bytes. -/
  first : Nat
  len : Nat
  /-- Own contribution read: its wire bytes (R294). -/
  own : Option (List Byte) := none
  /-- Bytes received of each peer's part: a child's partial sum, or a source's bytes. -/
  ins : List (ModId × List Byte) := []
  /-- Bytes received of W from the parent. -/
  inW : List Byte := []
  /-- W, once held; for byte kinds unused. -/
  w : Option (List Byte) := none
  /-- A contribution to its sum was limited (R73, R297). -/
  limited : Bool := false
  /-- The partial sum has gone to the parent; for byte kinds, the own bytes have been read and sent. -/
  sentUp : Bool := false
  /-- Peers to which W, or the own bytes, have gone. -/
  sentTo : List ModId := []
  /-- Peers that have sent SEG_DONE. -/
  doneFrom : List ModId := []
deriving DecidableEq, Repr

/-- A data stream toward this member: the segments still to come, oldest first, and the bytes received of the first
(R283, R299). -/
structure Stream where
  peer : ModId
  tree : Bool
  down : Bool
  todo : List Nat
  off : Nat := 0
  /-- The port its last flit came in on. -/
  port : Option PortId := none
  /-- It reopens: its next flit starts the segments that are sent again (R299). -/
  reopened : Bool := false
deriving DecidableEq, Repr

/-- The port that a collective's stream toward a peer uses (R283, R293). -/
structure Edge where
  peer : ModId
  tree : Bool
  port : PortId
deriving DecidableEq, Repr

inductive CollPhase
  /-- Announced, no CSN yet. -/
  | announced
  /-- Assigned, its reservation not granted. -/
  | assigned
  | granted
deriving DecidableEq, Repr

/-- A collective of this member (R284 to R300). -/
structure Coll where
  cmd : Nat
  ann : Announce
  phase : CollPhase := .announced
  csn : Nat := 0
  /-- Store units of 256 KiB reserved. -/
  resv : Nat := 0
  segs : List Seg := []
  streams : List Stream := []
  edges : List Edge := []
  /-- Flags of its completion gathered so far (R297). -/
  flags : BitVec 4 := 0
deriving DecidableEq, Repr

/-- An announcement held at the Head. -/
structure HeadAnn where
  m : ModId
  ann : Announce
deriving DecidableEq, Repr

/-- The port on which this module passes on a stream of others (R276, R283). -/
structure Through where
  src : BitVec 6
  dest : BitVec 6
  cls : BitVec 3
  stream : BitVec 12
  port : PortId
deriving DecidableEq, Repr

structure Cjn where
  colls : List Coll := []
  /-- DATA flits to this member that wait in the receive buffers of their ports (R275, R295), oldest first, each with the mark
  of a limited contribution (R297). -/
  held : List (PortId × Flit × Bool) := []
  through : List Through := []
  /-- CSN one above the highest assigned to this module; 0 when none. -/
  last : Option Nat := none
  saturated : BitVec 16 := 0
  nan : BitVec 16 := 0
  restarts : BitVec 16 := 0
  withdrawn : BitVec 16 := 0
deriving DecidableEq, Repr

/-! ## Groups (13) -/

inductive Role | forming | head | dependent | misconfigured
deriving DecidableEq, Repr

def Role.code : Role → Nat | .forming => 0 | .head => 1 | .dependent => 2 | .misconfigured => 3

/-- A CSN assignment with its sender (R288, R289). -/
structure Assign where
  sender : ModId
  members : BitVec 64
  tag : Word
  csn : Nat
  failed : Option Bool
deriving DecidableEq, Repr

structure Grp where
  role : Role := .forming
  formed : Bool := false
  /-- It has held the Head role since power-up (R308). -/
  sincePowerUp : Bool := true
  /-- GPERIOD of the last TICK flit it accepted. -/
  lastG : DWord := 0
  head : ModId := 0
  module : ModId := 0
  reachable : BitVec 64 := 0
  routes : Vector RouteEntry 64 := Vector.replicate 64 {}
  /-- Neighbour tables the Head holds: far modules by port (R304). -/
  nbr : Vector (List (Option ModId)) 64 := Vector.replicate 64 []
  gperiod : DWord := 0
  lead : BitVec 16 := 2000
  /-- d_m of every module as measured; none unreachable (R307). -/
  delays : Vector (Option Nat) 64 := Vector.replicate 64 none
  /-- The delay told to this module. -/
  myDelay : BitVec 16 := 0xFFFF
  /-- A tick that waits for the tick lead: its source time, and the time at which it is made (R306). -/
  leadTick : Option (Nat × Nat) := none
  /-- Head: next CSN, sets of announcements, sets not complete. -/
  csnNext : Nat := 0
  anns : List HeadAnn := []
  /-- Head: complete sets that have no CSN yet, in the order in which they became complete. -/
  ready : List (List HeadAnn) := []
  sets : List HeadSet := []
  /-- Head: members whose delay is to be measured once a route to them stands (R307). -/
  echoes : BitVec 64 := 0
  /-- New Head: completions reported before the old Head's state arrived (R309, R318). -/
  early : List (ModId × Nat) := []
  /-- Head: waits for the old Head's state before it assigns (R309). -/
  awaitState : Bool := false
  /-- Standby rebuild: members that have not reported, and what was reported (R311). -/
  awaitReports : BitVec 64 := 0
  reports : List (ModId × TakeoverItem) := []
  /-- The old Head whose HEAD_END this member awaits, and the assignments of the new Head held until then (R309, R310). -/
  oldHead : Option ModId := none
  heldAssign : List Assign := []
  /-- It took the role as standby and software has not set its source since (R311). -/
  tookOver : Bool := false
  /-- Ticks made in HOLDOVER in a row (R311). -/
  holdTicks : Nat := 0
  /-- Rate code carried in the Head's TICK flits (R305). -/
  headRate : BitVec 8 := 2
  tickFrom : Option ModId := none
  /-- Another module with this number was admitted first (R305). -/
  numberClash : Bool := false
  /-- Shard generations (R320) that are not zero, in canonical form. -/
  shardGen : List (Nat × Nat) := []
  /-- Generation slots: key 256 × c + slot, (shard, generation) (R321). -/
  genSlots : List (Nat × (Nat × Nat)) := []
  placements : List Placement := []
  /-- The streams placed on this module (R314). -/
  carried : List Placement := []
  /-- The shard generations with which this member joins at the next tick (R304). -/
  joining : Option (List (Nat × Nat)) := none
deriving DecidableEq, Repr

/-! ## Codec (14) -/

inductive SessState | free | opened | closing
deriving DecidableEq, Repr

def SessState.code : SessState → Nat | .free => 0 | .opened => 1 | .closing => 2

inductive EngState | inService | outOfService | updating
deriving DecidableEq, Repr

def EngState.code : EngState → Nat | .inService => 0 | .outOfService => 1 | .updating => 2

/-- The session descriptor (Table 14-5), decoded. -/
structure SessDesc where
  av1 : Bool := false
  decode : Bool := false
  live : Bool := false
  engine : Nat := 0
  width : Nat := 0
  height : Nat := 0
  depth : Nat := 8
  rpu : Nat := 1
  gop : Nat := 0
  ltrMax : Nat := 0
  qp : Nat := 0
  keyInt : Nat := 1
  rate : Nat := 0
  /-- The level that the encoder writes, chosen at open (Table 14-2). -/
  level : Nat := 0
  ring : DWord := 0
  ringSize : Nat := 0
  work : DWord := 0
  workSize : Nat := 0
  status : Nat := 0
deriving DecidableEq, Repr

/-- A picture being coded (R330). -/
structure Pic where
  cmd : Nat
  period : Nat
  key : Bool
  mark : Nat
  use : Nat
  rowF : BitVec 8
  rowB : Word
  src : DWord
  pitch : Nat
  /-- First row of the next unit. -/
  nextRow : Nat := 0
  /-- A source sample was poisoned (R343). -/
  poisoned : Bool := false
  /-- Repeat units are due from this row (R39, R335). -/
  repeatFrom : Option Nat := none
  /-- Some repeat unit has been formed. -/
  repeated : Bool := false
deriving DecidableEq, Repr

/-- A unit that is complete and waits for ring space (R328): the fields of its descriptor and its payload. -/
structure HeldUnit where
  kind : Nat
  first : Nat
  rows : Nat
  key : Bool := false
  last : Bool := false
  damaged : Bool := false
  wh : Nat := 0
  period : Nat
  order : Nat
  payload : List Byte := []
deriving DecidableEq, Repr

/-- Input bytes of one COD_DEC that have not been parsed (R339). -/
structure InPart where
  cmd : Nat
  period : Nat
  addr : Nat
  left : Nat
  /-- Its bytes have contributed to a damaged picture (R342). -/
  bad : Bool := false
deriving DecidableEq, Repr

/-- A decoded picture that awaits its turn in display order. -/
structure BufPic where
  buf : Nat
  w : Nat
  h : Nat
  damaged : Bool
  key : Bool
  period : Nat
deriving DecidableEq, Repr

structure Sess where
  st : SessState := .free
  owner : CtxId := 0
  d : SessDesc := {}
  /-- The descriptor as it was read. -/
  desc : Line := 0
  wr : DWord := 0
  /-- RD as last read. -/
  rd : DWord := 0
  unitSeq : DWord := 0
  evSeq : Word := 0
  repeats : BitVec 12 := 0
  damaged : BitVec 12 := 0
  /-- Encode: pictures coded since open; decode: pictures output. -/
  pics : Nat := 0
  /-- Pictures from the last key picture on; 0 before the first. -/
  sinceKey : Nat := 0
  queue : List Pic := []
  /-- Long-term slots 1 to 4 that hold a picture. -/
  ltr : BitVec 4 := 0
  /-- The coding state that the standards define and the spec does not lay out (R331, R339). -/
  code : Nat := 0
  /-- Units that wait for ring space, oldest first. -/
  held : List HeldUnit := []
  /-- Decode: buffers busy as reference, and output and not returned. -/
  bufRef : BitVec 16 := 0
  bufOut : BitVec 16 := 0
  bufs : List BufPic := []
  /-- The buffer of the picture under way, and the last that was output. -/
  cur : Option Nat := none
  lastOut : Option Nat := none
  input : List InPart := []
  /-- Decode: a picture is under way; it is damaged; the coding state and the input at its start (R411). -/
  midPic : Bool := false
  midBad : Bool := false
  start : Nat × List InPart := (0, [])
  /-- Pictures are damaged until a random-access point decodes cleanly (R341). -/
  dirty : Bool := false
  /-- Skip input to the next random-access point (R339). -/
  discard : Bool := false
  /-- COD_CLOSE waiting: its command (R327). -/
  close : Option Nat := none
  /-- Moves to another engine at its next picture boundary (R411). -/
  moving : Bool := false
deriving DecidableEq, Repr

/-- The unit an engine runs. -/
structure Unit14 where
  sess : SessId
  row : Nat
  rows : Nat
  live : Bool
  cmd : Nat
  /-- It is coded again after its engine failed (R411). -/
  again : Bool := false
deriving DecidableEq, Repr

structure Eng where
  st : EngState := .inService
  unit : Option Unit14 := none
  /-- Units to be coded again here first (R411). -/
  recode : List Unit14 := []
  /-- Goes out of service when its last unit ends (Table 17-4). -/
  leaving : Bool := false
  testing : Bool := false
  /-- Column of each motion search window (R332, R333). -/
  windows : Vector Nat 4 := Vector.replicate 4 0
deriving DecidableEq, Repr

structure Cod where
  eng : Vector Eng 8 := Vector.replicate 8 {}
  sess : Vector Sess 256 := Vector.replicate 256 {}
  waits : BitVec 16 := 0
  timeouts : BitVec 16 := 0
  /-- The live reserve is in force (R338). -/
  reserve : Bool := false
deriving DecidableEq, Repr


/-! ## The companion link (15) -/

inductive RclSt | down | train | up16 | up8
deriving DecidableEq, Repr

def RclSt.code : RclSt → Nat | .down => 0 | .train => 1 | .up16 => 2 | .up8 => 3

/-- The state of a companion line that the RCL cache holds (Table 15-3). -/
inductive LineSt | s | e | m
deriving DecidableEq, Repr

/-- What the Kraip has asked the companion for (Table 15-4), and not yet been answered. -/
inductive AskKind | clean | sole | once | monitor
deriving DecidableEq, Repr

structure Ask where
  addr : Nat
  kind : AskKind
  /-- Half-bytes that the Kraip has written since it asked, which the answer does not replace. -/
  mask : BitVec 128 := 0
deriving DecidableEq, Repr

/-- A probe sent for a directory line and not answered: PROBE_DROP or PROBE_DEMOTE, and the half-bytes the Kraip has
written since (R351). -/
structure Probe where
  addr : Nat
  drop : Bool
  mask : BitVec 128 := 0
deriving DecidableEq, Repr

/-- An RCL message the Kraip sends (Table 15-4). -/
inductive RclMsg
  | ask (k : AskKind) (addr : Nat)
  | putLine (addr : Nat) (line : Line) (poison : Bool)
  | returnLine (addr : Nat) (line : Line) (poison : Bool)
  | letGo (addr : Nat)
  | probeDrop (addr : Nat)
  | probeDemote (addr : Nat)
  | ansDone (addr : Nat)
  | ansLine (addr : Nat) (line : Line) (poison : Bool)
deriving DecidableEq, Repr

structure Rcl where
  st : RclSt := .down
  /-- In UP8, lanes 8 to 15 are in use. -/
  half : Bool := false
  /-- Trained since power-up, so that UP16 returns only at the next power-up (R347). -/
  dropped : Bool := false
  /-- The half retrains after a lane failure in UP16 (R347). -/
  retraining : Bool := false
  retrains : BitVec 16 := 0
  replays : BitVec 16 := 0
  crcFail : BitVec 16 := 0
  backInv : Word := 0
  poisonIn : BitVec 16 := 0
  poisonOut : BitVec 16 := 0
  /-- Companion lines held in the RCL cache, oldest first (R349). -/
  lines : List (Nat × LineSt) := []
  /-- Monitor lines, at most 160 (R349). -/
  monitor : List Nat := []
  /-- LPDDR lines the companion caches, oldest first; true for O, false for S (R351). -/
  dir : List (Nat × Bool) := []
  probes : List Probe := []
  /-- A read of the command under way has met a line that is not at hand (the model's own mark). -/
  missed : Bool := false
  asks : List Ask := []
  /-- SEQ of the last flit sent, and the messages of the flits sent and not acknowledged, oldest first, at most 512 (R346). -/
  seq : BitVec 12 := 0xFFF
  replay : List (BitVec 12 × RclMsg) := []
  /-- SEQ of the last good flit taken. -/
  ack : BitVec 12 := 0xFFF
  /-- A replay has been asked for and no good flit has come since (R346, R401). -/
  asking : Bool := false
  /-- Symbols corrected in the last 1 ms: when, and on which lane (R347). -/
  fixes : List (Nat × Fin 16) := []
  /-- Next SEQ of the RCL event source lives in `Seqs`; this counts lines lost from the cache at its size. -/
  evicted : Word := 0
deriving DecidableEq, Repr

/-! ## The field network (16) -/

structure Net where
  /-- The EtherCAT state: 1 INIT, 2 PREOP, 4 SAFEOP, 8 OP (Table 16-8). -/
  al : BitVec 4 := 1
  alCode : BitVec 16 := 0
  link0 : Bool := false
  link1 : Bool := false
  /-- ESC registers that are not 0: address and value, in canonical form (R398, R399). -/
  esc : List (Nat × Nat) := []
  /-- System time of the last accepted SYNC0 (R398). -/
  lastSys : Option Nat := none
deriving DecidableEq, Repr

/-! ## The lifetime record and the dump (18) -/

/-- A lifetime image (Table 18-6). -/
structure Image where
  reason : BitVec 8 := 0
  replace : BitVec 8 := 0
  seq : Nat := 0
  powerups : Nat := 0
  halts : Nat := 0
  powered : Nat := 0
  periods : Nat := 0
  revision : Nat := 0
  /-- Counters that are not 0, by id, in canonical form. -/
  counters : List (Nat × Nat) := []
  /-- Histogram bins that are not 0: temperature bins 0 to 127, voltage bins from 128, in canonical form. -/
  hist : List (Nat × Nat) := []
  /-- The last 8 halt notes, by halt number mod 8, in canonical form. -/
  notes : List (Nat × Nat) := []
deriving DecidableEq, Repr

structure Life where
  /-- Live counters that are not 0 by id (`LIF_LIVE`), in canonical form. -/
  live : List (Nat × Nat) := []
  /-- Live histogram bins that are not 0 (`LIF_HIST`), in canonical form. -/
  hist : List (Nat × Nat) := []
  /-- Powered seconds and ticks since the latest image. -/
  powered : Nat := 0
  ticks : Nat := 0
  /-- The latest image; none in a flash that holds no valid image. -/
  latest : Option Image := none
  /-- `LIF_STAT.BASE_SEQ`. -/
  baseSeq : Word := 0
  busy : Bool := false
  /-- The image captured and being programmed (R429). -/
  writing : Option Image := none
  /-- The sector it is programmed into. -/
  sector : BitVec 8 := 0
  reason : BitVec 3 := 3
  nextS : BitVec 12 := 3600
  /-- A flush command waits for the 60 s rule (R429). -/
  wanted : Bool := false
  /-- Powered seconds since the previous image was written. -/
  sinceImage : Nat := 0
  /-- OR of every value of Lexicon 0x2700 subindex 6 since power-up. -/
  replace : BitVec 6 := 0
deriving DecidableEq, Repr

/-- The fatal-state dump and the halted state (18). -/
structure Dump where
  halted : Bool := false
  /-- `FLT_DUMP.STATE` and CAUSE. -/
  st : BitVec 2 := 0
  cause : BitVec 3 := 0
  flags : BitVec 8 := 0
  unit : Word := 0
  period : DWord := 0
  /-- A fatal fault met inside a command, with its CAUSE and UNIT: the block halts as the command ends (R412). -/
  due : Option (BitVec 3 × Word) := none
  /-- The last 4,096 fault-logger event records, oldest first (Table 18-4). -/
  log : List Line := []
deriving DecidableEq, Repr

/-! ## Security and boot (19) -/

inductive Stage | rom | loading | service | recovery
deriving DecidableEq, Repr

def Stage.code : Stage → Nat | .rom => 0 | .loading => 1 | .service => 2 | .recovery => 3

/-- An image slot as the boot record and the slot's statement tell (R439). -/
structure ImgSlot where
  st : SlotSt := .empty
  rollback : BitVec 16 := 0
  version : Word := 0
deriving DecidableEq, Repr

/-- A delegation slot (R444, R445). -/
structure Deleg where
  key : Line
  owner : Bool
  debug : Bool
deriving DecidableEq, Repr

structure Sec where
  stage : Stage := .rom
  /-- Slot of the running image (R451): false A, true B. -/
  slot : Bool := false
  fellBack : Bool := false
  failReason : BitVec 3 := 0
  idOk : Bool := false
  recordLost : Bool := false
  floor : BitVec 16 := 0
  slots : Vector ImgSlot 2 := Vector.replicate 2 {}
  preferred : Bool := false
  /-- The last boot attempt: its slot, whether it reached service, and how often in a row it did not (R439). -/
  lastSlot : Bool := false
  lastFails : Nat := 0
  /-- Sequence number of the boot record in force; 0 when there is none. -/
  recordSeq : Nat := 0
  /-- The boot record that the flash holds since it was last written; none while it is the factory's. -/
  record : Option BootRec := none
  /-- VERSION of the running image (R451). -/
  version : Word := 0
  op : BitVec 4 := 0
  addr : DWord := 0
  len : Word := 0
  busy : Bool := false
  status : BitVec 8 := 0
  detail : BitVec 8 := 0
  lastOp : BitVec 4 := 0
  spareReady : Bool := false
  /-- The spare pair loads the TRIAL image (R456). -/
  spareLoads : Bool := false
  /-- SWAP is pending at the next tick (R457). -/
  swap : Bool := false
  unlocked : Bool := false
  /-- The digest of the unlock token, 0 before an unlock (Table 19-5). -/
  token : Line := 0
  chal : BitVec 256 := 0
  meas : Vector Line 8 := Vector.replicate 8 0
  deleg : Vector (Option Deleg) 4 := Vector.replicate 4 none
  /-- Bytes of the module flash that have been written, addresses rising (R437). -/
  flash : List Host.Cell := []
deriving DecidableEq, Repr

/-! ## Power (20) -/

structure Pwr where
  /-- Rails within 3 % of nominal, 0 to 8, in the order of Table 20-4. -/
  rails : Nat := 8
  /-- The start sequence or the powered state is under way. -/
  on : Bool := true
  modEn : Bool := true
  /-- The voltage at J1, mV, as last told (Table 20-2). -/
  supply : Int := 40000
  /-- RST_N is low and has reset the die (R435). -/
  inReset : Bool := false
  /-- Stays off until MOD_EN has been deasserted for 100 ms (R461, R470). -/
  lockedOff : Bool := false
  /-- A rise of MOD_EN to act on 100 ms after the rails are off (Table 20-6). -/
  rise : Bool := false
  /-- The 100 ms after the rails went off, or after MOD_EN was deasserted on a module that stays off, run. -/
  holdoff : Bool := false
  /-- An orderly shutdown runs (R462). -/
  shutdown : Bool := false
  warn : Bool := false
  range : Bool := false
  trip : Bool := false
  vin : BitVec 16 := 0
  iin : BitVec 16 := 0
  pin : BitVec 16 := 0
  pinMax : BitVec 16 := 0
  cons : Vector (BitVec 16) 8 := Vector.replicate 8 0
  consMax : Vector (BitVec 16) 8 := Vector.replicate 8 0
  temp : Vector (BitVec 16) 74 := Vector.replicate 74 0
  tempMax : Vector (BitVec 16) 74 := Vector.replicate 74 0x8000
deriving DecidableEq, Repr

/-! ## What leaves the block -/

/-- What the last command sent out of the block. -/
inductive Output
  /-- The answer to a window read (R355). -/
  | window (region off : Nat) (v : Word)
  | rcl (m : RclMsg)
  /-- NAK on RCL: the companion sends again what followed `ack` (R346, R277). -/
  | rclNak (ack : BitVec 12)
  /-- A flit on the wire, with the mark that a contribution to its data was limited (R73, R297). -/
  | flit (p : PortId) (w : BitVec 640) (limited : Bool)
  /-- A control message to a module of the group. -/
  | group (dst : ModId) (m : GrpMsg)
  /-- An SDO answer: abort code, 0 on success, and the bytes uploaded (R395). -/
  | sdo (code : Word) (bytes : List Byte)
  /-- The answer to an SDO Information request (R395). -/
  | sdoInfo (code : Word) (bytes : List Byte)
  /-- AL status and AL status code (R395). -/
  | al (st : BitVec 4) (code : BitVec 16)
  | syncOut (high : Bool)
  /-- TDO of a test-port instruction: the instruction that acts (R446). -/
  | test (i : TestInstr)
deriving DecidableEq, Repr

/-! ## The device -/

structure Dev where
  per : Period := {}
  cmp : Vector Comparator 8 := Vector.replicate 8 {}
  lex : Lex := {}
  /-- Pending copies of RWP registers written in this Period, by privileged offset, in canonical form (R11, R374). -/
  rwp : List (Nat × Word) := []
  ctx : Vector Ctx 16 := Vector.replicate 16 {}
  zeroing : List Zeroing := []
  /-- Commands that have not ended, in order of their ids. -/
  cmds : List Cmd := []
  tensors : List Tensor := []
  attns : List Attn := []
  /-- Tiles that have been expanded and whose final attempt has not committed. -/
  tiles : List Tile := []
  arr : Vector Arr 208 := Vector.replicate 208 {}
  mc : Vector Mcast 8 := Vector.replicate 8 {}
  inject : Option Inject := none
  injectDetected : BitVec 16 := 0
  mem : Mem := {}
  ind : Ind := {}
  flt : Flt := {}
  port : Vector Port 18 := Vector.replicate 18 {}
  cjn : Cjn := {}
  grp : Grp := {}
  cod : Cod := {}
  rcl : Rcl := {}
  net : Net := {}
  life : Life := {}
  dump : Dump := {}
  sec : Sec := {}
  pwr : Pwr := {}
  /-- The device event ring (R369). -/
  ring : EvRing := {}
  seqs : Seqs := {}
  /-- Id of the next command and uid of the next tile (the model's own numbering). -/
  nextId : Nat := 1
  nextUid : Nat := 1
  /-- Free values drawn so far (the model's own counter). -/
  freeCount : Nat := 0
  /-- Captures by TAKE and by each context's snapshot register (Table 15-19). -/
  takes : BitVec 16 := 0
  ctxTakes : Vector (BitVec 16) 16 := Vector.replicate 16 0
  /-- Sent out by the last command, oldest first. -/
  out : List Output := []
deriving DecidableEq, Repr

/-- The block: the device, the copies that TAKE and the context snapshots hold, and the commands that wait. -/
structure State where
  dev : Dev := {}
  /-- The privileged capture (R376). -/
  snap : Option Dev := none
  /-- The capture of each context window (R377). -/
  ctxSnap : Vector (Option Dev) 16 := Vector.replicate 16 none
  /-- The commands that wait, first in, first out. -/
  pending : List Instr := []
deriving DecidableEq, Repr

/-- The device right after reset: every register at the reset value of its table, and the other state at the values that
INVENTORY.md and the assumption log name (entries 1 to 4, 12 and 20). The rails are up and RST_N is still low (R435): the boot
starts when it rises. -/
def Dev.reset : Dev := { pwr := { inReset := true } }

/-- The block right after reset (R435): nothing captured, no command waiting. -/
def State.reset : State := { dev := Dev.reset }

end Sys2Proof.Machine
end

