-- ==== Sys2Proof/Machine/Ops.lean ====
section
/-!
DEFINITION. Machine/Ops.lean: the named operations over the state: sparse tables in canonical form, memory with poison
and write combining (R250 to R265), the Lexicon values in force and pending, counters of the lifetime record, and the
small updates that every meaning is written with.
-/
namespace Sys2Proof.Machine

/-! ## Sparse tables -/

/-- The value at `k`, `z` where the table lists none. -/
def alGet {α : Type} (z : α) : List (Nat × α) → Nat → α
  | [], _ => z
  | (k', v) :: l, k => if k = k' then v else alGet z l k

/-- The table with `v` at `k`; writing `z` removes the entry. Keys stay strictly rising. -/
def alPut {α : Type} [DecidableEq α] (z : α) (k : Nat) (v : α) : List (Nat × α) → List (Nat × α)
  | [] => if v = z then [] else [(k, v)]
  | (k', v') :: l =>
    if k < k' then (if v = z then (k', v') :: l else (k, v) :: (k', v') :: l)
    else if k = k' then (if v = z then l else (k, v) :: l)
    else (k', v') :: alPut z k v l

/-- The canonical form: keys strictly rising, and no entry equal to what an unlisted key reads as. -/
abbrev alWf {α : Type} (z : α) (l : List (Nat × α)) : Prop :=
  l.Pairwise (fun p q => p.1 < q.1) ∧ ∀ p ∈ l, p.2 ≠ z

/-- A list of keys with `k` put in, rising and without repeats. -/
def keyPut (k : Nat) : List Nat → List Nat
  | [] => [k]
  | k' :: l => if k < k' then k :: k' :: l else if k = k' then k' :: l else k' :: keyPut k l

/-! ## Memory -/

/-- Bytes of a scratchpad, and the key of its byte `o` (R250). -/
def padSize : Nat := 2 ^ 25
def padKey (a : Nat) (o : Nat) : Nat := 2 ^ 52 + a * padSize + o

/-- The canonical form of memory. -/
abbrev Memory.wf (m : List Host.Cell) : Prop := alWf (0 : Byte) m

/-- One byte; a byte nothing has written reads 0 (R433). -/
def memByte (m : List Host.Cell) (k : Nat) : Byte := alGet 0 m k
def memPut (m : List Host.Cell) (k : Nat) (b : Byte) : List Host.Cell := alPut 0 k b m

/-- Write bytes from `k` up. -/
def memPuts (m : List Host.Cell) (k : Nat) : List Byte → List Host.Cell
  | [] => m
  | b :: bs => memPuts (memPut m k b) (k + 1) bs

/-- Bytes of protection: 64 in LPDDR and companion memory, 8 in a scratchpad (R259). -/
def granule (k : Nat) : Nat := if k < 2 ^ 52 then 64 else 8
def granuleBase (k : Nat) : Nat := k - k % granule k

/-- Read `n` bytes. -/
def Mem.read (m : Mem) (k n : Nat) : List Byte := (List.range n).map fun i => memByte m.cells (k + i)

/-- The controller of a line (R257). -/
def controller (line : Nat) : Fin 48 := ⟨line % 48, Nat.mod_lt _ (by decide)⟩
/-- The channel of a line (R257). -/
def channelOf (line : Nat) : Fin 192 :=
  ⟨(4 * (line % 48) + line / 48 % 4) % 192, Nat.mod_lt _ (by decide)⟩

/-- The place of a line in its channel: channel line, data slot and ECC group; the channel bytes of its data, of its check
symbols and of its group's ECC line (R257, R258). -/
def channelLine (line : Nat) : Nat := line / 192
def dataSlot (j : Nat) : Nat := j % 15
def eccGroup (j : Nat) : Nat := j / 15
def channelByte (j : Nat) : Nat := 1024 * eccGroup j + 64 * dataSlot j
def eccLineByte (j : Nat) : Nat := 1024 * eccGroup j + 960
def checkSymbolByte (j : Nat) : Nat := eccLineByte j + 4 * dataSlot j

/-! ### Relocation (R267, R268) -/

/-- Data lines of a channel, and channel lines of a reserve unit. -/
def channelLines : Nat := 125829120
def unitLines : Nat := 786432
/-- The first channel line of reserve unit `u`. -/
def unitBase (u : Nat) : Nat := channelLines - (u + 1) * unitLines

/-- A spared channel as it was relocated: the survivors in ascending number, and the lines it held. -/
structure Reloc where
  ch : Nat
  reserve : Nat
  surv : List Nat
  lines : Nat

/-- Lines that a relocation gives to channel `c`. -/
def Reloc.share (r : Reloc) (c : Nat) : Nat :=
  match r.surv.idxOf? c with | some i => (r.lines - i + r.surv.length - 1) / r.surv.length | none => 0

/-- The relocation of channel `c` at reserve `k` after those of `es`: it holds its own lines below the reserve and its shares
of the units of earlier spares. -/
def relocOf (es : List Reloc) (c k : Nat) : Reloc :=
  let gone := c :: es.map (·.ch)
  { ch := c, reserve := k, surv := (List.range 192).filter fun x => !gone.contains x
    lines := channelLines - k * unitLines + es.foldl (fun n e => n + e.share c) 0 }

/-- The number of channel line `j` among the lines that a spared channel held, in ascending order. -/
def Reloc.rank (r : Reloc) (es : List Reloc) (j : Nat) : Nat :=
  let own := channelLines - r.reserve * unitLines
  if j < own then j
  else
    let u := (channelLines - 1 - j) / unitLines
    own + (es.drop (u + 1)).foldl (fun n e => n + e.share r.ch) 0 + (j - unitBase u)

/-- Where a line lies after the relocations so far: `es` are those before. -/
def relocate : List Reloc → List SpareUnit → Nat × Nat → Nat × Nat
  | _, [], p => p
  | es, u :: us, p =>
    let r := relocOf es u.channel.val u.reserve
    let k := r.rank es p.2
    let p' := if p.1 = r.ch ∧ k < u.copied then
        (r.surv.getD (k % r.surv.length) 0, unitBase es.length + k / r.surv.length) else p
    relocate (es ++ [r]) us p'

/-- The relocations made. -/
def Mem.relocs (m : Mem) : List Reloc := m.spares.foldl (fun es u => es ++ [relocOf es u.channel.val u.reserve]) []

/-- The channel and the channel line that hold a line now. -/
def Mem.home (m : Mem) (line : Nat) : Nat × Nat := relocate [] m.spares ((channelOf line).val, channelLine line)
/-- The channel that holds a line now. -/
def Mem.channel (m : Mem) (line : Nat) : Fin 192 :=
  if m.spares = [] then channelOf line else ⟨(m.home line).1 % 192, Nat.mod_lt _ (by decide)⟩
/-- The controller that serves it. -/
def Mem.controller (m : Mem) (line : Nat) : Fin 48 :=
  if m.spares = [] then Machine.controller line else ⟨(m.channel line).val / 4, by have := (m.channel line).isLt; omega⟩

/-- How much of a migration is done, percent. -/
def SpareUnit.progress (u : SpareUnit) : Nat := if u.lines ≤ u.copied then 100 else 100 * u.copied / u.lines

/-- A channel that stopped answering held line `line` at that time (R410). -/
def Mem.wasLost (m : Mem) (line : Nat) : Bool :=
  m.lost.any fun x => { m with spares := x.2 }.channel line = x.1

/-- Is byte `k` poisoned: its granule is marked, or its line was lost with its channel and not written whole since? -/
def Mem.bad (m : Mem) (k : Nat) : Bool :=
  m.poison.contains (granuleBase k) ||
    (decide (k < 2 ^ 51) && m.wasLost (k / 64) && !m.fresh.contains (granuleBase k))

/-- The granules that `n` bytes from `k` touch. -/
def granulesOf (k n : Nat) : List Nat :=
  if n = 0 then []
  else
    let g := granule k
    (List.range ((k + n - 1) / g - k / g + 1)).map fun i => (k / g + i) * g

/-- The poisoned granules among bytes `k` to `k + n − 1`. -/
def Mem.poisoned (m : Mem) (k n : Nat) : List Nat := (granulesOf k n).filter m.bad

def Mem.setPoison (m : Mem) (k : Nat) : Mem := { m with poison := keyPut (granuleBase k) m.poison }

/-- A write of the whole granule clears its poison (R259). -/
def Mem.clearPoison (m : Mem) (k n : Nat) : Mem :=
  let whole := (granulesOf k n).filter fun p => decide (k ≤ p ∧ p + granule p ≤ k + n)
  { m with
    poison := m.poison.filter fun p => !whole.contains p
    fresh := if m.lost = [] then m.fresh
      else whole.foldl (fun l p => if decide (p < 2 ^ 51) && m.wasLost (p / 64) then keyPut p l else l) m.fresh }

/-- The bytes to store: with `half`, the last byte keeps its high nibble (R117). -/
def Mem.merged (m : Mem) (k : Nat) (bs : List Byte) (half : Bool) : List Byte :=
  if half then
    match bs.getLast? with
    | some b => bs.dropLast ++ [(memByte m.cells (k + bs.length - 1) &&& 0xF0#8) ||| (b &&& 0x0F#8)]
    | none => bs
  else bs

/-- The nibble mask of a write of `n` bytes at byte `i` of a line; with `half` without the last high nibble. -/
def nibMask (i n : Nat) (half : Bool) : BitVec 128 :=
  BitVec.ofNat 128 ((2 ^ (2 * n - (if half then 1 else 0)) - 1) * 2 ^ (2 * i))

/-- Byte `i` of a line with its half-bytes of `mask` from `own` and the others from `other`. -/
def halfMerge (mask : BitVec 128) (i : Nat) (own other : Byte) : Byte :=
  let keep : Byte := (if mask.getLsbD (2 * i) then 0x0F#8 else 0) ||| (if mask.getLsbD (2 * i + 1) then 0xF0#8 else 0)
  (own &&& keep) ||| (other &&& ~~~keep)

/-- Evict entry `e`: a full mask goes as one burst; a partial mask is a read-modify-write, counted (R264, R427 kind 2 of
the channel, by the caller through the returned flag). -/
def Wcb.drop (w : Wcb) (e : WcEntry) : Wcb :=
  { entries := w.entries.filter (· ≠ e), rmw := if e.mask = BitVec.allOnes 128 then w.rmw else satInc w.rmw }

/-- Merge a write into a write-combining buffer (R263, R264). Answers the buffer, whether the line has been written whole,
and the lines evicted by read-modify-write. -/
def Wcb.merge (w : Wcb) (line : Nat) (mask : BitVec 128) (now : Nat) : Wcb × Bool × List Nat :=
  match w.entries.find? (·.line = line) with
  | some e =>
    let mk := e.mask ||| mask
    let rest := w.entries.filter (· ≠ e)
    if mk = BitVec.allOnes 128 then ({ w with entries := rest }, true, [])
    else ({ w with entries := rest ++ [⟨line, mk, now⟩] }, false, [])
  | none =>
    if mask = BitVec.allOnes 128 then (w, true, [])
    else if w.entries.length < 64 then ({ w with entries := w.entries ++ [⟨line, mask, now⟩] }, false, [])
    else
      match w.entries with
      | old :: rest =>
        ({ entries := rest ++ [⟨line, mask, now⟩], rmw := satInc w.rmw }, false, [old.line])
      | [] => (w, false, [])

/-- Pieces of a range that lie in one 64-byte line each: address and length. -/
def pieces : Nat → Nat → Nat → List (Nat × Nat)
  | 0, _, _ => []
  | fuel + 1, a, n =>
    if n = 0 then []
    else
      let l := min n (64 - a % 64)
      (a, l) :: pieces fuel (a + l) (n - l)

def linePieces (a n : Nat) : List (Nat × Nat) := pieces (n / 64 + 2) a n

/-! ## Free values -/

/-- Draw a free value of `w` bits. -/
def Dev.draw (d : Dev) (w : Nat) : BitVec w × Dev :=
  (BitVec.ofNat w (Config.free d.freeCount), { d with freeCount := d.freeCount + 1 })

/-! ## Small updates -/

def Dev.modCtx (d : Dev) (c : CtxId) (f : Ctx → Ctx) : Dev := { d with ctx := d.ctx.set c (f d.ctx[c]) }
def Dev.modCp (d : Dev) (c : CtxId) (f : Cp → Cp) : Dev := d.modCtx c fun x => { x with cp := f x.cp }
def Dev.modRph (d : Dev) (c : CtxId) (f : Rph → Rph) : Dev := d.modCtx c fun x => { x with rph := f x.rph }
def Dev.modLdt (d : Dev) (c : CtxId) (f : Ldt → Ldt) : Dev := d.modCtx c fun x => { x with ldt := f x.ldt }
def Dev.modAtt (d : Dev) (c : CtxId) (f : Att → Att) : Dev := d.modCtx c fun x => { x with att := f x.att }
def Dev.modQ (d : Dev) (c : CtxId) (q : QId) (f : Queue → Queue) : Dev :=
  d.modCtx c fun x => { x with queue := x.queue.set q (f x.queue[q]) }
def Dev.modArr (d : Dev) (a : ArrId) (f : Arr → Arr) : Dev := { d with arr := d.arr.set a (f d.arr[a]) }
def Dev.modPort (d : Dev) (p : PortId) (f : Port → Port) : Dev := { d with port := d.port.set p (f d.port[p]) }
def Dev.modMc (d : Dev) (i : Fin 8) (f : Mcast → Mcast) : Dev := { d with mc := d.mc.set i (f d.mc[i]) }
def Dev.modCmp (d : Dev) (i : Fin 8) (f : Comparator → Comparator) : Dev := { d with cmp := d.cmp.set i (f d.cmp[i]) }
def Dev.modCh (d : Dev) (i : Fin 192) (f : Channel → Channel) : Dev :=
  { d with mem := { d.mem with ch := d.mem.ch.set i (f d.mem.ch[i]) } }
def Dev.modSess (d : Dev) (i : SessId) (f : Sess → Sess) : Dev :=
  { d with cod := { d.cod with sess := d.cod.sess.set i (f d.cod.sess[i]) } }
def Dev.modEng (d : Dev) (i : EngId) (f : Eng → Eng) : Dev :=
  { d with cod := { d.cod with eng := d.cod.eng.set i (f d.cod.eng[i]) } }
def Dev.modSlot (d : Dev) (i : Fin 192) (f : Slot → Slot) : Dev :=
  { d with flt := { d.flt with slot := d.flt.slot.set i (f d.flt.slot[i]) } }
def Dev.modPair (d : Dev) (i : Fin 18) (f : Pair → Pair) : Dev :=
  { d with flt := { d.flt with pair := d.flt.pair.set i (f d.flt.pair[i]) } }
def Dev.modSup (d : Dev) (i : Fin 2) (f : Pair → Pair) : Dev :=
  { d with flt := { d.flt with sup := d.flt.sup.set i (f d.flt.sup[i]) } }
def Dev.modCmd (d : Dev) (id : Nat) (f : Cmd → Cmd) : Dev :=
  { d with cmds := d.cmds.map fun x => if x.id = id then f x else x }
def Dev.modTile (d : Dev) (uid : Nat) (f : Tile → Tile) : Dev :=
  { d with tiles := d.tiles.map fun x => if x.uid = uid then f x else x }
def Dev.modTensor (d : Dev) (id : Nat) (f : Tensor → Tensor) : Dev :=
  { d with tensors := d.tensors.map fun x => if x.cmd = id then f x else x }
def Dev.modAttn (d : Dev) (id : Nat) (f : Attn → Attn) : Dev :=
  { d with attns := d.attns.map fun x => if x.cmd = id then f x else x }
def Dev.modColl (d : Dev) (id : Nat) (f : Coll → Coll) : Dev :=
  { d with cjn := { d.cjn with colls := d.cjn.colls.map fun x => if x.cmd = id then f x else x } }

/-- The armed injection goes, also from the tile it was bound to (R124). -/
def Dev.dropInject (d : Dev) : Dev :=
  match d.inject with
  | some i => match i.tile with
    | some u => { d.modTile u fun t => { t with injectAt := none } with inject := none }
    | none => { d with inject := none }
  | none => d

def Dev.cmd? (d : Dev) (id : Nat) : Option Cmd := d.cmds.find? (·.id = id)
def Dev.tensor? (d : Dev) (id : Nat) : Option Tensor := d.tensors.find? (·.cmd = id)
def Dev.attn? (d : Dev) (id : Nat) : Option Attn := d.attns.find? (·.cmd = id)
def Dev.tile? (d : Dev) (uid : Nat) : Option Tile := d.tiles.find? (·.uid = uid)
def Dev.coll? (d : Dev) (id : Nat) : Option Coll := d.cjn.colls.find? (·.cmd = id)

/-- Send something out of the block. -/
def Dev.emit (d : Dev) (o : Output) : Dev := { d with out := d.out ++ [o] }

/-- Count `n` events under lifetime id `id`; a live register holds at all ones (Table 18-8). -/
def Dev.count (d : Dev) (id : Nat) (n : Nat := 1) : Dev :=
  { d with life := { d.life with live := alPut 0 id (holdAt 32 (alGet 0 d.life.live id + n)) d.life.live } }

/-- Counters of a context (0x040), a port (0x1C0), a channel (0x240) and an array (0x480) (Table 18-7). -/
def Dev.countCtx (d : Dev) (k : Nat) (c : CtxId) (n : Nat := 1) : Dev := d.count (0x040 + 16 * k + c.val) n
def Dev.countPort (d : Dev) (k : Nat) (p : PortId) (n : Nat := 1) : Dev := d.count (0x1C0 + 32 * k + p.val) n
def Dev.countCh (d : Dev) (k : Nat) (ch : Fin 192) (n : Nat := 1) : Dev := d.count (0x240 + 192 * k + ch.val) n
def Dev.countArr (d : Dev) (k : Nat) (a : ArrId) (n : Nat := 1) : Dev := d.count (0x480 + 256 * k + a.val) n

/-- 1 ms in ns. -/
def msNs : Nat := 1000000

/-- Symbols corrected on a lane in the last 1 ms (R278, Table 12-10). -/
def Port.fixedMs (x : Port) (now : Nat) (l : Nat) : Nat :=
  (x.fixes.filter fun y => y.2.val = l && decide (now < y.1 + msNs)).length

/-! ## Lexicon values -/

def lexKey (index sub : Nat) : Nat := 256 * index + sub

/-- The value in force of a writable entry. -/
def Dev.lexVal (d : Dev) (index sub : Nat) : Nat :=
  match d.lex.vals.find? (·.1 = lexKey index sub) with
  | some (_, v) => v
  | none => lexDefault index sub

/-- Put a value in force. Values equal to their defaults are not listed. -/
def Dev.lexSet (d : Dev) (index sub v : Nat) : Dev :=
  let k := lexKey index sub
  let rest := d.lex.vals.filter (·.1 ≠ k)
  let put := if v = lexDefault index sub then rest
    else rest.filter (·.1 < k) ++ (k, v) :: rest.filter (fun p => decide (k < p.1))
  { d with lex := { d.lex with vals := put } }

/-- The value pending for the next tick. -/
def Dev.lexPending (d : Dev) (index sub : Nat) : Option Nat :=
  (d.lex.buf.find? (·.1 = lexKey index sub)).map (·.2)

/-- Place a value in the buffer; a later write replaces it (R32, R389). -/
def Dev.lexBuffer (d : Dev) (index sub v : Nat) : Dev :=
  let k := lexKey index sub
  let rest := d.lex.buf.filter (·.1 ≠ k)
  { d with lex := { d.lex with buf := rest.filter (·.1 < k) ++ (k, v) :: rest.filter (fun p => decide (k < p.1)) } }

/-! ## The Period -/

/-- Numerator and denominator of a rate code (Table 02-3), the custom rate for 0xF (R23). -/
def rateOf (code num den : Nat) : Nat × Nat :=
  match code with
  | 0 => (24000, 1001) | 1 => (24, 1) | 2 => (25, 1) | 3 => (30000, 1001) | 4 => (30, 1) | 5 => (50, 1)
  | 6 => (60000, 1001) | 7 => (60, 1) | 8 => (100, 1) | 9 => (120000, 1001) | 10 => (120, 1)
  | _ => (num, den)

/-- 10^9 × den, so that T = tnum ÷ num ns (R24). -/
def Period.tnum (p : Period) : Nat := 1000000000 * p.den

/-- The timestamp count since the last tick, ns. -/
def Dev.tsNs (d : Dev) : Nat := d.per.now - d.per.lastTick

/-- Contexts that hold resources: ACTIVE or DRAINING. -/
def Ctx.resident (x : Ctx) : Bool := x.st = .active || x.st = .draining

/-- The sparing reserve k in force (R267). -/
def Dev.reserveK (d : Dev) : Nat := d.lexVal 0x2300 3

/-! ## The device address map (R251) -/

inductive Region
  | firmware | software | reserve | unmapped | companion
deriving DecidableEq, Repr

/-- First address above the software region. -/
def Dev.softTop (d : Dev) : Nat := 0x16800000000 - d.reserveK * (9 * 2 ^ 30)

def Dev.region (d : Dev) (a : Nat) : Region :=
  if 2 ^ 51 ≤ a then .companion
  else if a < 0x200000000 then .firmware
  else if a < d.softTop then .software
  else if a < 0x16800000000 then .reserve
  else .unmapped

/-- RCL carries traffic (R347, R348). -/
def Dev.rclUp (d : Dev) : Bool := d.rcl.st = .up16 || d.rcl.st = .up8

/-- A line is at hand for a read: it is not companion memory, or it is held and, for a monitor line, RCL is up (R348,
R349); an LPDDR line that the companion may have modified is not (R351). -/
def Dev.atHand (d : Dev) (line : Nat) : Bool :=
  if 2 ^ 51 ≤ line then
    d.rcl.lines.any (·.1 = line) ||
      (d.rclUp && d.rcl.monitor.contains line && !d.rcl.asks.any fun a => a.addr = line && a.kind = .monitor)
  else !d.rcl.dir.contains (line, true)

/-! ## The companion cache (R349, R350) -/

/-- Send an RCL message in a flit of its own; the replay buffer keeps it (R346; DESIGN CHOICE, log entry 108). -/
def Dev.rclSend (d : Dev) (m : RclMsg) : Dev :=
  let kept := d.rcl.replay ++ [(d.rcl.seq + 1, m)]
  Dev.emit { d with rcl := { d.rcl with seq := d.rcl.seq + 1, replay := kept.drop (kept.length - 512) } } (.rcl m)

def rclLinesMax : Nat := 65536

/-- Put a line into the cache in a state; a full cache gives up its oldest line: RETURN for M, LET_GO for S and E. -/
def Dev.cacheLine (d : Dev) (line : Nat) (st : LineSt) : Dev :=
  let rest := d.rcl.lines.filter (·.1 ≠ line)
  if rest.length < rclLinesMax then { d with rcl := { d.rcl with lines := rest ++ [(line, st)] } }
  else
    match rest with
    | (o, os) :: tl =>
      let d := { d with rcl := { d.rcl with lines := tl ++ [(line, st)], evicted := satInc d.rcl.evicted } }
      match os with
      | .m => d.rclSend (.returnLine o (Line.ofBytes (d.mem.read o 64)) (d.mem.bad o))
      | _ => d.rclSend (.letGo o)
    | [] => d

/-- The state a companion line is held in. -/
def Dev.lineState (d : Dev) (line : Nat) : Option LineSt := (d.rcl.lines.find? (·.1 = line)).map (·.2)

/-- Ask the companion for a line, once (Table 15-4); while RCL is down the request waits (R348). -/
def Dev.ask (d : Dev) (line : Nat) (k : AskKind) (mask : BitVec 128 := 0) : Dev :=
  if d.rcl.asks.any (fun a => a.addr = line ∧ a.kind = k) then
    let asks := d.rcl.asks.map fun (a : Ask) => if a.addr = line ∧ a.kind = k then { a with mask := a.mask ||| mask } else a
    { d with rcl := { d.rcl with asks := asks } }
  else
    let d := { d with rcl := { d.rcl with asks := d.rcl.asks ++ [({ addr := line, kind := k, mask := mask } : Ask)] } }
    if d.rclUp then d.rclSend (.ask k line) else d

/-- Send a probe for a directory line, once (R351). -/
def Dev.probe (d : Dev) (line : Nat) (drop : Bool) (mask : BitVec 128 := 0) : Dev :=
  if d.rcl.probes.any (fun p => p.addr = line ∧ (p.drop = true ∨ drop = false)) then
    let probes := d.rcl.probes.map fun (p : Probe) => if p.addr = line then { p with mask := p.mask ||| mask } else p
    { d with rcl := { d.rcl with probes := probes } }
  else
    let old := d.rcl.probes.foldl (fun m (p : Probe) => if p.addr = line then m ||| p.mask else m) mask
    let d := { d with rcl := { d.rcl with
      probes := (d.rcl.probes.filter fun (p : Probe) => p.addr ≠ line) ++ [({ addr := line, drop := drop, mask := old } : Probe)]
      backInv := if drop then satInc d.rcl.backInv else d.rcl.backInv } }
    if d.rclUp then d.rclSend (if drop then .probeDrop line else .probeDemote line) else d

/-- What it takes to have a line at hand: GET_CLEAN for companion memory, PROBE_DEMOTE for an LPDDR line in O. -/
def Dev.want (d : Dev) (line : Nat) : Dev :=
  if d.atHand line then d else if 2 ^ 51 ≤ line then d.ask line .clean else d.probe line false

/-- A read of a line: where it is not at hand, it is asked for and the read is missed. -/
def Dev.touchRead (d : Dev) (line : Nat) : Dev :=
  if d.atHand line then d else { d.want line with rcl := { (d.want line).rcl with missed := true } }

/-- Ask for the lines that a change `r` of the device has asked for. -/
def Dev.wantOf (d r : Dev) : Dev :=
  let lines := (r.rcl.asks.filter fun a => a.kind = .clean && !d.rcl.asks.contains a).map (·.addr) ++
    (r.rcl.probes.filter fun p => !p.drop && !d.rcl.probes.contains p).map (·.addr)
  lines.foldl Dev.want d

/-- Run a change that reads memory: where a read misses, only what it asks for stands, and the change waits (R348). -/
def Dev.attempt (d : Dev) (f : Dev → Dev) : Dev :=
  let was := d.rcl.missed
  let r := f { d with rcl := { d.rcl with missed := false } }
  if r.rcl.missed then d.wantOf r else { r with rcl := { r.rcl with missed := was } }

/-- What writing a companion line does to its state: E and M become M, any other is asked for with GET_SOLE, and is M when
the answer has come; the bytes written count as they stand (R349). -/
def Dev.touchWrite (d : Dev) (line i n : Nat) (half : Bool) : Dev :=
  match d.lineState line with
  | some .m => d
  | some .e => d.cacheLine line .m
  | _ => d.ask line .sole (nibMask i n half)

/-! ## Writing memory -/

/-- Write bytes into one line of LPDDR through its write-combining buffer (R263 to R265). -/
def Dev.lpddrPut (d : Dev) (a : Nat) (bs : List Byte) (half : Bool) : Dev :=
  let line := a / 64
  let k := d.mem.controller line
  let n := bs.length
  let bs := d.mem.merged a bs half
  let (w, whole, rmw) := d.mem.wcb[k].merge line (nibMask (a % 64) n half) d.per.now
  let m := { d.mem with cells := memPuts d.mem.cells a bs, wcb := d.mem.wcb.set k w }
  let m := if whole then m.clearPoison (64 * line) 64 else m
  rmw.foldl (fun d l => d.countCh 2 (d.mem.channel l)) { d with mem := m }

/-- Write bytes into a scratchpad or companion memory. -/
def Dev.plainPut (d : Dev) (a : Nat) (bs : List Byte) (half : Bool) : Dev :=
  let bs' := d.mem.merged a bs half
  let m := { d.mem with cells := memPuts d.mem.cells a bs' }
  { d with mem := m.clearPoison a (if half then bs.length - 1 else bs.length) }

/-- Before a write of a line that the companion holds in S or O the Kraip sends PROBE_DROP (R351). -/
def Dev.dirWrite (d : Dev) (line i n : Nat) (half : Bool) : Dev :=
  if d.rcl.dir.any (·.1 = line) then d.probe line true (nibMask i n half) else d

/-- Write bytes that lie in one line or in a scratchpad, by key. -/
def Dev.putPiece (d : Dev) (k : Nat) (bs : List Byte) (half : Bool) : Dev :=
  if 2 ^ 52 ≤ k then d.plainPut k bs half
  else if 2 ^ 51 ≤ k then (d.touchWrite (k - k % 64) (k % 64) bs.length half).plainPut k bs half
  else (d.dirWrite (k - k % 64) (k % 64) bs.length half).lpddrPut k bs half

/-- Write bytes by key, line by line. -/
def Dev.putBytes (d : Dev) (k : Nat) (bs : List Byte) (half : Bool := false) : Dev :=
  if 2 ^ 52 ≤ k then d.plainPut k bs half
  else
    let ps := linePieces k bs.length
    (ps.zipIdx.foldl (fun (acc : Dev × List Byte) p =>
      (acc.1.putPiece p.1.1 (acc.2.take p.1.2) (half && decide (p.2 + 1 = ps.length)), acc.2.drop p.1.2)) (d, bs)).1

/-! ## Running a meaning -/

/-- Run a change of the device as the effect of a command: what the last command sent out goes, what this one sends is
kept. -/
def State.run (s : State) (f : Dev → Dev) : Host.Outcome State Fault Refusal :=
  .next { s with dev := f { s.dev with out := [] } }

/-- A fault has been recovered from (R401). -/
def Dev.recovered (d : Dev) : Dev := { d with flt := { d.flt with recovered := satInc d.flt.recovered } }

/-- A fault has been detected whose recovery has not ended (R401): a tile to be tried again, a Clause processor pair, a lane group,
a flit that is to be sent again, a channel's lines, or a unit to be coded again. -/
def Dev.recovering (d : Dev) : Bool :=
  d.tiles.any (·.faulty) || d.ctx.toList.any (·.cp.failed) || d.port.toList.any (fun p => p.busy || p.asking) ||
    d.rcl.retraining || d.rcl.asking || d.mem.ch.toList.any (·.st = .sparing) ||
    d.cod.eng.toList.any fun e => e.recode ≠ [] || e.unit.any (·.again)

/-- The block is in service: the firmware serves, and it is neither halted nor shutting down (R418, R420, R433, R462). -/
def Dev.serving (d : Dev) : Bool :=
  d.sec.stage = .service && !d.dump.halted && !d.pwr.shutdown && d.pwr.on && !d.pwr.inReset

/-- The firmware runs: stage 1 loads, or the block is in service (Table 19-2). -/
def Dev.booted (d : Dev) : Bool :=
  (d.sec.stage = .loading || d.sec.stage = .service) && !d.dump.halted && !d.pwr.shutdown && d.pwr.on && !d.pwr.inReset

/-- Run a change from the time the links train on, and with every line it reads at hand. -/
def Dev.inBoot (d : Dev) (f : Dev → Dev) : Dev := if d.booted then d.attempt f else d

/-- Run a change only while the block is in service, and with every line it reads at hand. -/
def Dev.inService (d : Dev) (f : Dev → Dev) : Dev := if d.serving then d.attempt f else d

end Sys2Proof.Machine
end

