-- ==== Sys2Proof/Machine/Flags.lean ====
section
/-!
DEFINITION. Machine/Flags.lean: the master status codes and flags (R372, R373), fence counters and poison (R162 to R165),
event records and completion records with their rings (R367 to R371), and the events that the memories raise (R190,
R252, R259).
-/
namespace Sys2Proof.Machine

/-! ## Status codes (Table 15-15) -/

abbrev stOk : BitVec 8 := 0x00
abbrev stEmpty : BitVec 8 := 0x01
abbrev stDegraded : BitVec 8 := 0x02
abbrev stLate : BitVec 8 := 0x03
abbrev stExceeds : BitVec 8 := 0x10
abbrev stHeld : BitVec 8 := 0x11
abbrev stShard : BitVec 8 := 0x12
abbrev stPages : BitVec 8 := 0x13
abbrev stArrays : BitVec 8 := 0x14
abbrev stDepFailed : BitVec 8 := 0x15
abbrev stSkipped : BitVec 8 := 0x16
abbrev stDamaged : BitVec 8 := 0x30
abbrev stHalted : BitVec 8 := 0x3F

/-- Does a command that ends with this status poison its signal counter (R164)? -/
def poisons (s : BitVec 8) : Bool := decide (16 ≤ s.toNat) && s ≠ stPages && s ≠ stSkipped && s ≠ stDamaged

/-- Flags of Table 15-16. -/
abbrev flNan : BitVec 4 := 1
abbrev flEmptyRow : BitVec 4 := 2
abbrev flSat : BitVec 4 := 4
abbrev flUnrep : BitVec 4 := 8

/-- The status of several commands taken together (R157): that of the first, in issue order, that is neither OK nor
OK_EMPTY. -/
def foldStatus (l : List (BitVec 8 × BitVec 4)) : BitVec 8 × BitVec 4 :=
  l.foldl (fun a x => (if a.1 = stOk ∧ x.1 ≠ stEmpty then x.1 else a.1, a.2 ||| x.2)) (stOk, 0)

/-! ## Fences -/

/-- A counter reaches a target (R162). -/
def reaches (value t : Word) : Bool := decide ((value - t).toNat < 2 ^ 31)

def Dev.fence (d : Dev) (c : CtxId) (f : BitVec 8) : Word := d.ctx[c].cp.fence[f.toNat]'(f.isLt)
def Dev.fencePoisoned (d : Dev) (c : CtxId) (f : BitVec 8) : Bool := d.ctx[c].cp.poison.getLsbD f.toNat

def setBit {w : Nat} (x : BitVec w) (i : Nat) (b : Bool) : BitVec w :=
  if b then x ||| BitVec.ofNat w (2 ^ i) else x &&& ~~~(BitVec.ofNat w (2 ^ i))

/-- Add to a counter; with `poison`, set its poison bit (R163 to R165). -/
def Dev.fenceAdd (d : Dev) (c : CtxId) (f : BitVec 8) (n : Word) (poison : Bool) : Dev :=
  d.modCp c fun p => { p with
    fence := p.fence.set f.toNat (p.fence[f.toNat]'(f.isLt) + n) (f.isLt)
    poison := if poison then setBit p.poison f.toNat true else p.poison }

/-- A fence set: the value is written and poison cleared (R164, R165). -/
def Dev.fenceSet (d : Dev) (c : CtxId) (f : BitVec 8) (v : Word) : Dev :=
  d.modCp c fun p => { p with fence := p.fence.set f.toNat v (f.isLt), poison := setBit p.poison f.toNat false }

/-- Advance the signal counter of a command that ends with `status`. -/
def Dev.signal (d : Dev) (c : CtxId) (sig : Option (BitVec 8)) (status : BitVec 8) : Dev :=
  match sig with
  | some f => d.fenceAdd c f 1 (poisons status)
  | none => d

/-! ## Event records (Tables 15-13, 15-14) -/

/-- The source of an event. -/
inductive EvSrc
  | queue (c : CtxId) (q : QId)
  | session (i : SessId)
  | port (p : PortId)
  | fault
  | lexicon
  | period
  | rcl
deriving DecidableEq, Repr

def EvSrc.type : EvSrc → Nat
  | .queue _ _ => 0 | .session _ => 1 | .port _ => 2 | .fault => 3 | .lexicon => 4 | .period => 5 | .rcl => 6

def EvSrc.index : EvSrc → Nat
  | .queue c q => 4 * c.val + q.val | .session i => i.val | .port p => p.val | _ => 0

/-- The source's next sequence number, and the device after it has been taken (R370). -/
def Dev.takeSeq (d : Dev) : EvSrc → Word × Dev
  | .queue c q => (d.ctx[c].queue[q].seq, d.modQ c q fun x => { x with seq := x.seq + 1 })
  | .session i => (d.cod.sess[i].evSeq, d.modSess i fun x => { x with evSeq := x.evSeq + 1 })
  | .port p => (d.port[p].evSeq, d.modPort p fun x => { x with evSeq := x.evSeq + 1 })
  | .fault => (d.seqs.fault, { d with seqs := { d.seqs with fault := d.seqs.fault + 1 } })
  | .lexicon => (d.seqs.lex, { d with seqs := { d.seqs with lex := d.seqs.lex + 1 } })
  | .period => (d.seqs.period, { d with seqs := { d.seqs with period := d.seqs.period + 1 } })
  | .rcl => (d.seqs.rcl, { d with seqs := { d.seqs with rcl := d.seqs.rcl + 1 } })

/-- The bytes of an event record but for PHASE (Table 15-13). -/
def Dev.eventBytes (d : Dev) (src : EvSrc) (seq : Word) (code : Nat) (data0 : DWord) (data1 : Word) (injected : Bool) :
    List Byte :=
  leBytes seq.toNat 4 ++ leBytes code 2 ++ [BitVec.ofNat 8 src.type, BitVec.ofNat 8 src.index] ++
    leBytes data0.toNat 8 ++ leBytes data1.toNat 4 ++ leBytes d.per.number.toNat 4 ++ leBytes d.tsNs 4 ++
    [0, 0, 0, if injected then 0x40 else 0]

/-- Set PHASE in byte 31: 1 while the ring is walked an even time (R367). -/
def withPhase (bs : List Byte) (i size : Nat) : List Byte :=
  bs.dropLast ++ [(bs.getLastD 0) ||| (if i / size % 2 = 0 then 0x80#8 else 0)]

/-- Write a record into an event ring: where there is room; otherwise it is dropped and counted (R369). -/
def EvRing.room (r : EvRing) : Bool := r.st = .enabled && decide (r.next - r.rd.toNat < r.size)

def Dev.ringOf (d : Dev) : Option CtxId → EvRing
  | some c => d.ctx[c].ring
  | none => d.ring
def Dev.modRing (d : Dev) (r : Option CtxId) (f : EvRing → EvRing) : Dev :=
  match r with
  | some c => d.modCtx c fun x => { x with ring := f x.ring }
  | none => { d with ring := f d.ring }

def Dev.ringPut (d : Dev) (r : Option CtxId) (bs : List Byte) : Dev :=
  let x := d.ringOf r
  if x.room ∧ d.rclUp then
    (d.putBytes (x.ring + 32 * (x.next % x.size)) (withPhase bs x.next x.size)).modRing r
      fun y => { y with next := y.next + 1 }
  else (d.modRing r fun y => { y with drop := satInc y.drop }).count 25

/-! ## Completion records (Table 15-12) -/

/-- The bytes of a completion record as written now. -/
def Dev.cplBytes (d : Dev) (c : CtxId) (q : QId) (r : CplRec) : List Byte :=
  leBytes r.seq.toNat 4 ++ [r.status, r.flags.setWidth 8, r.kind, r.cmd] ++ leBytes r.entry.toNat 4 ++
    leBytes r.arg0.toNat 4 ++ leBytes r.arg1.toNat 4 ++ leBytes r.period 4 ++ leBytes d.tsNs 4 ++
    [BitVec.ofNat 8 (min 255 (d.per.number.toNat - r.period)), r.fault, BitVec.ofNat 8 (64 * q.val + c.val), 0]

/-- Write the records that a queue holds, in order, while there is room (R367, R370). -/
def Dev.drainRecs (d : Dev) (c : CtxId) (q : QId) : Nat → Dev
  | 0 => d
  | fuel + 1 =>
    let x := d.ctx[c].queue[q]
    match x.recs with
    | [] => d
    | .ev bs :: rest =>
      ((d.modQ c q fun y => { y with recs := rest }).ringPut (some c) bs).drainRecs c q fuel
    | .cpl r :: rest =>
      if d.rclUp ∧ x.cplSize ≠ 0 ∧ x.cplNext - x.cplRd.toNat < x.cplSize then
        ((d.putBytes (x.cplRing + 32 * (x.cplNext % x.cplSize)) (withPhase (d.cplBytes c q r) x.cplNext x.cplSize)).modQ
          c q fun y => { y with recs := rest, cplNext := y.cplNext + 1 }).drainRecs c q fuel
      else d

/-- Form a record of a queue source: it is written at once, or held behind those that wait. -/
def Dev.pushRec (d : Dev) (c : CtxId) (q : QId) (r : QRec) : Dev :=
  let d := d.modQ c q fun x => { x with recs := x.recs ++ [r] }
  d.drainRecs c q (d.ctx[c].queue[q].recs.length)

/-- Form a completion record. -/
def Dev.complete (d : Dev) (c : CtxId) (q : QId) (r : CplRec) : Dev :=
  let (seq, d) := d.takeSeq (.queue c q)
  d.pushRec c q (.cpl { r with seq := seq })

/-- Write an event record (R369): the owning context's ring for a queue or a codec session, the device ring for the
others. -/
def Dev.event (d : Dev) (src : EvSrc) (code : Nat) (data0 : DWord := 0) (data1 : Word := 0) (injected : Bool := false) :
    Dev :=
  let (seq, d) := d.takeSeq src
  let bs := d.eventBytes src seq code data0 data1 injected
  match src with
  | .queue c q => d.pushRec c q (.ev bs)
  | .session i => d.ringPut (some d.cod.sess[i].owner) bs
  | .fault =>
    let log := d.dump.log ++ [Line.ofBytes bs]
    { d with dump := { d.dump with log := log.drop (log.length - 4096) } }.ringPut none bs
  | _ => d.ringPut none bs

/-! ## Events of the memories -/

/-- A poisoned read of the granule that holds key `k` (R259, R353): one event, its live counter and its registers. -/
def Dev.poisonedRead (d : Dev) (k : Nat) : Dev :=
  if 2 ^ 52 ≤ k then
    let a := (k - 2 ^ 52) / padSize
    let d := d.event .fault 0x0301 (BitVec.ofNat 64 ((k - 2 ^ 52) % padSize)) (BitVec.ofNat 32 (1 + a))
    if h : a < 208 then d.countArr 2 ⟨a, h⟩ else d
  else if 2 ^ 51 ≤ k then d.event .fault 0x0301 (BitVec.ofNat 64 k) 0x101
  else
    let ch := d.mem.channel (k / 64)
    ((d.event .fault 0x0301 (BitVec.ofNat 64 k) 0).modCh ch fun x =>
      { x with ue := satInc x.ue, ueTimes := d.per.now :: x.ueTimes }).countCh 1 ch

/-- A corrected error of an LPDDR line is counted against the channel that holds it (R266, R410). -/
def Dev.lineCorrected (d : Dev) (line : Nat) : Dev :=
  let ch := d.mem.channel line
  ((d.modCh ch fun x => { x with ce := satInc x.ce, ceTimes := d.per.now :: x.ceTimes }).countCh 0 ch).recovered

/-- A corrected error of a scratchpad word. -/
def Dev.wordCorrected (d : Dev) (a : ArrId) : Dev := ((d.modArr a fun x => { x with ce := satInc x.ce }).countArr 1 a).recovered

/-- A word of a scratchpad is found poisoned: it counts once (Table 11-7 `MEM_SP_STAT.UE`). -/
def Dev.padPoison (d : Dev) (a : ArrId) (k : Nat) : Dev :=
  if d.mem.bad k then d else { d with mem := d.mem.setPoison k }.modArr a fun (x : Arr) => { x with ue := satInc x.ue }

/-- What a demand read finds at a memory key (R191, R266): a corrected error is counted, and the write-back leaves the bytes;
an uncorrectable one poisons the granule. -/
def Dev.demandFinding (d : Dev) (k : Nat) (f : EccFinding) : Dev :=
  let arr : Option ArrId := if h : 2 ^ 52 ≤ k ∧ (k - 2 ^ 52) / padSize < 208 then some ⟨(k - 2 ^ 52) / padSize, h.2⟩ else none
  match f with
  | .clean => d
  | .corrected =>
    match arr with
    | some a => d.wordCorrected a
    | none => if k < 2 ^ 51 then d.lineCorrected (k / 64) else d
  | .uncorrectable =>
    match arr with
    | some a => (d.padPoison a k).poisonedRead k
    | none => if k < 2 ^ 51 then Dev.poisonedRead { d with mem := d.mem.setPoison k } k else d

/-- A protected region was touched (R252). -/
def Dev.protected (d : Dev) (a : Nat) : Dev := (d.event .fault 0x0302 (BitVec.ofNat 64 a) 0).count 5

/-- An access names no memory (R190): one event and one count per command, at its first such access; a program's own loads
and stores are events of its launch's queue. -/
def Dev.unmappedCmd (d : Dev) (id : Nat) (a : Nat) : Dev :=
  match d.cmd? id with
  | some x =>
    if x.unmapped then d
    else ((d.modCmd id fun y => { y with unmapped := true }).event (.queue x.c x.q) 0x0003 (BitVec.ofNat 64 a) 0).count 4
  | none => d
def Dev.unmappedProg (d : Dev) (c : CtxId) (q : QId) (a : Nat) : Dev :=
  (d.event (.queue c q) 0x0003 (BitVec.ofNat 64 a) 0).count 4

end Sys2Proof.Machine
end

