-- ==== Sys2Proof/Machine/Access.lean ====
section
/-!
DEFINITION. Machine/Access.lean: reads and writes of memory by the agents of the Kraip: the device address map and its
holes (R190, R251, R252), scratchpad slots (R127, R405, R406) and poison (R259).
-/
namespace Sys2Proof.Machine

/-- On whose behalf memory is accessed: which event an unmapped access writes (R190). -/
inductive Actor
  | cmd (id : Nat)
  | prog (c : CtxId) (q : QId)
  | unit
deriving DecidableEq, Repr

/-- A byte read, and whether it lies in a poisoned granule. -/
abbrev RByte := Byte × Bool

def bytesOf (l : List RByte) : List Byte := l.map (·.1)
def anyBad (l : List RByte) : Bool := l.any (·.2)

/-- Report an access to no memory. -/
def Dev.reportUnmapped (d : Dev) (who : Actor) (a : Nat) : Dev :=
  match who with
  | .cmd id => d.unmappedCmd id a
  | .prog c q => d.unmappedProg c q a
  | .unit => d

/-- Report an access to a protected region; a command reports its first (R252 as R190). -/
def Dev.reportProtected (d : Dev) (who : Actor) (a : Nat) : Dev :=
  match who with
  | .cmd id =>
    match d.cmd? id with
    | some x => if x.protect then d else (d.modCmd id fun y => { y with protect := true }).protected a
    | none => d
  | _ => d.protected a

/-- Read bytes by key; each poisoned granule is a poisoned read. -/
def Dev.loadKey (d : Dev) (k n : Nat) : List RByte × Dev :=
  let pois := d.mem.poisoned k n
  ((List.range n).map fun i =>
      (memByte d.mem.cells (k + i), pois.any fun p => decide (p ≤ k + i ∧ k + i < p + granule p)),
    pois.foldl Dev.poisonedRead d)

/-- An access made of these pieces is reported once where it names no memory, and once where it touches a protected region
(R190, R252). -/
def Dev.reportAccess (d : Dev) (who : Actor) (ps : List (Nat × Nat)) : Dev :=
  let first (bad : Region → Bool) : Option (Nat × Nat) := ps.find? fun p => bad (d.region p.1)
  let d := match first (· = .unmapped) with | some p => d.reportUnmapped who p.1 | none => d
  match first fun r => decide (r = .firmware ∨ r = .reserve) with | some p => d.reportProtected who p.1 | none => d

/-- Read one piece of device memory: zeros where nothing may be read. -/
def Dev.loadPiece (d : Dev) (a n : Nat) : List RByte × Dev :=
  match d.region a with
  | .software => (d.touchRead (a - a % 64)).loadKey a n
  | .companion => (d.touchRead (a - a % 64)).loadKey a n
  | _ => (List.replicate n (0, false), d)

/-- Read `n` bytes from device physical address `a` (SPACE 0). -/
def Dev.loadAddr (d : Dev) (who : Actor) (a n : Nat) : List RByte × Dev :=
  (linePieces a n).foldl (fun acc p =>
    let (bs, d) := acc.2.loadPiece p.1 p.2
    (acc.1 ++ bs, d)) ([], d.reportAccess who (linePieces a n))

/-- Write one piece of device memory: nothing where nothing may be written. -/
def Dev.storePiece (d : Dev) (a : Nat) (bs : List Byte) (half : Bool) : Dev :=
  match d.region a with
  | .software | .companion => d.putPiece a bs half
  | _ => d

/-- Write bytes to device physical address `a`. -/
def Dev.storeAddr (d : Dev) (who : Actor) (a : Nat) (bs : List Byte) (half : Bool := false) : Dev :=
  let ps := linePieces a bs.length
  (ps.zipIdx.foldl (fun (acc : Dev × List Byte) p =>
    (acc.1.storePiece p.1.1 (acc.2.take p.1.2) (half && decide (p.2 + 1 = ps.length)), acc.2.drop p.1.2))
    (d.reportAccess who ps, bs)).1

/-! ## Scratchpads -/

/-- The array that holds a slot in service (R417). -/
def Dev.slotArr (d : Dev) (s : Nat) : Option ArrId :=
  if h : s < 192 then
    if s < d.flt.pool then d.flt.slot[s].arr else none
  else none

/-- The array that a slot is being copied to (R405). -/
def Dev.slotCopy (d : Dev) (s : Nat) : Option ArrId :=
  if h : s < 192 then d.flt.slot[s].copyTo else none

/-- Read bytes of the scratchpad of array `a`. -/
def Dev.loadPad (d : Dev) (a : ArrId) (o n : Nat) : List RByte × Dev :=
  if o + n ≤ padSize then d.loadKey (padKey a.val o) n else (List.replicate n (0, false), d)

def Dev.storePad (d : Dev) (a : ArrId) (o : Nat) (bs : List Byte) (half : Bool := false) : Dev :=
  if o + bs.length ≤ padSize then d.plainPut (padKey a.val o) bs half else d

/-- Read bytes at an offset of a slot; a slot out of service reads as poisoned (R406). -/
def Dev.loadSlot (d : Dev) (s o n : Nat) : List RByte × Dev :=
  match d.slotArr s with
  | some a => d.loadPad a o n
  | none => (List.replicate n (0, true), d)

/-- The words of a slot that is being copied which a write replaces. -/
def Dev.noteWritten (d : Dev) (s o n : Nat) : Dev :=
  if h : s < 192 then
    d.modSlot ⟨s, h⟩ fun x => { x with
      written := (List.range (n / 8 + 2)).foldl (fun l i => if 8 * (o / 8 + i) < o + n then keyPut (o / 8 + i) l else l) x.written }
  else d

/-- Write bytes at an offset of a slot; while it is copied, to both scratchpads (R405). -/
def Dev.storeSlot (d : Dev) (s o : Nat) (bs : List Byte) (half : Bool := false) : Dev :=
  let d' := match d.slotArr s with | some a => d.storePad a o bs half | none => d
  match d.slotCopy s with
  | some b => (d'.storePad b o bs half).noteWritten s o bs.length
  | none => d'

/-! ## The three spaces (R127) -/

/-- The share of a context: base and bytes (R41). -/
def Dev.shareBase (d : Dev) (c : CtxId) : Nat := d.ctx[c].g.base
def Dev.shareBytes (d : Dev) (c : CtxId) : Nat := d.ctx[c].g.units * 262144

/-- The same report for pieces of a space: the scratchpads have neither. -/
def Dev.reportSpace (d : Dev) (who : Actor) (space : Nat) (ps : List (Nat × Nat)) : Dev :=
  if space = 0 then d.reportAccess who (ps.map fun p => (p.1 % 2 ^ 52, p.2)) else d

/-- Read `n` bytes at a 52-bit address of a space for context `c`; `loc` is the array of SPACE 2. Pieces do not cross a
64-byte boundary. -/
def Dev.loadSpacePiece (d : Dev) (c : CtxId) (loc : Option ArrId) (space a n : Nat) : List RByte × Dev :=
  match space with
  | 0 => d.loadPiece a n
  | 1 => d.loadSlot (a / padSize) (d.shareBase c + a % padSize) n
  | _ =>
    match loc with
    | some x => d.loadPad x (d.shareBase c + a % padSize) n
    | none => (List.replicate n (0, false), d)

def Dev.loadSpace (d : Dev) (who : Actor) (c : CtxId) (loc : Option ArrId) (space a n : Nat) : List RByte × Dev :=
  (linePieces a n).foldl (fun acc p =>
    let (bs, d) := acc.2.loadSpacePiece c loc space (p.1 % 2 ^ 52) p.2
    (acc.1 ++ bs, d)) ([], d.reportSpace who space (linePieces a n))

def Dev.storeSpacePiece (d : Dev) (c : CtxId) (loc : Option ArrId) (space a : Nat) (bs : List Byte)
    (half : Bool) : Dev :=
  match space with
  | 0 => d.storePiece a bs half
  | 1 => d.storeSlot (a / padSize) (d.shareBase c + a % padSize) bs half
  | _ =>
    match loc with
    | some x => d.storePad x (d.shareBase c + a % padSize) bs half
    | none => d

def Dev.storeSpace (d : Dev) (who : Actor) (c : CtxId) (loc : Option ArrId) (space a : Nat) (bs : List Byte)
    (half : Bool := false) : Dev :=
  let ps := linePieces a bs.length
  (ps.zipIdx.foldl (fun (acc : Dev × List Byte) p =>
    (acc.1.storeSpacePiece c loc space (p.1.1 % 2 ^ 52) (acc.2.take p.1.2)
      (half && decide (p.2 + 1 = ps.length)), acc.2.drop p.1.2)) (d.reportSpace who space ps, bs)).1

/-- Do bytes `a` to `a + n − 1` of SPACE 1 lie in the context's share and in slots in service (R139, R168)? Each byte is
read under R127, so a range may pass from one slot to the next. -/
def Dev.slotRangeOk (d : Dev) (c : CtxId) (a n : Nat) : Bool :=
  n = 0 || (decide ((a + n - 1) / padSize < d.flt.pool) && decide (a + n ≤ 2 ^ 33) &&
    (if a / padSize = (a + n - 1) / padSize then decide ((a + n - 1) % padSize < d.shareBytes c)
     else decide (d.shareBytes c = padSize)))

end Sys2Proof.Machine
end

