-- ==== Sys2Proof/Machine/Cmds.lean ====
section
/-!
DEFINITION. Machine/Cmds.lean: the life of a command (R155 to R164): how it is made, when its waits are met, what its end
does to its fence, its completion record and the program that issued it, and the completion of POSTs and launches.
-/
namespace Sys2Proof.Machine

/-- Make a command: it takes the next id. -/
def Dev.newCmd (d : Dev) (x : Cmd) : Nat × Dev :=
  (d.nextId, { d with cmds := d.cmds ++ [{ x with id := d.nextId }], nextId := d.nextId + 1 })

/-- Every wait of a command has reached its target (R163). -/
def Dev.waitsMet (d : Dev) (x : Cmd) : Bool := x.waits.all fun w => reaches (d.fence x.c w.f) w.t

/-- Some wait is met on a poisoned counter (R164). -/
def Dev.waitPoisoned (d : Dev) (x : Cmd) : Bool := x.waits.any fun w => d.fencePoisoned x.c w.f

/-- The status a command of Period `n` work reports: under *late*, OK becomes OK_LATE after tick n + 1 (R36). -/
def Dev.lateStatus (d : Dev) (c : CtxId) (n : Nat) (st : BitVec 8) : BitVec 8 :=
  if st = stOk ∧ d.ctx[c].g.skip = false ∧ n < d.per.number.toNat then stLate else st

/-- Lifetime counters of completions (Table 18-7). -/
def Dev.countStatus (d : Dev) (c : CtxId) (st : BitVec 8) : Dev :=
  if st = stSkipped then d.countCtx 14 c
  else if st = stArrays then d.countCtx 15 c
  else if st = stShard then d.count 20
  else d

/-- The programs of a context whose launches have not completed: those that have ended, then the one that runs. -/
def Cp.programs (p : Cp) : List Program := p.ended ++ (match p.prog with | some x => [x] | none => [])

def Cp.modProgram (p : Cp) (launch : Nat) (f : Program → Program) : Cp :=
  { p with
    ended := p.ended.map fun x => if x.launch = launch then f x else x
    prog := p.prog.map fun x => if x.launch = launch then f x else x }

/-- Add a command's status and flags to those gathered (R157). -/
def gather (a : BitVec 8 × BitVec 4) (x : BitVec 8 × BitVec 4) : BitVec 8 × BitVec 4 := foldStatus [a, x]

/-- End a queue entry (R163, R164, R367): its signal advances, then its completion record is formed. -/
def Dev.endEntry (d : Dev) (x : Cmd) (st : BitVec 8) (fl : BitVec 4) : Dev :=
  let st := d.lateStatus x.c x.period st
  let d := (d.countStatus x.c st).signal x.c x.sig st
  let d := { d with cmds := d.cmds.filter (·.id ≠ x.id) }
  d.complete x.c x.q
    { seq := 0, status := st, flags := fl, kind := 1, cmd := BitVec.ofNat 8 x.kind, entry := BitVec.ofNat 32 x.entryNo,
      arg0 := x.arg0, arg1 := x.arg1, period := x.period, fault := x.fault }

/-- Walk a program's issues from the front: ended commands are gathered, POSTs whose commands have completed write their
records (R158). Answers the program that is left and whether its END has been reached. -/
def Dev.walkOps (d : Dev) (x : Cmd) : Program → List LaunchOp → Dev × Program × Bool
  | p, .cmd id (some sf) :: ops =>
    let po := gather (p.postStatus, p.postFlags) sf
    let al := gather (p.allStatus, p.allFlags) sf
    let _ := id
    d.walkOps x { p with postStatus := po.1, postFlags := po.2, allStatus := al.1, allFlags := al.2, ops := ops } ops
  | p, .cmd id none :: ops => (d, { p with ops := .cmd id none :: ops }, false)
  | p, .post tag :: ops =>
    let d := d.complete x.c x.q
      { seq := 0, status := d.lateStatus x.c x.period p.postStatus, flags := p.postFlags, kind := 2,
        cmd := BitVec.ofNat 8 x.kind, entry := BitVec.ofNat 32 x.entryNo, arg0 := tag.setWidth 32, arg1 := 0,
        period := x.period, fault := 0 }
    d.walkOps x { p with postStatus := stOk, postFlags := 0, ops := ops } ops
  | p, .endp :: _ => (d, { p with ops := [] }, true)
  | p, [] => (d, { p with ops := [] }, false)

/-- A POST of the program waits for commands before it. -/
def Program.waitsToPost (p : Program) : Bool := p.ops.any fun o => match o with | .post _ => true | _ => false

/-- The program of a launch still runs on the processor. -/
def Cp.runs (p : Cp) (launch : Nat) : Bool :=
  match p.prog with
  | some r => r.launch == launch
  | none => false

/-- Take stock of the programs of a context: write the POSTs that are due and complete the launches whose programs have
ended and whose commands have all completed (R157, R158, R170). -/
def Dev.settleProgram (d : Dev) (c : CtxId) (p : Program) : Dev :=
  match (d.cmd? p.launch).or p.skippedLaunch with
  | none => d
  | some x =>
    let (d, p', ended) := d.walkOps x p p.ops
    let d := d.modCp c fun cp => cp.modProgram p.launch fun _ => p'
    if p'.skippedLaunch.isSome then
      if p'.waitsToPost then d else d.modCp c fun cp => { cp with ended := cp.ended.filter (·.launch ≠ p.launch) }
    else if d.ctx[c].cp.runs p.launch ∨ p'.skipped then d
    else
      match p'.faulted with
      | some (cls, off) =>
        if p'.ops = [] then
          let d := d.modCp c fun cp => { cp with ended := cp.ended.filter (·.launch ≠ p.launch) }
          d.endEntry { x with arg0 := p'.build, arg1 := off, fault := cls } stDepFailed p'.allFlags
        else d
      | none =>
        if ended then
          let d := d.modCp c fun cp => { cp with ended := cp.ended.filter (·.launch ≠ p.launch) }
          d.endEntry { x with arg0 := p'.build, arg1 := 0xFFFFFFFF } p'.allStatus p'.allFlags
        else d

def Dev.settle (d : Dev) (c : CtxId) : Dev := d.ctx[c].cp.programs.foldl (fun d p => d.settleProgram c p) d

/-- A command ends (R163, R164): a queue entry with its record, a program's command by what it adds to its launch
(R160). -/
def Dev.endCmd (d : Dev) (id : Nat) (st : BitVec 8) (fl : BitVec 4 := 0) : Dev :=
  match d.cmd? id with
  | none => d
  | some x =>
    match x.launch with
    | none => d.endEntry x st fl
    | some l =>
      let st := d.lateStatus x.c x.period st
      let d := (d.countStatus x.c st).signal x.c x.sig st
      let d := { d with cmds := d.cmds.filter (·.id ≠ id) }
      let d := d.modCp x.c fun cp => cp.modProgram l fun p =>
        { p with ops := p.ops.map fun o => match o with | .cmd i none => if i = id then .cmd i (some (st, fl)) else o
                                                        | _ => o }
      d.settle x.c

/-- A program fault (R170): the program stops. It is reported, and the launch completes, when the words before it are
durable and its commands have completed. -/
def Dev.programFault (d : Dev) (c : CtxId) (cls : BitVec 8) (off : Word) : Dev :=
  d.modCp c fun cp => { cp with
    st := .idle, twait := none, prog := cp.prog.map fun p => { p with faulted := some (cls, off) } }

/-- A program that has stopped and whose words are all durable leaves the processor: the next launch may start (R155). -/
def Dev.retireProgram (d : Dev) (c : CtxId) : Dev :=
  match d.ctx[c].cp.prog with
  | none => d
  | some p =>
    let q := match d.cmd? p.launch with | some x => x.q | none => 0
    let d := d.modCp c fun cp => { cp with prog := none, ended := cp.ended ++ [p], st := .idle, twait := none }
    let d := d.modQ c q fun y => if y.launch = some p.launch then { y with launch := none } else y
    d.settle c

/-- The report of a program fault: the registers, the event from the launching queue's source and the count (R170). -/
def Dev.reportFault (d : Dev) (c : CtxId) (q : QId) (cls : BitVec 8) (off : Word) : Dev :=
  ((d.modCp c fun cp => { cp with fault := cls, faultPc := off }).event (.queue c q) 0x0002 (off.setWidth 64)
    (cls.setWidth 32)).countCtx 8 c

/-- A faulted program retires when nothing of it waits in the escape buffer or in a checkpoint (R170). -/
def Dev.retireFaulted (d : Dev) (c : CtxId) : Dev :=
  let cp := d.ctx[c].cp
  match cp.prog with
  | some p =>
    match p.faulted with
    | some (cls, off) =>
      if cp.escape = [] ∧ cp.ckpt = none then
        let q := match d.cmd? p.launch with | some x => x.q | none => 0
        (d.reportFault c q cls off).retireProgram c
      else d
    | none => d
  | none => d

/-! ## The pair behind a logical processor (R408) -/

/-- The lowest-numbered spare pair. -/
def Dev.sparePair (d : Dev) : Option (Fin 18) := (List.finRange 18).find? fun k => d.flt.pair[k].st = .spare

/-- Pair `k` takes over context `c`; the pair it had goes to TEST and is tested (R408). -/
def Dev.backWith (d : Dev) (c : CtxId) (k : Fin 18) : Dev :=
  let old := d.ctx[c].cp.pair
  let d := match old with
    | some o => d.modPair o fun x => { x with st := .test, logical := none, testing := true }
    | none => d
  let d := d.modPair k fun x => { x with st := .active, logical := some c, testing := false, returning := false }
  let d := d.modCp c fun p => { p with pair := some k, failovers := satInc p.failovers }
  ((d.event .fault 0x0310 (BitVec.ofNat 64 (match old with | some o => o.val | none => 0xFF)) (BitVec.ofNat 32 k.val))).count 9

/-- A planned failover at a durable checkpoint discards nothing (Table 17-4, KIND 2). -/
def Dev.plannedSwap (d : Dev) (c : CtxId) : Dev :=
  if c ∈ d.flt.planned then
    let d := { d with flt := { d.flt with planned := d.flt.planned.filter (· ≠ c) } }
    match d.sparePair with
    | some k => d.backWith c k
    | none => d
  else d

/-- Program-issued commands of a context that have not completed, counting those in the escape buffer (R151). -/
def Cp.escaped (p : Cp) : List Effect := (match p.ckpt with | some (_, es) => es | none => []) ++ p.escape
def Effect.isCmd : Effect → Bool | .tensor _ => true | .cmd _ => true | _ => false
def Dev.outstanding (d : Dev) (c : CtxId) : Nat :=
  (d.cmds.filter fun x => x.c = c ∧ x.launch.isSome).length + (d.ctx[c].cp.escaped.filter Effect.isCmd).length

end Sys2Proof.Machine
end

