-- ==== Sys2Proof/Machine/LdtEntry.lean ====
section
/-!
DEFINITION. Machine/LdtEntry.lean: a loop descriptor entry as its fields (R126, Tables 06-1 to 06-4; R227, Table 10-6) and
the checks at its load (R135, Table 06-6; Table 10-7).
-/
namespace Sys2Proof.Machine

/-- Bits `[lo + w − 1 : lo]` of the part that starts at byte `b` of the entry. -/
def part (e : BitVec 2048) (b lo w : Nat) : Nat := (e.extractLsb' (8 * b + lo) w).toNat

/-- A tensor descriptor (Table 06-3); `base` is its 52-bit element address. -/
structure TDesc where
  space : Nat
  sensitive : Bool
  rsv : Nat
  base : Nat
  scale : Nat
  stride : Nat
  tscale : Word
  ps2 : Nat
  ps1 : Nat
  ps0 : Nat

def TDesc.of (e : BitVec 2048) (b : Nat) : TDesc :=
  { space := part e b 254 2, sensitive := part e b 253 1 = 1, rsv := part e b 250 3, base := part e b 204 46 * 64,
    scale := part e b 152 52, stride := part e b 128 24 * 16, tscale := BitVec.ofNat 32 (part e b 96 32),
    ps2 := part e b 64 32 * 64, ps1 := part e b 32 32 * 64, ps0 := part e b 0 32 * 64 }

/-- A region extension (Table 06-4); `ptm` and `ptn` are decoded sizes. -/
structure Ext where
  tid : Word
  rnd : Nat
  hasWide : Bool
  hasMap : Bool
  ptm : Nat
  ptn : Nat
  wide : Nat
  wideScale : Nat
  map : Nat
  rsv : Nat

def Ext.of (e : BitVec 2048) (b : Nat) : Ext :=
  { tid := BitVec.ofNat 32 (part e b 224 32), rnd := part e b 221 3, hasWide := part e b 220 1 = 1,
    hasMap := part e b 219 1 = 1, ptm := part e b 211 8 + 1, ptn := part e b 204 7 + 1,
    wide := part e b 158 46 * 64, wideScale := part e b 106 52, map := part e b 54 52, rsv := part e b 0 54 }

/-- The header (Table 06-2) with decoded sizes, and the parts of a matrix entry. -/
structure LdtE where
  type : Nat
  next : Nat
  wideVar : Nat
  layer : Nat
  fa : Nat
  fb : Nat
  fc : Nat
  fold : Bool
  mcEn : Bool
  mcB : Bool
  mcCh : Nat
  order : List Nat
  gm : Nat
  gn : Nat
  tm : Nat
  tn : Nat
  kch : Nat
  epi : Nat
  rsv : Nat
  bm : Nat
  bn : Nat
  bk : Nat
  b0 : Nat
  b1 : Nat
  b2 : Nat
  a : TDesc
  b : TDesc
  c : TDesc
  xc : Ext
  xa : Ext
  xb : Ext
  tail : Nat

def LdtE.of (e : BitVec 2048) : LdtE :=
  { type := part e 0 248 8, next := part e 0 240 8, wideVar := part e 0 232 8, layer := part e 0 224 8,
    fa := part e 0 220 4, fb := part e 0 216 4, fc := part e 0 212 4, fold := part e 0 211 1 = 1,
    mcEn := part e 0 210 1 = 1, mcB := part e 0 209 1 = 1, mcCh := part e 0 206 3,
    order := [part e 0 203 3, part e 0 200 3, part e 0 197 3, part e 0 194 3, part e 0 191 3, part e 0 188 3],
    gm := part e 0 183 5 + 1, gn := part e 0 178 5 + 1, tm := part e 0 170 8 + 1, tn := part e 0 163 7 + 1,
    kch := (part e 0 151 12 + 1) * 256, epi := part e 0 143 8, rsv := part e 0 120 23, bm := part e 0 96 24,
    bn := part e 0 72 24, bk := part e 0 48 24, b0 := part e 0 32 16, b1 := part e 0 16 16, b2 := part e 0 0 16,
    a := .of e 32, b := .of e 64, c := .of e 96, xc := .of e 128, xa := .of e 160, xb := .of e 192,
    tail := part e 224 0 256 }

/-- TYPE of a stored entry. -/
def ldtType (e : BitVec 2048) : Nat := part e 0 248 8

/-! ## Formats -/

/-- The pair rule (R58). -/
def pairOk (fa fb : Nat) : Bool :=
  match Fmt.ofCode fa, Fmt.ofCode fb with
  | some .fp32, _ | _, some .fp32 => false
  | some a, some b => a = b || (a = .e4m3 && b = .e5m2) || (a = .e5m2 && b = .e4m3)
  | _, _ => false

/-- Bytes of one block: 16 for 4-bit formats, 32 for 8-bit formats, 1 where there are no blocks (R130). -/
def blockBytes (f : Nat) : Nat :=
  match Fmt.ofCode f with
  | some x => if x.blocked then (if x.width = 4 then 16 else 32) else 1
  | none => 1

def fmtWidth (f : Nat) : Nat := match Fmt.ofCode f with | some x => x.width | none => 0
def fmtBlocked (f : Nat) : Bool := match Fmt.ofCode f with | some x => x.blocked | none => false

/-! ## Checks of a matrix entry (Table 06-6) -/

/-- Whether ORDER is a permutation of the codes 0 to 5. -/
def orderOk (o : List Nat) : Bool := (List.range 6).all o.contains

def strideOk (t : TDesc) (f inner : Nat) : Bool :=
  decide (t.stride % blockBytes f = 0) && decide (cdiv (inner * fmtWidth f) 8 ≤ t.stride)

/-- The number of the first failed check of a matrix entry, 0 when it is accepted. -/
def matrixCheck (x : LdtE) : Nat :=
  if x.rsv ≠ 0 ∨ x.a.rsv ≠ 0 ∨ x.b.rsv ≠ 0 ∨ x.c.rsv ≠ 0 ∨ x.xc.rsv ≠ 0 ∨ x.xa.rsv ≠ 0 ∨ x.xb.rsv ≠ 0 ∨ x.tail ≠ 0 ∨
      5 ≤ x.xc.rnd ∨ 5 ≤ x.xa.rnd ∨ 5 ≤ x.xb.rnd then 1
  else if !pairOk x.fa x.fb || decide (6 < x.fc) then 2
  else if !orderOk x.order then 3
  else if 32 < x.gm * x.gn then 4
  else if fmtBlocked x.fc && decide (x.tn % 32 ≠ 0) then 5
  else if x.fold && decide (x.b.ps0 ≠ 0) then 6
  else if x.a.space = 3 ∨ x.b.space = 3 ∨ x.c.space = 3 ∨ x.c.space = 2 then 7
  else if x.kch < x.bk ∧ x.fc ≠ 6 then 8
  else if !(strideOk x.a x.fa x.bk && strideOk x.b x.fb x.bk && strideOk x.c x.fc (cdiv x.bn 2)) then 9
  else if (x.xc.hasWide || x.xc.hasMap) && (x.fc = 5 || x.fc = 6) then 10
  else 0

/-! ## An attention entry (R227, Table 10-6) -/

structure AttnE where
  layer : Nat
  fq : Nat
  fk : Nat
  fo : Nat
  bm : Nat
  bn : Nat
  b0 : Nat
  q : TDesc
  o : TDesc
  k : TDesc
  vt : TDesc
  dim : Nat
  hq : Nat
  causal : Nat
  winEn : Bool
  grid : Bool
  rotEn : Bool
  rotHalf : Bool
  biasEn : Bool
  lseEn : Bool
  win : Nat
  dt : Nat
  dh : Nat
  dw : Nat
  kspan : Nat
  scale : Word
  biasAddr : Nat
  freqAddr : Nat
  lseAddr : Nat
  lseStride : Nat
  kscale : Word
  vscale : Word
  xo : Ext
  /-- Every reserved field together. -/
  rsv : Nat
  /-- Header fields that must be 0. -/
  hdrZero : Nat
  next : Nat
  wideVar : Nat

def AttnE.of (e : BitVec 2048) : AttnE :=
  { layer := part e 0 224 8, fq := part e 0 220 4, fk := part e 0 216 4, fo := part e 0 212 4, bm := part e 0 96 24,
    bn := part e 0 72 24, b0 := part e 0 32 16, q := .of e 32, o := .of e 64, k := .of e 96, vt := .of e 128,
    dim := 32 * (part e 160 253 3 + 1), hq := part e 160 246 7 + 1, causal := part e 160 244 2,
    winEn := part e 160 243 1 = 1, grid := part e 160 242 1 = 1, rotEn := part e 160 241 1 = 1,
    rotHalf := part e 160 240 1 = 1, biasEn := part e 160 239 1 = 1, lseEn := part e 160 238 1 = 1,
    win := part e 160 208 24, dt := part e 160 200 8, dh := part e 160 192 8, dw := part e 160 184 8,
    kspan := part e 160 168 16, scale := BitVec.ofNat 32 (part e 160 128 32), biasAddr := part e 192 204 52,
    freqAddr := part e 192 152 52, lseAddr := part e 192 100 52, lseStride := part e 192 76 24,
    kscale := BitVec.ofNat 32 (part e 192 44 32), vscale := BitVec.ofNat 32 (part e 192 12 32), xo := .of e 224,
    rsv := part e 0 120 23 + part e 160 232 6 + part e 160 160 8 + part e 160 0 128 + part e 192 0 12,
    hdrZero := part e 0 188 24 + part e 0 143 45 + part e 0 48 24 + part e 0 0 32,
    next := part e 0 240 8, wideVar := part e 0 232 8 }

/-- The number of the first failed check of an attention entry (checks 1 and 2 of Table 06-6, then Table 10-7). -/
def attnCheck (x : AttnE) : Nat :=
  let descs := [x.q, x.o, x.k, x.vt]
  if x.rsv ≠ 0 ∨ descs.any (fun t => t.rsv ≠ 0) ∨ x.xo.rsv ≠ 0 ∨ 5 ≤ x.xo.rnd then 1
  else if !pairOk x.fq x.fk || decide (6 < x.fo) then 2
  else if x.hdrZero ≠ 0 ∨ x.next ≠ 0xFF ∨ x.wideVar ≠ 0xFF then 11
  else if x.causal = 3 ∨ (x.rotEn ∧ x.dim / 2 < x.dt + x.dh + x.dw) then 12
  else if descs.any (fun t => t.space = 3) ∨ x.o.space = 2 then 13
  else if x.xo.hasWide ∨ x.xo.hasMap then 14
  else 0

/-- The checks at load: 0 where the entry is accepted (R135, R227). -/
def ldtCheck (e : BitVec 2048) : Nat :=
  match ldtType e with
  | 1 => matrixCheck (.of e)
  | 2 => attnCheck (.of e)
  | _ => 1

/-- The bytes stored for a loaded entry: one that fails a check has TYPE 0x00 (R135). -/
def ldtStore (e : BitVec 2048) : BitVec 2048 := if ldtCheck e = 0 then e else e &&& ~~~(BitVec.ofNat 2048 (0xFF * 2 ^ 248))

end Sys2Proof.Machine
end

