-- ==== Sys2Proof/Machine/Real.lean ====
section
/-!
DEFINITION. Machine/Real.lean: the real functions of Table 09-4, the sine and the cosine in fixed point, and the FP32 values
that lie within a stated error of them (R202, R204, R239). A fixed-point number is an integer in units of 2^-640, so that
the nearest distance of a function's value from a bound of its error stays visible for every FP32 input (DEDUCED).
-/
namespace Sys2Proof.Machine

def fixBits : Nat := 640
def fixOne : Int := 2 ^ fixBits

def fixMul (a b : Int) : Int := a * b / fixOne
def fixDiv (a b : Int) : Int := a * fixOne / b

/-- A finite exact value in fixed point. -/
def Num.fix : Num → Int
  | .fin s n d => signed s (n * 2 ^ fixBits / d)
  | _ => 0

/-- The fixed-point number as an exact value. -/
def fixNum (x : Int) : Num := .fin (decide (x < 0)) x.natAbs (2 ^ fixBits)

/-! ## Series -/

/-- s + t·r/n + t·r²/(n(n + 1)) + …, until a term vanishes. -/
def expSeries : Nat → Nat → Int → Int → Int → Int
  | 0, _, _, _, s => s
  | k + 1, n, r, t, s =>
    let t := fixMul t r / n
    if t = 0 then s else expSeries k (n + 1) r t (s + t)

/-- s + p/i + p·q/(i + 2) + …: with p = z and q = ±z², the inverse hyperbolic and the inverse tangent of z. -/
def atanSeries : Nat → Nat → Int → Int → Int → Int
  | 0, _, _, _, s => s
  | k + 1, i, q, p, s => if p = 0 then s else atanSeries k (i + 2) q (fixMul p q) (s + p / i)

def fixAtanh (z : Int) : Int := atanSeries 240 1 (fixMul z z) z 0

/-- s + t/(2n + 1) + …, each t the one before times −q/(n + 1): the sum of erf. -/
def erfSeries : Nat → Nat → Int → Int → Int → Int
  | 0, _, _, _, s => s
  | k + 1, n, q, t, s => if t = 0 then s else erfSeries k (n + 1) q (-(fixMul t q) / (n + 1)) (s + t / (2 * n + 1))

/-- s + t·q/(n(n + 1)) + …: with q = −r², sine from n = 2 and cosine from n = 1. -/
def trigSeries : Nat → Nat → Int → Int → Int → Int
  | 0, _, _, _, s => s
  | k + 1, n, q, t, s =>
    let t := fixMul t q / (n * (n + 1))
    if t = 0 then s else trigSeries k (n + 2) q t (s + t)

/-- Newton's steps downward to the integer square root. -/
def isqrtStep (n : Nat) : Nat → Nat → Nat
  | 0, r => r
  | k + 1, r => let r' := (r + n / r) / 2; if r' < r then isqrtStep n k r' else r
def isqrt (n : Nat) : Nat := if n = 0 then 0 else isqrtStep n (n.log2 + 2) (2 ^ (n.log2 / 2 + 1))

def fixSqrt (x : Int) : Int := isqrt (x.toNat * 2 ^ fixBits)

/-! ## Constants -/

def fixLn2 : Int := 2 * fixAtanh (fixOne / 3)

/-- arctan (1 / n) in units of 2^-bits. -/
def atanInv (bits n : Nat) : Nat → Nat → Int → Int → Int
  | 0, _, _, s => s
  | k + 1, i, p, s => atanInv bits n k (i + 2) (-p / (n * n)) (s + p / i)

/-- π in units of 2^-bits, by Machin's formula. -/
def piBits (bits : Nat) : Int :=
  16 * atanInv bits 5 (bits / 4) 1 (2 ^ bits / 5) 0 - 4 * atanInv bits 239 (bits / 15) 1 (2 ^ bits / 239) 0

def fixPi : Int := piBits (fixBits + 8) / 256

/-! ## Functions -/

/-- x × 2^k. -/
def fixShift (x k : Int) : Int := if 0 ≤ k then x * 2 ^ k.toNat else x / 2 ^ (-k).toNat

def fixExp (x : Int) : Int := fixShift (expSeries 240 1 (x % fixLn2) fixOne fixOne) (x / fixLn2)
def fixExp2 (x : Int) : Int := fixShift (expSeries 240 1 (fixMul (x % fixOne) fixLn2) fixOne fixOne) (x / fixOne)

/-- Place of the leading bit of a positive number. -/
def fixLog (x : Int) : Int := (x.toNat.log2 : Int) - fixBits

/-- The logarithm of a number from 1 up to 2. -/
def lnUnit (m : Int) : Int := 2 * fixAtanh (fixDiv (m - fixOne) (m + fixOne))

def fixLn (x : Int) : Int := fixLog x * fixLn2 + lnUnit (fixShift x (-fixLog x))
def fixLog2 (x : Int) : Int := fixLog x * fixOne + fixDiv (lnUnit (fixShift x (-fixLog x))) fixLn2

def fixSigmoid (x : Int) : Int := fixDiv fixOne (fixOne + fixExp (-x))

def fixTanh (x : Int) : Int :=
  let a : Int := x.natAbs
  let e := fixExp (-2 * a)
  let t := fixDiv (fixOne - e) (fixOne + e)
  if x < 0 then -t else t

def fixErf (x : Int) : Int := fixDiv (2 * erfSeries 480 0 (fixMul x x) x 0) (fixSqrt fixPi)

/-- √(2/π) (x + 0.044715 x³). -/
def geluInner (x : Int) : Int :=
  fixMul (fixSqrt (fixDiv (2 * fixOne) fixPi)) (x + fixMul x (fixMul x x) * 44715 / 1000000)

/-- Sine and cosine of an angle, reduced by quarter turns over its full range (R239). -/
def fixSinCos (x : Int) : Int × Int :=
  let b := fixBits + 160
  let q := piBits b / 2
  let y := x * 2 ^ 160
  let k := (y + q / 2) / q
  let r := (y - k * q) / 2 ^ 160
  let r2 := -(fixMul r r)
  let s := trigSeries 160 2 r2 r r
  let c := trigSeries 160 1 r2 fixOne fixOne
  match (k % 4).toNat with
  | 0 => (s, c)
  | 1 => (c, -s)
  | 2 => (-s, -c)
  | _ => (-c, s)

/-! ## FP32 values near a real number -/

/-- FP32 values in order as integers; both zeros are 0. -/
def ordOf (w : Word) : Int := signed (w.getLsbD 31) (w.toNat % 2 ^ 31)
def ofOrd (i : Int) : Word := BitVec.ofNat 32 (i.natAbs + if i < 0 then 2 ^ 31 else 0)

/-- The FP32 values within `err` ulp of a real number, as the least and the greatest; the ulp is that of FP32 at the number
(R202). Toward zero the bound is no farther than at the power of two below the number, as a function that never steps
backward has to keep it (DESIGN CHOICE, log entry 5). -/
def ulpWindow (f : Int) (err : Nat) : Int × Int :=
  let a := f.natAbs
  let e := max (a.log2 : Int) (fixBits - 126)
  let ulp : Int := 2 ^ (e - 23).toNat
  let outer := (a : Int) + err * ulp
  let near := (a : Int) - err * ulp
  let inner := if fixBits - 126 < e then max near (2 ^ e.toNat - err * (ulp / 2)) else near
  let down (v : Int) : Int := ffFp32.roundMag .rtz false v.toNat (2 ^ fixBits) 0
  let up (v : Int) : Int := ffFp32.roundMag .rup false v.toNat (2 ^ fixBits) 0
  let hi := min (down outer) 0x7F7FFFFF
  let lo := min (if 0 ≤ inner then up inner else -(down (-inner))) hi
  if f < 0 then (-hi, -lo) else (lo, hi)

end Sys2Proof.Machine
end

