-- ==== Sys2Proof/Machine/Special.lean ====
section
/-!
DEFINITION. Machine/Special.lean: the special functions of the row unit and of VSF (R202 to R204, Table 09-4 to Table
09-6), with their seams, stored constants, special inputs and the monotonic fix-up. Between two seams the polynomial may
give any FP32 value within the stated error; which one is open, but it never steps backward (log entry 5).
-/
namespace Sys2Proof.Machine

/-- Function codes (Table 09-4). -/
inductive Fn | exp2 | exp | log2 | recip | rsqrt | sigmoid | tanh | geluTanh | geluErf | silu | softplus | erf
deriving DecidableEq, Repr

def Fn.ofCode : Nat → Option Fn
  | 0 => some .exp2 | 1 => some .exp | 2 => some .log2 | 3 => some .recip | 4 => some .rsqrt | 5 => some .sigmoid
  | 6 => some .tanh | 7 => some .geluTanh | 8 => some .geluErf | 9 => some .silu | 10 => some .softplus
  | 11 => some .erf | _ => none

def Fn.code : Fn → Nat
  | .exp2 => 0 | .exp => 1 | .log2 => 2 | .recip => 3 | .rsqrt => 4 | .sigmoid => 5 | .tanh => 6 | .geluTanh => 7
  | .geluErf => 8 | .silu => 9 | .softplus => 10 | .erf => 11

/-- x_min of the functions that have one: the FP32 value nearest the true minimum (Table 09-6; DEDUCED: computed from the
definitions). -/
def xMinGeluTanh : Word := 0xBF40A150#32
def xMinGeluErf : Word := 0xBF407569#32
def xMinSilu : Word := 0xBFA3A4BA#32

/-! ## The functions as real functions (Table 09-4) -/

def Fn.real (f : Fn) (x : Int) : Int :=
  match f with
  | .exp2 => fixExp2 x
  | .exp => fixExp x
  | .log2 => fixLog2 x
  | .recip => fixDiv fixOne x
  | .rsqrt => fixDiv fixOne (fixSqrt x)
  | .sigmoid => fixSigmoid x
  | .tanh => fixTanh x
  | .geluTanh => fixMul x (fixOne + fixTanh (geluInner x)) / 2
  | .geluErf => fixMul x (fixOne + fixErf (fixDiv x (fixSqrt (2 * fixOne)))) / 2
  | .silu => fixMul x (fixSigmoid x)
  | .softplus => fixLn (fixOne + fixExp x)
  | .erf => fixErf x

/-- The FP32 error, ulp (Table 09-4, Table 09-10). -/
def Fn.err (f : Fn) (brix : Bool) : Nat :=
  if brix then 4
  else match f with
    | .exp2 => 1 | .exp => 2 | .log2 => 1 | .recip => 1 | .rsqrt => 1 | .sigmoid => 2 | .tanh => 2 | .geluTanh => 3
    | .geluErf => 3 | .silu => 3 | .softplus => 2 | .erf => 2

/-- The constant stored for a seam: the FP32 value of the function there, rounded under RNE (R204). -/
def Fn.const (f : Fn) (s : Num) : Word := toF32 (fixNum (f.real s.fix))

/-- The outer seams of the functions that have finitely many, ascending (Table 09-6). -/
def Fn.outer : Fn → List Num
  | .sigmoid => [-110, -16, -8, -4, -2, -1, 0, 1, 2, 4, 8, 16, 18].map (Num.ofInt · 0)
  | .tanh => [-20, -8, -4, -2, -1, 0, 1, 2, 4, 8, 20].map (Num.ofInt · (-1))
  | .geluTanh => [.ofInt (-10) 0, f32 xMinGeluTanh] ++ [0, 1, 2, 4, 10].map (Num.ofInt · 0)
  | .geluErf => [.ofInt (-10) 0, f32 xMinGeluErf] ++ [0, 1, 2, 4, 10].map (Num.ofInt · 0)
  | .silu => [-110, -16, -4].map (Num.ofInt · 0) ++ [f32 xMinSilu] ++ [0, 4, 16, 24].map (Num.ofInt · 0)
  | .softplus => [-110, -16, 0, 16, 24].map (Num.ofInt · 0)
  | .erf => [-8, -4, -2, -1, 0, 1, 2, 4, 8].map (Num.ofInt · (-1))
  | .exp2 => [] | .exp => [] | .log2 => [] | .recip => [] | .rsqrt => []

/-- What one segment gives the fix-up of R204: whether the input is the seam, and the constants at both ends. -/
structure Segment where
  atSeam : Bool
  fa : Word
  fb : Word
deriving DecidableEq, Repr

/-- a + (b − a) × j / n for finite values. -/
def lerp (a b : Num) (j n : Nat) : Num := a.add ((b.sub a).mul (.fin false j n))

/-- The segment of `x` between two outer seams divided into `n` segments (Table 09-6; half as many in Brix-compatible mode,
Table 09-10). -/
def Fn.segIn (f : Fn) (a b x : Num) (n : Nat) : Nat → Option Segment
  | 0 => none
  | j + 1 =>
    let lo := lerp a b j n
    if x.lt lo then f.segIn a b x n j
    else some { atSeam := x.eqv lo, fa := f.const lo, fb := f.const (lerp a b (j + 1) n) }

/-- The segment of `x` among the outer seams, none outside them. -/
def Fn.findSegment (f : Fn) (n : Nat) (x : Num) : List Num → Option Segment
  | a :: b :: rest =>
    if x.lt a then none else if x.lt b then f.segIn a b x n n else f.findSegment n x (b :: rest)
  | _ => none

/-- The fix-up of R204: a seam input gives its constant, and every result stays between the two seam values. -/
def fixUp (s : Segment) (y : Word) : Word :=
  if s.atSeam then s.fa
  else
    let up := (f32 s.fa).lt (f32 s.fb)
    let lo := if up then s.fa else s.fb
    let hi := if up then s.fb else s.fa
    if (f32 y).lt (f32 lo) then lo else if (f32 hi).lt (f32 y) then hi else y

/-- The greatest of the `k` values above `lo` that the argument `t` has reached, else `lo`; where the function falls, a
value is reached up to its argument. -/
def stepPick (fn : Nat) (brix falls : Bool) (t lo : Int) : Nat → Int
  | 0 => lo
  | k + 1 =>
    let v := lo + (k + 1 : Nat)
    let s := Config.step fn brix v
    if (if falls then decide (t ≤ s) else decide (s ≤ t)) then v else stepPick fn brix falls t lo k

/-- The polynomial of function `fn` at argument `t`, where the real function is `f` (R202, R204): within `err` ulp, and as
the argument grows it never steps backward. -/
def polyAt (fn err : Nat) (brix falls : Bool) (t f : Int) : Word :=
  let w := ulpWindow f err
  let y := stepPick fn brix falls t w.1 (w.2 - w.1).toNat
  if y = 0 && decide (f < 0) then 0x80000000#32 else ofOrd y

/-- 2^(k / n). -/
def exp2Const (k : Int) (n : Nat) : Word := toF32 (fixNum (fixExp2 (k * fixOne / n)))

/-- The segment of exp2 in which t lies; t is at the seam only where `exact` (t formed exactly and not a multiple of log2 e). -/
def exp2Segment (t : Int) (exact : Bool) (n : Nat) : Segment :=
  let k := t * n / fixOne
  { atSeam := exact && decide (t * n % fixOne = 0), fa := exp2Const k n, fb := exp2Const (k + 1) n }

/-- 2^t (Table 09-6). -/
def exp2Real (t : Int) (err : Nat) (brix exact : Bool) : Word :=
  if t < -150 * fixOne then 0
  else if 128 * fixOne ≤ t then f32Inf
  else fixUp (exp2Segment t exact (if brix then 8 else 16)) (polyAt 0 err brix false t (fixExp2 t))

def log2Segment (m d n : Nat) : Segment :=
  let e := log2q m d
  let m' := m * (pow2frac 1 (-e)).1
  let d' := d * (pow2frac 1 (-e)).2
  let j := (m' - d') * n / d'
  let at_ (j : Nat) : Word := Fn.log2.const ((Num.fin false (n + j) n).mul (.dyadic false 1 e))
  { atSeam := decide ((m' - d') * n % d' = 0), fa := at_ j, fb := at_ (j + 1) }

/-- The reciprocal's segment: equal segments between powers of two; on x < 0 a segment begins at its larger magnitude
(R204, Table 09-6). -/
def recipSegment (neg : Bool) (m d n : Nat) : Segment :=
  let e := log2q m d
  let m' := m * (pow2frac 1 (-e)).1
  let d' := d * (pow2frac 1 (-e)).2
  let p := (m' - d') * n
  let exact := decide (p % d' = 0)
  let lo : Nat := if neg && exact then p / d' - 1 else p / d'
  -- the magnitudes 2^e (n + j) / n of the two ends; at 2^e exactly on x < 0 the segment ends in the interval below
  let inv (j : Nat) : Word := toF32 (Num.fin neg n 1 |>.div (.dyadic false (n + j) e))
  if neg then
    if exact && decide (p = 0) then { atSeam := true, fa := inv 0, fb := inv 0 }
    else { atSeam := exact, fa := inv (lo + 1), fb := inv lo }
  else { atSeam := exact, fa := inv lo, fb := inv (lo + 1) }

/-- The reciprocal square root's segment: `n` equal segments between powers of four. -/
def rsqrtSegment (m d n : Nat) : Segment :=
  let e2 := log2q m d
  let e := e2 - e2 % 2
  let m' := m * (pow2frac 1 (-e)).1
  let d' := d * (pow2frac 1 (-e)).2
  let p := (m' - d') * n
  let j := p / (3 * d')
  let at_ (i : Nat) : Word := Fn.rsqrt.const ((Num.fin false (n + 3 * i) n).mul (.dyadic false 1 e))
  { atSeam := decide (p % (3 * d') = 0), fa := at_ j, fb := at_ (j + 1) }

/-- A function outside its outer seams (Table 09-6). -/
def Fn.outside (f : Fn) (x : Word) : Word :=
  let neg := (f32 x).isNeg
  match f with
  | .sigmoid => if neg then 0 else f32One
  | .tanh => if neg then 0xBF800000 else f32One
  | .erf => if neg then 0xBF800000 else f32One
  | .geluTanh => if neg then 0x80000000 else x
  | .geluErf => if neg then 0x80000000 else x
  | .silu => if neg then 0x80000000 else x
  | .softplus => if neg then 0 else x
  | .exp2 => x | .exp => x | .log2 => x | .recip => x | .rsqrt => x

/-- The results at infinities and zeros (Table 09-5). -/
def Fn.atInf (f : Fn) (neg : Bool) : Word :=
  match f with
  | .exp2 => if neg then 0 else f32Inf
  | .exp => if neg then 0 else f32Inf
  | .log2 => if neg then f32NaN else f32Inf
  | .recip => if neg then 0x80000000 else 0
  | .rsqrt => if neg then f32NaN else 0
  | .sigmoid => if neg then 0 else f32One
  | .tanh => if neg then 0xBF800000 else f32One
  | .erf => if neg then 0xBF800000 else f32One
  | .geluTanh => if neg then 0x80000000 else f32Inf
  | .geluErf => if neg then 0x80000000 else f32Inf
  | .silu => if neg then 0x80000000 else f32Inf
  | .softplus => if neg then 0 else f32Inf

def Fn.atZero (f : Fn) (neg : Bool) : Word :=
  let z : Word := if neg then 0x80000000 else 0
  match f with
  | .exp2 => f32One
  | .exp => f32One
  | .log2 => f32NegInf
  | .recip => if neg then f32NegInf else f32Inf
  | .rsqrt => if neg then f32NegInf else f32Inf
  | .sigmoid => 0x3F000000
  | .tanh => z
  | .erf => z
  | .geluTanh => z
  | .geluErf => z
  | .silu => z
  | .softplus => 0x3F317218

/-- The real function falls at `x` (Table 09-6, Direction). -/
def Fn.falls (f : Fn) (x : Num) : Bool :=
  match f with
  | .recip => true
  | .rsqrt => true
  | .geluTanh => x.lt (f32 xMinGeluTanh)
  | .geluErf => x.lt (f32 xMinGeluErf)
  | .silu => x.lt (f32 xMinSilu)
  | _ => false

/-- A nonzero finite input (R203, R204, Table 09-5's column x < 0). In Brix-compatible mode exp rounds x × log2 e to FP32
first (Table 09-10), and its 4 ulp are counted from there (DEDUCED, log entry 5). -/
def Fn.finiteArg (f : Fn) (brix : Bool) (x : Word) (neg : Bool) (m d : Nat) : Word :=
  let half (n : Nat) : Nat := if brix then n / 2 else n
  let v := f32 x
  let poly (_ : Unit) : Word := polyAt f.code (f.err brix) brix (f.falls v) v.fix (f.real v.fix)
  match f with
  | .exp2 => exp2Real v.fix (f.err brix) brix true
  | .exp =>
    let t := fixDiv v.fix fixLn2
    if brix then exp2Real (f32 (toF32 (fixNum t))).fix 4 true true else exp2Real t 2 false false
  | .log2 => if neg then f32NaN else fixUp (log2Segment m d (half 16)) (poly ())
  | .recip => fixUp (recipSegment neg m d (half 32)) (poly ())
  | .rsqrt => if neg then f32NaN else fixUp (rsqrtSegment m d (half 32)) (poly ())
  | _ =>
    match f.findSegment (half 8) v f.outer with
    | some s => fixUp s (poly ())
    | none => f.outside x

/-- A function of Table 09-4 at one FP32 input (R202 to R204). -/
def Fn.eval (f : Fn) (brix : Bool) (x : Word) : Word :=
  match f32 x with
  | .nan => f32NaN
  | .inf s => f.atInf s
  | .fin s m d => if m = 0 then f.atZero s else f.finiteArg brix x s m d

end Sys2Proof.Machine
end

