-- ==== Sys2Proof/Machine/RowUnit.lean ====
section
/-!
DEFINITION. Machine/RowUnit.lean: the epilogue entry of the row-unit parameter table and the stages the row unit
applies to one row (R197 to R214), as functions of what it reads. The tile's commit stores what they give.
-/
namespace Sys2Proof.Machine

/-- Word 0 of an entry of the row-unit parameter table (Tables 09-2 and 09-3). -/
structure Epi where
  brix : Bool
  gate : Bool
  bias : Nat
  vecBf16 : Bool
  norm : Nat
  fnEn : Bool
  fn : Nat
  statsOut : Nat
  glog2 : Nat
  gbEn : Bool
  uEn : Bool
  rsvCtl : Nat
  recs : Nat
  eps : Word
  biasAddr : DWord
  gammaAddr : DWord
  betaAddr : DWord
  uAddr : DWord
  statsInAddr : DWord
  statsOutAddr : DWord
  biasScalar : Word
  rsvEnd : Nat
deriving DecidableEq, Repr

def Epi.ofLine (l : Line) : Epi :=
  { brix := bits l 63 1 == 1, gate := bits l 62 1 == 1, bias := bits l 60 2, vecBf16 := bits l 59 1 == 1
    norm := bits l 56 3, fnEn := bits l 55 1 == 1, fn := bits l 51 4, statsOut := bits l 49 2, glog2 := bits l 46 3
    gbEn := bits l 45 1 == 1, uEn := bits l 44 1 == 1, rsvCtl := bits l 40 4, recs := bits l 32 8
    eps := BitVec.ofNat 32 (bits l 0 32), biasAddr := BitVec.ofNat 64 (bits l 64 64)
    gammaAddr := BitVec.ofNat 64 (bits l 128 64), betaAddr := BitVec.ofNat 64 (bits l 192 64)
    uAddr := BitVec.ofNat 64 (bits l 256 64), statsInAddr := BitVec.ofNat 64 (bits l 320 64)
    statsOutAddr := BitVec.ofNat 64 (bits l 384 64), biasScalar := BitVec.ofNat 32 (bits l 448 32)
    rsvEnd := bits l 480 32 }

/-- A conversion-only entry is all zero (R198). -/
def Epi.conversionOnly (l : Line) : Bool := l == 0

/-- Fields of an address field: SPACE and the address (Table 09-3). -/
def addrSpace (a : DWord) : Nat := bits a 52 2
def addrOf (a : DWord) : Nat := bits a 0 52
def addrRsv (a : DWord) : Nat := bits a 54 10

/-- The group width G (Table 09-2). -/
def Epi.g (e : Epi) : Nat := 2 ^ (e.glog2 + 3)

/-- The address fields an entry's selected stages use. -/
def Epi.usedAddrs (e : Epi) : List DWord :=
  (if e.bias = 1 then [e.biasAddr] else []) ++ (if e.gbEn then [e.gammaAddr, e.betaAddr] else [])
    ++ (if e.uEn then [e.uAddr] else []) ++ (if e.norm = 3 || e.norm = 4 then [e.statsInAddr] else [])
    ++ (if e.statsOut ≠ 0 then [e.statsOutAddr] else [])

/-- A field that no selected stage uses must be zero (R199). -/
def Epi.barred (e : Epi) : Bool :=
  let normOn := decide (e.norm ≠ 0)
  let vec := decide (e.bias = 1) || e.gbEn || e.uEn
  (e.bias ≠ 1 && e.biasAddr ≠ 0) || (e.bias ≠ 2 && e.biasScalar ≠ 0) || (!e.gbEn && (e.gammaAddr ≠ 0 || e.betaAddr ≠ 0))
    || (!e.uEn && e.uAddr ≠ 0) || (!(e.norm = 3 || e.norm = 4) && (e.statsInAddr ≠ 0 || e.recs ≠ 0))
    || (e.statsOut = 0 && e.statsOutAddr ≠ 0) || (!(e.norm = 1 || e.norm = 2) && e.statsOut = 0 && e.glog2 ≠ 0)
    || (!normOn && (e.gbEn || e.eps ≠ 0)) || (e.norm ≠ 3 && e.uEn) || (!vec && e.vecBf16) || (!e.fnEn && e.fn ≠ 0)

/-- The conditions of Table 09-8 that the entry, TN, the output's kind and the chunks decide; `rest` the words 1 to
15, `shareOk` the share check of R200. -/
def Epi.unusable (e : Epi) (rest : List Line) (tn : Nat) (blocked : Bool) (chunks : Nat) (shareOk : Bool) : Bool :=
  let st := decide (e.statsOut ≠ 0)
  let inRow := e.norm = 1 || e.norm = 2
  e.rsvCtl ≠ 0 || e.rsvEnd ≠ 0 || e.barred || rest.any (· ≠ 0) || e.usedAddrs.any (fun a => addrRsv a ≠ 0)
    || e.bias = 3 || e.norm ≥ 5 || e.statsOut = 3 || e.glog2 ≥ 5 || (e.fnEn && e.fn ≥ 12)
    || (f32 e.eps).isNan || (f32 e.eps).isInf || ((f32 e.eps).isNeg && !(f32 e.eps).isZero)
    || e.usedAddrs.any (fun a => addrSpace a = 3) || !shareOk
    || ((e.norm = 3 || e.norm = 4) && e.recs = 0) || ((inRow || st) && tn % e.g ≠ 0)
    || (e.gate && (tn % 2 = 1 || (blocked && tn % 64 ≠ 0) || chunks > 1 || st))
    || (e.brix && ((e.fnEn && (e.fn = 8 || e.fn = 10 || e.fn = 11)) || e.norm = 3 || e.norm = 4 || st))

/-! ## Mean and variance (R207) -/

/-- The running state of a lane, group or record (R207). -/
structure Wf where
  n : Nat := 0
  mu : Word := 0
  muG : Word := 0
  q : Word := 0
  qG : Word := 0
  bad : Bool := false
deriving DecidableEq, Repr

/-- s + e = a + b (R207); the error is dropped in Brix-compatible mode (Table 09-10). -/
def twoSum (brix : Bool) (a b : Word) : Word × Word :=
  let s := fadd32 a b
  let bb := fsub32 s a
  let e := fadd32 (fsub32 a (fsub32 s bb)) (fsub32 b bb)
  (s, if brix then 0 else e)

/-- x / n: correctly rounded, or by the FP32 reciprocal of n in Brix-compatible mode (Table 09-10). -/
def divN (brix : Bool) (x : Word) (n : Nat) : Word :=
  if brix then fmul32 x (fdiv32 f32One (natToF32 n)) else fdiv32 x (natToF32 n)

def notFinite (x : Word) : Bool := !(f32 x).isFin

def Wf.welfordAdd (brix : Bool) (st : Wf) (x : Word) : Wf :=
  let n := st.n + 1
  let d := fsub32 x st.mu
  let (mu, e1) := twoSum brix st.mu (divN brix d n)
  let muG := fadd32 st.muG e1
  let d2 := fsub32 x mu
  let t := if (f32 d).isNeg != (f32 d2).isNeg then 0 else fmul32 (fabs32 d) (fabs32 d2)
  let (q, e2) := twoSum brix st.q t
  { n := n, mu := mu, muG := muG, q := q, qG := fadd32 st.qG e2, bad := st.bad || notFinite x }

def Wf.squareAdd (brix : Bool) (st : Wf) (x : Word) : Wf :=
  let (q, e) := twoSum brix st.q (fmul32 x x)
  { st with n := st.n + 1, q := q, qG := fadd32 st.qG e, bad := st.bad || notFinite x }

/-- The Chan merge (R207). -/
def Wf.merge (brix : Bool) (a b : Wf) : Wf :=
  if b.n = 0 then a
  else if a.n = 0 then b
  else
    let n := a.n + b.n
    let w := divN brix (natToF32 b.n) n
    let d := fsub32 b.mu a.mu
    let (mu, e) := twoSum brix a.mu (fmul32 d w)
    let muG := fadd32 (fadd32 a.muG (fmul32 (fsub32 b.muG a.muG) w)) e
    let (q0, e1) := twoSum brix a.q b.q
    let (q, e2) := twoSum brix q0 (fmul32 (fmul32 (fabs32 d) (fabs32 d)) (fmul32 (natToF32 a.n) w))
    let qG := fadd32 (fadd32 (fadd32 a.qG b.qG) e1) e2
    { n := n, mu := mu, muG := if brix then 0 else muG, q := q, qG := if brix then 0 else qG, bad := a.bad || b.bad }

/-- Mean and variance (for RMS, the mean square) of a state (R207). -/
def Wf.finish (brix : Bool) (st : Wf) : Word × Word :=
  if st.n = 0 then (0, 0)
  else
    let v := divN brix (fadd32 st.q st.qG) st.n
    (fadd32 st.mu st.muG, if (f32 v).lt (.fin false 0 1) then 0 else v)

/-- One lane: its valid columns in ascending order. -/
def laneState (brix squares : Bool) (xs : List (Option Word)) : Wf :=
  xs.foldl (fun st x => match x with
    | none => st
    | some v => if squares then st.squareAdd brix v else st.welfordAdd brix v) {}

/-- One level of the fixed binary tree. -/
def mergePairs (brix : Bool) : List Wf → List Wf
  | a :: b :: rest => a.merge brix b :: mergePairs brix rest
  | xs => xs

/-- The tree of at most `k` levels. -/
def mergeTree (brix : Bool) : Nat → List Wf → Wf
  | 0, xs => xs.headD {}
  | k + 1, xs => mergeTree brix k (mergePairs brix xs)

/-- A list cut into runs of `w`, `k` of them at most. -/
def chunksOf {α : Type} (w : Nat) : Nat → List α → List (List α)
  | 0, _ => []
  | k + 1, xs => if xs.isEmpty then [] else xs.take w :: chunksOf w k (xs.drop w)

/-- The state of one group of G columns: lanes of 8 in a tree, or of 4 one after another in Brix-compatible mode
(R207, Table 09-10). -/
def groupState (brix squares : Bool) (xs : List (Option Word)) : Wf :=
  if brix then ((chunksOf 4 32 xs).map (laneState brix squares)).foldl (Wf.merge brix) {}
  else mergeTree brix 4 ((chunksOf 8 16 xs).map (laneState brix squares))

/-! ## The statistics record (Table 09-7) -/

def Wf.recordBytes (st : Wf) (squares : Bool) : List Byte :=
  leBytes st.n 4 ++ leBytes st.mu.toNat 4 ++ leBytes st.muG.toNat 4 ++ leBytes st.q.toNat 4 ++ leBytes st.qG.toNat 4
    ++ [BitVec.ofNat 8 ((if st.bad then 1 else 0) + (if squares then 2 else 0))] ++ List.replicate 11 0

/-- A record as read: its state; a record with N = 0 is passed over, and one whose SQUARES bit disagrees with the
NORM code counts as NONFINITE (R209, R211). -/
def Wf.ofRecord (bs : List Byte) (squares : Bool) : Wf :=
  let fld (o : Nat) : Word := BitVec.ofNat 32 (leNat ((bs.drop o).take 4))
  let fl := (bs.getD 20 0).toNat
  let n := (fld 0).toNat
  if n = 0 then {}
  else { n := n, mu := fld 4, muG := fld 8, q := fld 12, qG := fld 16
         bad := fl % 2 == 1 || ((fl / 2 % 2 == 1) != squares) }

/-! ## The stages (Table 09-1) -/

/-- A row in the row unit: the values of its columns, none where masked, and the flags it has collected. -/
structure RowVals where
  v : List (Option Word)
  sat : Bool := false
  nan : Bool := false
deriving DecidableEq, Repr

/-- FP32 subnormals flushed to zero with their sign, in Brix-compatible mode (Table 09-10). -/
def flushB (brix : Bool) (w : Word) : Word :=
  if brix && ffFp32.expo w.toNat == 0 then w &&& 0x80000000#32 else w

/-- One FP32 operation of a stage: its exact value rounded under RNE and flushed, with its overflow. -/
def stageOp (brix : Bool) (exact : Num) : Word × Bool := (flushB brix (toF32 exact), overflowed exact)

/-- A per-column stage. -/
def RowVals.mapCols (r : RowVals) (f : Nat → Word → Word × Bool) : RowVals :=
  let out := r.v.zipIdx.map (fun (x, i) => x.map (fun v => f i v))
  { v := out.map (fun x => x.map (·.1)), nan := r.nan
    sat := r.sat || out.any (fun x => match x with | some y => y.2 | none => false) }

/-- What the row unit reads for a tile: the per-column vectors over the tile's columns (R200). -/
structure RowVecs where
  bias : List Word := []
  gamma : List Word := []
  beta : List Word := []
  u : List Word := []
deriving DecidableEq, Repr

/-- Stage 3 (R201). -/
def stageBias (e : Epi) (vs : RowVecs) (r : RowVals) : RowVals :=
  if e.bias = 0 then r
  else r.mapCols (fun i v =>
    let b := if e.bias = 1 then vs.bias.getD i 0 else e.biasScalar
    stageOp e.brix ((f32 (flushB e.brix v)).add (f32 (flushB e.brix b))))

/-- Mean and r of a state under the entry's NORM; r = 0 when s is +0 (R208). -/
def normScale (e : Epi) (st : Wf) : Word × Word :=
  let (mean, var) := st.finish e.brix
  let s := fadd32 var (flushB e.brix e.eps)
  (mean, if s = 0 then 0 else Fn.rsqrt.eval e.brix s)

/-- Stage 4 for one column given its group's state (R208, R209); in Brix-compatible mode the stage's inputs and its result
are flushed, and nothing between them (Table 09-10). -/
def normCol (e : Epi) (vs : RowVecs) (st : Wf) (i : Nat) (v : Word) : Word × Bool :=
  if st.bad then (f32NaN, false)
  else
    let (mean, r) := normScale e st
    let gamma := if e.gbEn then vs.gamma.getD i 0 else f32One
    let beta := if e.gbEn then vs.beta.getD i 0 else 0
    let u := if e.uEn then vs.u.getD i 0 else f32One
    let fl := flushB e.brix
    let (t, o1) :=
      if e.norm = 1 then stageOp false ((f32 v).sub (f32 mean))
      else if e.norm = 3 then stageOp false (((f32 (fneg32 mean)).mul (f32 u)).add (f32 v))
      else (v, false)
    let (p, o2) := stageOp false ((f32 t).mul (f32 r))
    let (y, o3) := stageOp e.brix (((f32 p).mul (f32 (fl gamma))).add (f32 (fl beta)))
    (y, o1 || o2 || o3)

/-- Stage 4 (R208): in row by groups, or from the merged records. -/
def stageNorm (e : Epi) (vs : RowVecs) (recs : Wf) (r : RowVals) : RowVals :=
  if e.norm = 0 then r
  else
  let r := { r with v := r.v.map (Option.map (flushB e.brix)) }
  if e.norm ≤ 2 then
    let sts := (chunksOf e.g 128 r.v).map (groupState e.brix (e.norm = 2))
    r.mapCols (fun i v => normCol e vs (sts.getD (i / e.g) {}) i v)
  else r.mapCols (fun i v => normCol e vs recs i v)

/-- F(v) of the entry, with overflow: an infinite result of a finite nonzero input. -/
def applyFn (e : Epi) (v : Word) : Word × Bool :=
  match Fn.ofCode e.fn with
  | none => (f32NaN, false)
  | some f =>
    let x := flushB e.brix v
    let y := flushB e.brix (f.eval e.brix x)
    (y, (f32 y).isInf && (f32 x).isFin && !(f32 x).isZero)

/-- Stage 5: F on every column, or on the gate columns when GATE is 1 (R205). -/
def stageFn (e : Epi) (r : RowVals) : RowVals :=
  if !e.fnEn then r
  else r.mapCols (fun i v => if e.gate && i % 2 = 1 then (v, false) else applyFn e v)

/-- The pairs of product columns, a masked value column reading +0 (R205). -/
def gatePairs (e : Epi) : List (Option Word) → List (Option (Word × Bool))
  | some g :: v :: rest =>
    some (stageOp e.brix ((f32 (flushB e.brix g)).mul (f32 (flushB e.brix (v.getD 0))))) :: gatePairs e rest
  | none :: _ :: rest => none :: gatePairs e rest
  | _ => []

/-- Stage 6 (R205). -/
def stageGate (e : Epi) (r : RowVals) : RowVals :=
  if !e.gate then r
  else
    let out := gatePairs e r.v
    { v := out.map (fun x => x.map (·.1)), nan := r.nan
      sat := r.sat || out.any (fun x => match x with | some y => y.2 | none => false) }

/-- Stage 8: NaN and overflow collected for the completion. -/
def stageFlags (r : RowVals) : RowVals :=
  { r with nan := r.nan || r.v.any (fun x => match x with | some w => (f32 w).isNan | none => false) }

/-- Stage 2 (R142): the FP32 value committed by the previous K chunk is added. -/
def stageCarry (e : Epi) (prev : List Word) (r : RowVals) : RowVals :=
  r.mapCols (fun i v => stageOp e.brix ((f32 (flushB e.brix v)).add (f32 (flushB e.brix (prev.getD i 0)))))

/-- Stages 2 to 8 of one row: `chunk` of `chunks`, `prev` what the previous chunk committed (R197, R142). -/
def rowStages (e : Epi) (vs : RowVecs) (recs : Wf) (chunk chunks : Nat) (prev : List Word) (r : RowVals) : RowVals :=
  let r := if chunk = 0 then r else stageCarry e prev r
  let r := if chunk = 0 then stageBias e vs r else r
  let r := if chunk + 1 = chunks then stageGate e (stageFn e (stageNorm e vs recs r)) else r
  stageFlags r

end Sys2Proof.Machine
end

