-- ==== Sys2Proof/Machine/Tensor.lean ====
section
/-!
DEFINITION. Machine/Tensor.lean: from the issue of a tensor command to its tiles (R129 to R143): addresses of elements,
scales, wide regions and map bytes, the bucket walk, the variant, the extent check, and the expansion procedure.
-/
namespace Sys2Proof.Machine

/-! ## Addresses (R129 to R132) -/

/-- The byte offset of a problem's row from the element base. -/
def TDesc.rowOff (t : TDesc) (p0 p1 p2 row : Nat) : Nat := p0 * t.ps0 + p1 * t.ps1 + p2 * t.ps2 + row * t.stride

/-- The byte offset of element `i` of a row of a tensor of width `w` bits. -/
def TDesc.elemOff (t : TDesc) (w p0 p1 p2 row i : Nat) : Nat := t.rowOff p0 p1 p2 row + i * w / 8

def TDesc.elemAddr (t : TDesc) (w p0 p1 p2 row i : Nat) : Nat := (t.base + t.elemOff w p0 p1 p2 row i) % 2 ^ 52

/-- The address of the block scale of the block at element offset `e` (R130). -/
def TDesc.scaleAddr (t : TDesc) (f e : Nat) : Nat := (t.scale + e / blockBytes f) % 2 ^ 52

/-- In the wide region at width `w'` of a tensor planned at width `w` (R131): the element offset. -/
def TDesc.wideOff (t : TDesc) (w w' p0 p1 p2 row i : Nat) : Nat := t.rowOff p0 p1 p2 row * w' / w + i * w' / 8

/-- The width at which the producing command planned a block that its map byte puts into the wide region, which R131 takes
the strides from: only a 4-bit output widens to 8 bits, and only an 8-bit one to BF16 at step 1 (DEDUCED from Table 04-2). At
step 2 both do: then the reader's planned width, and 4 where that is neither (DESIGN CHOICE, log entry 95). -/
def planWidth (planned stored step : Nat) : Nat :=
  if fmtWidth stored ≤ 8 then 4
  else if step = 1 then 8
  else if planned = 8 then 8 else 4
def Ext.wideAddr (x : Ext) (e' : Nat) : Nat := (x.wide + e') % 2 ^ 52
def Ext.wideScaleAddr (x : Ext) (e' : Nat) : Nat := (x.wideScale + e' / 32) % 2 ^ 52

/-- The problem index of the tile format map (R132). -/
def problemIx (fold : Bool) (P0 P1 p0 p1 p2 : Nat) : Nat := if fold then p1 + P1 * p2 else p0 + P0 * (p1 + P1 * p2)

/-- The address of the map byte of tile (r, s) of problem q of an output of `rows` × `inner` cut at `tm` × `tn`. -/
def Ext.mapAddr (x : Ext) (q r s rows inner tm tn : Nat) : Nat :=
  (x.map + q * (cdiv rows tm * cdiv inner tn) + r * cdiv inner tn + s) % 2 ^ 52

/-! ## The extent check (R139) -/

/-- Byte ranges of every row of a tensor: offset of the row scaled by `mul`, and `len` bytes. -/
def rowSpans (t : TDesc) (base mul len P0 P1 P2 rows : Nat) : List (Nat × Nat) :=
  (List.range P2).flatMap fun p2 => (List.range P1).flatMap fun p1 => (List.range P0).flatMap fun p0 =>
    (List.range rows).map fun r => ((base + t.rowOff p0 p1 p2 r * mul) % 2 ^ 52, len)

/-- The block-scale bytes of every row. -/
def scaleSpans (t : TDesc) (base mul bb len P0 P1 P2 rows : Nat) : List (Nat × Nat) :=
  (List.range P2).flatMap fun p2 => (List.range P1).flatMap fun p1 => (List.range P0).flatMap fun p0 =>
    (List.range rows).map fun r =>
      let e := t.rowOff p0 p1 p2 r * mul
      ((base + e / bb) % 2 ^ 52, (e + len - 1) / bb - e / bb + 1)

/-- Does the byte range lie in what the context may reach in a space (R127, R139)? -/
def Dev.spanOk (d : Dev) (c : CtxId) (space a n : Nat) : Bool :=
  match space with
  | 0 => true
  | 1 => d.slotRangeOk c a n
  | _ => n = 0 || decide (a + n ≤ d.shareBytes c)

/-- A row's last byte is the highest of the tensor where no address wraps; the whole range is then in one piece. -/
def Dev.spansOk (d : Dev) (c : CtxId) (space lo hi : Nat) (rows : Unit → List (Nat × Nat)) : Bool :=
  if space = 0 then true
  else if hi < 2 ^ 52 && lo / padSize = hi / padSize then d.spanOk c space lo (hi + 1 - lo)
  else (rows ()).all fun r => d.spanOk c space r.1 r.2

/-- Every byte that a tensor can reach lies in the share: elements, scales, the wide region, and the map. An output reaches
its wide region at each wider width of the ladder; an operand at each width that a map byte can name (R84). -/
def Dev.tensorOk (d : Dev) (c : CtxId) (t : TDesc) (x : Ext) (operand : Bool) (f rows inner P0 P1 P2 mapBytes : Nat) : Bool :=
  let w := fmtWidth f
  let len := cdiv (inner * w) 8
  if rows = 0 ∨ inner = 0 ∨ P0 = 0 ∨ P1 = 0 ∨ P2 = 0 then true
  else
    let top := t.rowOff (P0 - 1) (P1 - 1) (P2 - 1) (rows - 1)
    let bb := blockBytes f
    let elems := d.spansOk c t.space t.base (t.base + top + len - 1) fun _ => rowSpans t t.base 1 len P0 P1 P2 rows
    let scales := !fmtBlocked f || d.spansOk c t.space t.scale (t.scale + (top + len - 1) / bb) fun _ =>
      scaleSpans t t.scale 1 bb len P0 P1 P2 rows
    let wideAt (w w' : Nat) (scaled : Bool) : Bool :=
      let len' := cdiv (inner * w') 8
      let mul := w' / w
      (d.spansOk c t.space x.wide (x.wide + top * mul + len' - 1) fun _ => rowSpans t x.wide mul len' P0 P1 P2 rows) &&
        (!scaled || d.spansOk c t.space x.wideScale (x.wideScale + (top * mul + len' - 1) / 32) fun _ =>
          scaleSpans t x.wideScale mul 32 len' P0 P1 P2 rows)
    let wide := !x.hasWide ||
      (if operand then !x.hasMap || (wideAt 4 8 true && wideAt (planWidth w 5 2) 16 false)
       else (w ≠ 4 || wideAt 4 8 true) && (w = 32 || w = 16 || wideAt w 16 false))
    let map := !x.hasMap || d.spanOk c t.space x.map mapBytes
    elems && scales && wide && map

/-- The output row length (R206): a gated command halves it. -/
def outLen (gate : Bool) (n : Nat) : Nat := if gate then cdiv n 2 else n

/-- Word `i` of an entry of the context's row-unit parameter table (R188). -/
def Dev.epiWord (d : Dev) (c : CtxId) (epi i : Nat) : Line := alGet 0 d.ctx[c].ldt.rup (16 * epi + i)
def Dev.epiOf (d : Dev) (c : CtxId) (epi : Nat) : Epi := .ofLine (d.epiWord c epi 0)

/-- The LDT entry at an index (R125). -/
def Dev.ldtEntry (d : Dev) (c : CtxId) (i : Nat) : BitVec 2048 := alGet 0 d.ctx[c].ldt.entries i

/-! ## The bucket walk and the variant (R137, R138) -/

structure Shape where
  m : Nat
  n : Nat
  k : Nat
  p0 : Nat
  p1 : Nat
  p2 : Nat

def LdtE.holds (x : LdtE) (s : Shape) : Bool :=
  decide (s.m ≤ x.bm ∧ s.n ≤ x.bn ∧ s.k ≤ x.bk ∧ s.p0 ≤ x.b0 ∧ s.p1 ≤ x.b1 ∧ s.p2 ≤ x.b2)

/-- Walk the chain from entry `i`: at most 16 entries (R137). -/
def Dev.walkChain (d : Dev) (c : CtxId) (s : Shape) : Nat → Nat → Option Nat
  | 0, _ => none
  | fuel + 1, i =>
    let x := LdtE.of (d.ldtEntry c i)
    if x.type ≠ 1 then none
    else if x.holds s then some i
    else if x.next = 0xFF then none
    else d.walkChain c s fuel x.next

/-- A wide variant is usable (R138). -/
def usableVariant (x y : LdtE) : Bool :=
  decide (y.type = 1 ∧ y.layer = x.layer ∧ y.order = x.order ∧ y.gm = x.gm ∧ y.gn = x.gn ∧ y.tm = x.tm ∧ y.tn = x.tn ∧
    y.kch = x.kch ∧ y.epi = x.epi ∧ y.bm = x.bm ∧ y.bn = x.bn ∧ y.bk = x.bk ∧ y.b0 = x.b0 ∧ y.b1 = x.b1 ∧
    y.b2 = x.b2) && y.fold == x.fold

/-- The variant of selected entry `i`, when it names a usable one. -/
def Dev.wideVariant (d : Dev) (c : CtxId) (i : Nat) : Option Nat :=
  let x := LdtE.of (d.ldtEntry c i)
  if x.wideVar ≠ 0xFF && usableVariant x (.of (d.ldtEntry c x.wideVar)) then some x.wideVar else none

/-- The layer is promoted in the value in force of Lexicon 0x2230 + c (R92). -/
def Dev.promoted (d : Dev) (c : CtxId) (layer : Nat) : Bool := (d.lexVal (0x2230 + c.val) 1).testBit layer


/-! ## Grid (R140) -/

/-- Rows of one problem: M, or M × P0 where P0 is folded. -/
def LdtE.rowsOf (x : LdtE) (s : Shape) : Nat := if x.fold then s.m * s.p0 else s.m
def LdtE.gridRows (x : LdtE) (s : Shape) : Nat := cdiv (x.rowsOf s) x.tm
def LdtE.gridCols (x : LdtE) (s : Shape) : Nat := cdiv s.n x.tn
def LdtE.chunks (x : LdtE) (s : Shape) : Nat := max 1 (cdiv s.k x.kch)
/-- Problems whose maps are separate. -/
def LdtE.problems (x : LdtE) (s : Shape) : Nat := if x.fold then s.p1 * s.p2 else s.p0 * s.p1 * s.p2

/-- The map bytes an operand has: its producing tiles over its rows and inner length. -/
def mapBytes (x : Ext) (problems rows inner : Nat) : Nat := problems * (cdiv rows x.ptm * cdiv inner x.ptn)

/-- Step 5 of Table 06-7 for the three tensors (R139). -/
def Dev.extentOk (d : Dev) (c : CtxId) (x : LdtE) (s : Shape) : Bool :=
  let nOut := outLen (d.epiOf c x.epi).gate s.n
  let pb := if x.fold then 1 else s.p0
  d.tensorOk c x.a x.xa true x.fa s.m s.k s.p0 s.p1 s.p2 (mapBytes x.xa (x.problems s) (x.rowsOf s) s.k) &&
    d.tensorOk c x.b x.xb true x.fb s.n s.k pb s.p1 s.p2 (mapBytes x.xb (pb * s.p1 * s.p2) s.n s.k) &&
    d.tensorOk c x.c x.xc false x.fc s.m nOut s.p0 s.p1 s.p2 (x.problems s * (x.gridRows s * x.gridCols s)) &&
    decide (cdiv (nOut * fmtWidth x.fc) 8 ≤ x.c.stride)

/-- The context holds multicast channel `ch` (R118). -/
def Dev.holdsMc (d : Dev) (c : CtxId) (ch : Nat) : Bool := d.ctx[c].heldMc.getLsbD ch
def Dev.holdsCmp (d : Dev) (c : CtxId) (i : Nat) : Bool := d.ctx[c].heldCmp.getLsbD i

/-! ## Issue (R136) -/

/-- The queue, entry number and Period of the launch that a context's program runs. -/
def Dev.launchOf (d : Dev) (c : CtxId) : Option Cmd :=
  match d.ctx[c].cp.prog with
  | some p => d.cmd? p.launch
  | none => none

/-- Make a command of the running program (R160). -/
def Dev.progCmd (d : Dev) (c : CtxId) (kind : Nat) (entry : Line) (waits : List Wait) (sig : Option (BitVec 8)) :
    Option (Nat × Dev) :=
  match d.launchOf c with
  | none => none
  | some l =>
    let (id, d) := d.newCmd
      { id := 0, c := c, q := l.q, entryNo := l.entryNo, launch := some l.id, kind := kind, entry := entry,
        period := l.period, waits := waits, sig := sig }
    some (id, d.modCp c fun cp => cp.modProgram l.id fun p => { p with ops := p.ops ++ [.cmd id none] })

/-- A command ends at issue with a status that it completes with when its waits are met (R136). -/
def Dev.endAtIssue (d : Dev) (id : Nat) (c : CtxId) (st : BitVec 8) : Dev :=
  let d := d.modCmd id fun y => { y with status := some st }
  d.modLdt c fun l =>
    if st = stExceeds then { l with exceeds := satInc l.exceeds }
    else if st = stEmpty then { l with empty := satInc l.empty } else l

/-- The running program's last tensor command, to which an OVERLAP collective binds (R296). -/
def Dev.noteTensor (d : Dev) (c : CtxId) (t : Tensor) : Dev :=
  match d.launchOf c with
  | some l => d.modCp c fun cp => cp.modProgram l.id fun p => { p with lastT := some t }
  | none => d

def Tensor.shape (t : Tensor) : Shape := ⟨t.m, t.n, t.k, t.p0, t.p1, t.p2⟩
def Tensor.x (t : Tensor) : LdtE := .of t.e

/-- The entry that a command uses while its layer is, or is not, promoted: its index and the entry (R92, R138). -/
def Tensor.variant (t : Tensor) (promoted : Bool) : BitVec 8 × BitVec 2048 :=
  match t.wide with
  | some w => if promoted then w else (t.sel, t.selE)
  | none => (t.sel, t.selE)

def Dev.variantOf (d : Dev) (c : CtxId) (t : Tensor) : BitVec 8 × BitVec 2048 :=
  t.variant (d.promoted c (LdtE.of t.selE).layer)

/-- Steps 4 and 5 of Table 06-7: the status with which the entry ends the command, if it does. -/
def Dev.entryStatus (d : Dev) (c : CtxId) (x : LdtE) (s : Shape) : Option (BitVec 8) :=
  if x.mcEn && !d.holdsMc c x.mcCh then some stHeld
  else if !d.extentOk c x s then some stExceeds
  else none

/-- Steps 2 to 6 of Table 06-7 for a command that has been issued. -/
def Dev.issueMatrix (d : Dev) (c : CtxId) (id first : Nat) (s : Shape) (seed : Word) : Dev :=
  let e0 := d.ldtEntry c first
  let tn : Tensor :=
    { cmd := id, e := e0, m := s.m, n := s.n, k := s.k, p0 := s.p0, p1 := s.p1, p2 := s.p2, seed := seed, selE := e0 }
  let d := d.noteTensor c tn
  if d.ctx[c].g.quota = 0 then d.endAtIssue id c stArrays
  else
    match d.walkChain c s 16 first with
    | none => d.endAtIssue id c stExceeds
    | some i =>
      let wide := (d.wideVariant c i).map fun v => (BitVec.ofNat 8 v, d.ldtEntry c v)
      let tn : Tensor := { tn with sel := BitVec.ofNat 8 i, selE := d.ldtEntry c i, wide := wide }
      let v := d.variantOf c tn
      let tn := { tn with e := v.2 }
      let d := d.noteTensor c tn
      match d.entryStatus c tn.x s with
      | some st => d.endAtIssue id c st
      | none =>
        let d := d.modLdt c fun l => { l with selected := v.1 }
        if s.m = 0 ∨ s.n = 0 ∨ s.p0 = 0 ∨ s.p1 = 0 ∨ s.p2 = 0 then d.endAtIssue id c stEmpty
        else { d with tensors := d.tensors ++ [tn] }

/-! ## Expansion (R141) -/

/-- The bounds of the six levels, by level code. -/
def Tensor.bound (t : Tensor) (code : Nat) : Nat :=
  let x := t.x
  let s := t.shape
  match code with
  | 0 => cdiv (x.gridRows s) x.gm
  | 1 => cdiv (x.gridCols s) x.gn
  | 2 => x.chunks s
  | 3 => if x.fold then 1 else s.p0
  | 4 => s.p1
  | _ => s.p2

/-- Candidates of the whole procedure. -/
def Tensor.candidates (t : Tensor) : Nat :=
  (t.x.order.foldl (fun a c => a * t.bound c) 1) * (t.x.gm * t.x.gn)

/-- The level values of block number `b`, as (code, value), innermost level first. -/
def levelVals (t : Tensor) : List Nat → Nat → List (Nat × Nat)
  | [], _ => []
  | c :: cs, b => (c, b % t.bound c) :: levelVals t cs (b / t.bound c)

def lvl (l : List (Nat × Nat)) (code : Nat) : Nat := alGet 0 l code

/-- Candidate `i` of the procedure of R141: the tile, when it lies in the grid. -/
def Tensor.candidate (t : Tensor) (i : Nat) : Option TilePos :=
  let x := t.x
  let g := x.gm * x.gn
  let v := levelVals t x.order.reverse (i / g)
  let r := lvl v 0 * x.gm + i % g / x.gn
  let s := lvl v 1 * x.gn + i % g % x.gn
  if r < x.gridRows t.shape ∧ s < x.gridCols t.shape then
    some { p0 := lvl v 3, p1 := lvl v 4, p2 := lvl v 5, r := r, s := s, ch := lvl v 2 }
  else none

/-- The next tile from candidate `i`, and the candidate after it. -/
def Tensor.nextTile (t : Tensor) : Nat → Nat → Option (TilePos × Nat)
  | 0, _ => none
  | fuel + 1, i =>
    if t.candidates ≤ i then none
    else
      match t.candidate i with
      | some p => some (p, i + 1)
      | none => t.nextTile fuel (i + 1)

/-- Tiles of the whole command. -/
def Tensor.total (t : Tensor) : Nat :=
  t.x.gridRows t.shape * t.x.gridCols t.shape * t.x.chunks t.shape * t.x.problems t.shape

/-- Rows, columns and elements of a tile (R140). -/
def Tensor.rows (t : Tensor) (p : TilePos) : Nat := min t.x.tm (t.x.rowsOf t.shape - p.r * t.x.tm)
def Tensor.cols (t : Tensor) (p : TilePos) : Nat := min t.x.tn (t.n - p.s * t.x.tn)
/-- The output columns of a tile's row: the first, and how many; a gated pair belongs to the tile of its gate column (R205,
R206). -/
def Tensor.outFirst (t : Tensor) (gate : Bool) (p : TilePos) : Nat := outLen gate (p.s * t.x.tn)
def Tensor.outCols (t : Tensor) (gate : Bool) (p : TilePos) : Nat :=
  outLen gate (p.s * t.x.tn + t.cols p) - t.outFirst gate p
def Tensor.kLen (t : Tensor) (p : TilePos) : Nat := min t.x.kch (t.k - p.ch * t.x.kch)

/-- The problem and row of a tile's row (R145). -/
def Tensor.rowAt (t : Tensor) (p : TilePos) (row : Nat) : Nat × Nat :=
  let r := p.r * t.x.tm + row
  if t.x.fold then (r / t.m, r % t.m) else (p.p0, r)

end Sys2Proof.Machine
end

