-- ==== Sys2Proof/Machine/Load.lean ====
section
/-!
DEFINITION. Machine/Load.lean: the ladder of formats (R78), issue timing (R102, R103) and the load path: operand blocks
read from the narrow buffer or the wide region under the tile format map, widened or narrowed to the issue format
(R80, R84, R116), and one B pass streamed through the cells with its check (R99, R110 to R112).
-/
namespace Sys2Proof.Machine

/-! ## The ladder (Table 04-2) -/

/-- The format of an operand or output planned as `f` at a step; format codes of Table 03-1. -/
def stepFmt (f step : Nat) : Nat :=
  if step = 0 ∨ 5 ≤ f then f
  else if f < 2 ∧ step = 1 then (if f = 0 then 2 else 4)
  else 5

/-- Slot factor of an operand pair (Table 05-2). -/
def slotFactor (f : Nat) : Nat := match fmtWidth f with | 4 => 1 | 8 => 4 | _ => 16

/-- Bytes of 256 elements with their block scales (Table 05-3). -/
def passRowBytes (f : Nat) : Nat := 32 * fmtWidth f + (if fmtBlocked f then 8 else 0)

/-- Pass time (R102) of `m` rows and `n` columns; `chA`, `chB`: the operand comes through a multicast channel. Operands in
LPDDR or in another slot's scratchpad are counted with the port bytes, though R127 counts another slot's bytes at its own
port: the nominal time must not depend on where a tile is placed (DESIGN CHOICE, log entry 94). -/
def passTime (fa fb m n : Nat) (chA chB : Bool) : Nat :=
  let a := m * passRowBytes fa
  let b := n * passRowBytes fb
  let port := (if chA then 0 else a) + (if chB then 0 else b)
  let chan := if chA then a else if chB then b else 0
  max (m * slotFactor fa) (max (cdiv port 256) (cdiv chan 256))

/-- Passes of a tile. -/
def passesOf (k : Nat) : Nat := cdiv k 256

/-- Nominal issue time of a matrix tile (R103); a retry or a repeat reads its operands directly (R120). -/
def LdtE.issueTime (x : LdtE) (rows cols k step : Nat) (direct : Bool) : Nat :=
  let mc := x.mcEn && !direct
  passesOf k * passTime (stepFmt x.fa step) (stepFmt x.fb step) rows cols (mc && !x.mcB) (mc && x.mcB)

/-! ## Blocks at the issue format -/

/-- A block as it enters the cells: its values in units of the operand's tensor scale, and what the load path reports
(Table 04-1, R80, R84). -/
structure OpBlock where
  vals : List Num := []
  trouble : Bool := false
  nan : Bool := false
  sat : Bool := false
  unrep : Bool := false
  folded : Bool := false
  flushes : Nat := 0
deriving DecidableEq, Repr

def OpBlock.append (a b : OpBlock) : OpBlock :=
  { vals := a.vals ++ b.vals, trouble := a.trouble || b.trouble, nan := a.nan || b.nan, sat := a.sat || b.sat,
    unrep := a.unrep || b.unrep, folded := a.folded || b.folded, flushes := a.flushes + b.flushes }

/-- v × 2^e. -/
def Num.scale (v : Num) (e : Int) : Num := v.mul (.dyadic false 1 e)

/-- The value is exactly representable in the format. -/
def Fmt.holds (f : Fmt) (v : Num) : Bool :=
  match v with
  | .fin s n d =>
    match f with
    | .int8 => n % d = 0 && decide (n / d ≤ if s then 128 else 127)
    | .int4 => n % d = 0 && decide (n / d ≤ if s then 8 else 7)
    | _ => (f.value (f.roundElem .rtz s n d 0)).eqv v
  | _ => true

/-- Conversion by R65 against the operand's tensor scale, in units of it, with RNE (R84). -/
def narrowBlock (f : Fmt) (sensitive : Bool) (vs : List Num) : OpBlock :=
  let b := blockConv f .rne (vs.map fun v => (v, 0))
  { vals := b.codes.map fun c => operandValue f c (blockExp b.scale)
    trouble := b.satBlock || (b.flushed && sensitive) || b.scaleOut, nan := b.nan, sat := b.sat
    flushes := if b.flushed && !sensitive then 1 else 0 }

/-- A block of elements `vs` under exponent `e` at a wider block-scaled format (R80 step 1), or at its own (R56). -/
def clampBlock (f : Fmt) (vs : List Num) (e : Int) (widening : Bool) : OpBlock :=
  if expInRange e then { vals := vs.map fun v => v.scale e }
  else
    let lim := clampExp e
    if widening && vs.all (fun v => f.holds (v.scale (e - lim))) then { vals := vs.map fun v => v.scale e }
    else { vals := vs.map fun v => v.scale lim, trouble := true }

/-- A block folded to BF16 (R80 step 2): exact within ±110, else converted with RNE and the tile is finished
unrepaired. -/
def foldBlock (vs : List Num) (e : Int) : OpBlock :=
  if -110 ≤ e ∧ e ≤ 110 then { vals := vs.map fun v => v.scale e }
  else
    let cs := vs.map fun v => toBf16 .rne 0 (v.scale e)
    { vals := cs.map fun c => numBf16 c.code, sat := cs.any (·.sat), folded := true }

/-- A stored block brought to the issue format (R84): `plain` marks a BF16 block of a wide region, which holds values. R84
names no treatment of a block of the same width in another format than the other FP8 one: it is converted as that one
(DESIGN CHOICE, log entry 91). -/
def toIssue (stored issue : Fmt) (sensitive plain : Bool) (s : Word) (vs : List Num) (e : Int) : OpBlock :=
  let units := if plain && tscaleOk s then vs.map fun v => v.div (f32 s) else vs
  if stored = issue then
    if issue.blocked then clampBlock issue vs e false else { vals := units }
  else if stored.width < issue.width ∧ (issue.blocked = false ∨ vs.all issue.holds) then
    if issue.blocked then clampBlock issue vs e true else foldBlock vs e
  else narrowBlock issue sensitive (units.map fun v => v.scale e)

/-! ## Reading a block -/

/-- The codes of `n` elements of width `w` bits in the bytes read for them, the first at the low end, and whether each
lies in a poisoned granule. -/
def elemCodes (w : Nat) (bs : List RByte) (n : Nat) : List (Nat × Bool) :=
  (List.range n).map fun i =>
    let b := bs.drop (i * w / 8)
    if w = 4 then
      match b with
      | x :: _ => (if i % 2 = 0 then x.1.toNat % 16 else x.1.toNat / 16, x.2)
      | [] => (0, false)
    else
      let c := b.take (w / 8)
      (leNat (bytesOf c), anyBad c)

/-- Where an operand's tile reads: its descriptor, its region extension, its planned format, and the shape of the map
(problem index, rows, inner length). -/
structure OpSrc where
  t : TDesc
  x : Ext
  fmt : Nat
  q : Nat
  rows : Nat
  inner : Nat

/-- What a map byte says (Table 04-4): UNREPAIRED, WIDE, STEP, FORMAT; a reader without a map reads its planned format. -/
structure MapInfo where
  unrep : Bool
  wide : Bool
  step : Nat
  fmt : Nat

def MapInfo.of (m : Byte) : MapInfo := ⟨nbit m.toNat 7, nbit m.toNat 6, m.toNat / 16 % 4, m.toNat % 16⟩

/-- The Kraip cannot have written it (R84). -/
def MapInfo.impossible (m : MapInfo) : Bool := decide (6 ≤ m.fmt ∨ m.step = 3)

/-- What the blocks of an operand's region are read as: none where its map byte is impossible or poisoned (R84). -/
def RawBlock.info (planned : Nat) (b : RawBlock) : Option MapInfo :=
  match b.map with
  | [] => some ⟨false, false, 0, planned⟩
  | m :: _ => if m.2 ∨ (MapInfo.of m.1).impossible then none else some (.of m.1)

/-- Read the bytes of `n` elements from `k0` of a row (`row` of the producing grid, `prow` of problem `p`): the map byte, the
elements and the block scale (R84, R116, R129 to R132). -/
def Dev.fetchBlock (d : Dev) (who : Actor) (c : CtxId) (loc : Option ArrId) (o : OpSrc)
    (p : Nat × Nat × Nat) (row prow k0 n : Nat) : RawBlock × Dev :=
  let (mb, d) :=
    if o.x.hasMap then
      d.loadSpace who c loc o.t.space (o.x.mapAddr o.q (row / o.x.ptm) (k0 / o.x.ptn) o.rows o.inner o.x.ptm o.x.ptn) 1
    else ([], d)
  match ({ map := mb } : RawBlock).info o.fmt with
  | none => ({ map := mb }, d)
  | some m =>
    let w := fmtWidth m.fmt
    let off := if m.wide then o.t.wideOff (planWidth (fmtWidth o.fmt) m.fmt m.step) w p.1 p.2.1 p.2.2 prow k0
      else o.t.elemOff w p.1 p.2.1 p.2.2 prow k0
    let ea := if m.wide then o.x.wideAddr off else (o.t.base + off) % 2 ^ 52
    let (bs, d) := d.loadSpace who c loc o.t.space ea (cdiv (n * w) 8)
    let (sc, d) := if fmtBlocked m.fmt then
        d.loadSpace who c loc o.t.space (if m.wide then o.x.wideScaleAddr off else o.t.scaleAddr m.fmt off) 1
      else ([], d)
    ({ map := mb, elems := bs, scale := sc }, d)

/-- The load path brings `n` elements of a block to the issue format (R84, Table 11-4). -/
def RawBlock.toOp (b : RawBlock) (o : OpSrc) (issue n : Nat) : OpBlock :=
  let unrep := match b.map with | m :: _ => !m.2 && (MapInfo.of m.1).unrep | [] => false
  let nans : OpBlock := { vals := List.replicate n .nan, nan := true, unrep := unrep }
  match b.info o.fmt with
  | none => nans
  | some m =>
    match Fmt.ofCode m.fmt, Fmt.ofCode issue with
    | some f, some g =>
      let e : Option Int := if f.blocked then (if anyBad b.scale then none else blockExp (leNat (bytesOf b.scale))) else some 0
      match e with
      | none => nans
      | some e =>
        let vs := (elemCodes f.width b.elems n).map fun x => if x.2 then Num.nan else f.value x.1
        let r := toIssue f g o.t.sensitive (m.wide && f == .bf16) o.t.tscale vs e
        { r with unrep := unrep, nan := r.nan || r.vals.any Num.isNan }
    | _, _ => nans

/-- The bytes of elements `k0` to `k0 + n − 1` of one row, block by block. -/
def Dev.fetchRow (d : Dev) (who : Actor) (c : CtxId) (loc : Option ArrId) (o : OpSrc)
    (p : Nat × Nat × Nat) (row prow k0 n : Nat) : List RawBlock × Dev :=
  (List.range (cdiv n 32)).foldl (fun acc i =>
    let (b, d) := acc.2.fetchBlock who c loc o p row prow (k0 + 32 * i) (min 32 (n - 32 * i))
    (acc.1 ++ [b], d)) ([], d)

/-- A row of `n` elements at the issue format. -/
def rowToOp (o : OpSrc) (issue n : Nat) (bs : List RawBlock) : OpBlock :=
  bs.zipIdx.foldl (fun acc b => acc.append (b.1.toOp o issue (min 32 (n - 32 * b.2)))) {}

/-! ## One pass through the cells -/

/-- Products of a row of A and a column of B entering an accumulator (R61, R63, R99). -/
def Acc.addRow (x : Acc) (as bs : List Num) : Acc := (as.zip bs).foldl (fun x p => x.addProduct (p.1.mul p.2)) x

/-- The finite part of an element: NaN and infinite elements contribute 0 to the check (R110, R111). -/
def Num.finPart (v : Num) : Num := if v.isFin then v else .fin false 0 1

/-- The check entry of element k over the valid columns (R110). -/
def checkEntry (cols : List (List Num)) (k : Nat) : Num :=
  cols.foldl (fun z b => z.add (b.getD k (.fin false 0 1)).finPart) (.fin false 0 1)

/-- floor (v × 2^120) of a finite value (R112). -/
def floor120 : Num → Int
  | .fin s n d => signed s (n * 2 ^ 120) / (d : Int)
  | _ => 0

/-- The check products of a row entering its check accumulator (R111, R112). -/
def checkAdd (z : Int) (as entries : List Num) : Int :=
  (as.zip entries).foldl (fun z p => z + floor120 (p.1.finPart.mul p.2)) z

/-- The comparison of R111 and, for BF16 × BF16, R112. -/
def rowPasses (bf16 : Bool) (k : Nat) (accs : List Acc) (chk : Int) : Bool :=
  let D := chk - accs.foldl (fun z x => z + x.a) 0
  if bf16 && accs.any (·.sticky) then decide (0 ≤ D ∧ D ≤ 127 * k) else decide (D = 0)

end Sys2Proof.Machine
end

