-- ==== Sys2Proof/Machine/Epilogue.lean ====
section
/-!
DEFINITION. Machine/Epilogue.lean: what the row unit does to one row of a matrix tile between its release and its place in
staging (R197 to R212): the epilogue entry as the tile reads it, the values that enter, the stages, and the output
conversion (R64 to R66, R134).
-/
namespace Sys2Proof.Machine

/-- The global row number ρ of a tile's row (R210). -/
def Tensor.rho (t : Tensor) (p : TilePos) (row : Nat) : Nat :=
  let (p0, m) := t.rowAt p row
  ((p.p2 * t.p1 + p.p1) * t.p0 + p0) * t.m + m

/-- The address in a field of the entry, `o` bytes on (R200). -/
def fieldAt (a : DWord) (o : Nat) : Nat := (addrOf a + o) % 2 ^ 52

/-- The byte ranges that a tile's row unit reads and writes: space, address, length; of a vector the TN entries of the tile's
columns, of the records out those of each row (R200, R210). -/
def Tensor.epiSpans (t : Tensor) (p : TilePos) (e : Epi) : List (Nat × Nat × Nat) :=
  let w := if e.vecBf16 then 2 else 4
  let n0 := p.s * t.x.tn
  let vec (a : DWord) : List (Nat × Nat × Nat) := [(addrSpace a, fieldAt a (w * n0), w * t.x.tn)]
  let first := decide (p.ch = 0)
  let last := decide (p.ch + 1 = t.x.chunks t.shape)
  let r0 := t.rho p 0
  let rows := t.rows p
  let ng := cdiv t.n e.g
  (if first && e.bias = 1 then vec e.biasAddr else []) ++
    (if last && e.norm ≠ 0 && e.gbEn then vec e.gammaAddr ++ vec e.betaAddr else []) ++
    (if last && e.norm = 3 && e.uEn then vec e.uAddr else []) ++
    (if last && (e.norm = 3 || e.norm = 4) then
      [(addrSpace e.statsInAddr, fieldAt e.statsInAddr (32 * r0 * e.recs), 32 * rows * e.recs)] else []) ++
    (if last && e.statsOut ≠ 0 then (List.range rows).map fun i =>
      let lo := n0 / e.g
      let hi := (n0 + t.cols p - 1) / e.g
      (addrSpace e.statsOutAddr, fieldAt e.statsOutAddr (32 * ((r0 + i) * ng + lo)), 32 * (hi + 1 - lo)) else [])

/-- Read a per-column vector; a poisoned value reads as NaN (Table 11-4). -/
def Dev.readVec (d : Dev) (who : Actor) (c : CtxId) (loc : Option ArrId) (a : DWord) (bf16 : Bool) (n0 n : Nat) :
    List Word × Dev :=
  let w := if bf16 then 2 else 4
  let (bs, d) := d.loadSpace who c loc (addrSpace a) (fieldAt a (w * n0)) (w * n)
  ((List.range n).map fun i =>
    let x := (bs.drop (w * i)).take w
    if anyBad x then f32NaN
    else BitVec.ofNat 32 (if bf16 then leNat (bytesOf x) * 65536 else leNat (bytesOf x)), d)

/-- The tile reads its epilogue entry and its vectors (R188, R200, R212). -/
def Dev.readEpi (d : Dev) (t : Tile) (tn : Tensor) (p : TilePos) : Dev :=
  let x := tn.x
  let ws := (List.range 16).map fun i => d.epiWord t.c x.epi i
  let w0 := ws.headD 0
  let e := Epi.ofLine w0
  let shareOk := (tn.epiSpans p e).all fun s => d.spanOk t.c s.1 s.2.1 s.2.2
  let bad := e.unusable (ws.drop 1) x.tn (fmtBlocked (stepFmt x.fc t.step)) (x.chunks tn.shape) shareOk
  if bad then
    let d := d.modTile t.uid fun y => { y with epiRead := true, epi := w0, epiRest := ws.drop 1, epiBad := true, vecs := [] }
    if tn.epiEvent then d
    else
      let d := d.modTensor tn.cmd fun y => { y with epiEvent := true }
      match d.cmd? t.cmd with
      | some y => (d.event (.queue y.c y.q) 0x0007 0 (BitVec.ofNat 32 x.epi)).countCtx 9 t.c
      | none => d
  else
    let first := decide (p.ch = 0)
    let last := decide (p.ch + 1 = x.chunks tn.shape)
    let get (d : Dev) (use : Bool) (a : DWord) : List Word × Dev :=
      if use then d.readVec (.cmd t.cmd) t.c t.arr a e.vecBf16 (p.s * x.tn) x.tn else ([], d)
    let (b, d) := get d (first && e.bias = 1) e.biasAddr
    let (g, d) := get d (last && e.norm ≠ 0 && e.gbEn) e.gammaAddr
    let (be, d) := get d (last && e.norm ≠ 0 && e.gbEn) e.betaAddr
    let (u, d) := get d (last && e.norm = 3 && e.uEn) e.uAddr
    d.modTile t.uid fun y => { y with
      epiRead := true, epi := w0, epiRest := ws.drop 1, epiBad := false, vecs := [b, g, be, u] }

/-- The entry stands in the table as the tile has read it. -/
def Dev.epiSame (d : Dev) (t : Tile) (tn : Tensor) : Bool :=
  t.epiRead && decide (t.epi :: t.epiRest = (List.range 16).map fun i => d.epiWord t.c tn.x.epi i)

/-- The tile's entry as its first output row finds it: the vectors read during the first pass stand while the entry does; an
entry that was written in between is read whole, with its vectors (R188, R200). -/
def Dev.needEpi (d : Dev) (t : Tile) (tn : Tensor) (p : TilePos) : Dev := if d.epiSame t tn then d else d.readEpi t tn p

/-- The records of row ρ merged in ascending order (R211); a poisoned record counts as NONFINITE (Table 11-4, R209). -/
def Dev.readRecords (d : Dev) (who : Actor) (c : CtxId) (loc : Option ArrId) (e : Epi) (rho : Nat) : Wf × Dev :=
  (List.range e.recs).foldl (fun acc i =>
    let (bs, d) := acc.2.loadSpace who c loc (addrSpace e.statsInAddr) (fieldAt e.statsInAddr (32 * (rho * e.recs + i))) 32
    let r := Wf.ofRecord (bytesOf bs) (e.norm = 4)
    let r := if anyBad bs then { r with n := max 1 r.n, bad := true } else r
    (acc.1.merge e.brix r, d)) ({}, d)

/-- The FP32 values that the previous K chunk committed; a Rephrase repeat has them from the attempt whose output now stands
in their place (R142). -/
def Dev.readPrev (d : Dev) (t : Tile) (tn : Tensor) (p : TilePos) (row : Nat) : List Word × Dev :=
  match t.prev.find? (·.1 = row) with
  | some x => (x.2, d)
  | none =>
    let (p0, m) := tn.rowAt p row
    let (bs, d) := d.loadSpace (.cmd t.cmd) t.c t.arr tn.x.c.space
      (tn.x.c.elemAddr 32 p0 p.p1 p.p2 m (p.s * tn.x.tn)) (4 * t.cols)
    let v := (elemCodes 32 bs t.cols).map fun x => if x.2 then f32NaN else BitVec.ofNat 32 x.1
    (v, d.modTile t.uid fun y => { y with prev := y.prev ++ [(row, v)] })

/-! ## Stage 9 (R64 to R66, R71, R134) -/

/-- A value of an output row: the value, whether it comes from accumulators in state ±Inf, and its generator word. -/
abbrev OutVal := Num × Bool × Nat

/-- The output conversion of a row: codes, scales, flags and troubles. -/
def convertRow (f : Fmt) (m : RMode) (s : Word) (sensitive : Bool) (vs : List OutVal) (r : StagedRow) : StagedRow :=
  if f.blocked then
    (chunksOf 32 (cdiv vs.length 32) vs).foldl (fun (r : StagedRow) blk =>
      let q : List (Num × Nat) := blk.map fun v => (if tscaleOk s then v.1.div (f32 s) else .nan, v.2.2)
      let b := blockConv f m q
      let flush := b.flushed && sensitive
      { r with
        codes := r.codes ++ b.codes, scales := r.scales ++ [b.scale], sat := r.sat || b.sat, nan := r.nan || b.nan
        trouble := r.trouble || b.satBlock || flush || b.scaleOut
        other := r.other || flush || b.scaleOut || (b.satBlock && blk.any fun v => v.1.isInf && !v.2.1)
        flushes := r.flushes + (if b.flushed && !sensitive then 1 else 0) }) r
  else
    let ff := if f = .bf16 then ffBf16 else ffFp32
    vs.foldl (fun (r : StagedRow) v =>
      let c := ff.conv m v.2.2 v.1
      { r with codes := r.codes ++ [c.code], sat := r.sat || c.sat, nan := r.nan || c.nan }) r

/-- The stored values of a converted row as FP32 (R210). -/
def storedRow (f : Fmt) (s : Word) (r : StagedRow) : List Word :=
  r.codes.zipIdx.map fun (c, i) =>
    if f.blocked then
      toF32 ((operandValue f c (blockExp (r.scales.getD (i / 32) 0xFF))).mul (if tscaleOk s then f32 s else .nan))
    else toF32 (f.value c)

/-- The row's records (R210). -/
def rowRecords (e : Epi) (vals : List Word) : List (List Byte) :=
  (chunksOf e.g 16 vals).map fun g =>
    (groupState e.brix (e.statsOut = 2) (g.map some)).recordBytes (e.statsOut = 2)

/-- The values that a row's accumulators stand for (R57, R62, R64). -/
def accValues (x : LdtE) (accs : List Acc) : List Num :=
  let ok := tscaleOk x.a.tscale && tscaleOk x.b.tscale
  accs.map fun a => if ok then a.value x.a.tscale x.b.tscale else .nan

def accInf (a : Acc) : Bool := a.special = .posInf || a.special = .negInf

/-- The row unit finishes row `r` of a tile: stages 1 to 9 (Table 09-1, R142, R212). -/
def Dev.finishRow (d : Dev) (t : Tile) (tn : Tensor) (p : TilePos) (r : StagedRow) : StagedRow × Dev :=
  let x := tn.x
  let e := Epi.ofLine t.epi
  let chunks := x.chunks tn.shape
  let last := decide (p.ch + 1 = chunks)
  let rho := tn.rho p r.row
  let nOut := outLen e.gate tn.n
  let oc0 := tn.outFirst e.gate p
  let m := (RMode.ofCode x.xc.rnd).getD .rne
  let word (i : Nat) : Nat := if m = .sr then (srWord tn.seed x.xc.tid (rho * nOut + oc0 + i)).toNat else 0
  match Fmt.ofCode (stepFmt x.fc t.step) with
  | none => (r, d)
  | some f =>
    let put (vs : List (Num × Bool)) (r : StagedRow) : StagedRow :=
      convertRow f m x.c.tscale x.c.sensitive (vs.zipIdx.map fun (v, i) => (v.1, v.2, word i)) r
    let nums := accValues x r.accs
    let r := { r with staged := true }
    if t.epiBad then (put (List.replicate (tn.outCols e.gate p) (Num.nan, false)) r, d)
    else if t.epi = 0 ∧ chunks = 1 then (put (nums.zip (r.accs.map accInf)) r, d)
    else
      let (prev, d) := if p.ch = 0 then ([], d) else d.readPrev t tn p r.row
      let (recs, d) := if last && (e.norm = 3 || e.norm = 4) then d.readRecords (.cmd t.cmd) t.c t.arr e rho
        else ({}, d)
      let v := (nums.map fun v => some (flushB e.brix (toF32 v))) ++ (if e.gate && t.cols % 2 = 1 then [none] else [])
      let vs : RowVecs := { bias := t.vecs.getD 0 [], gamma := t.vecs.getD 1 [], beta := t.vecs.getD 2 [],
                            u := t.vecs.getD 3 [] }
      let y := rowStages e vs recs p.ch chunks prev { v := v, sat := nums.any overflowed, nan := false }
      let infs := r.accs.map accInf
      let infs := if e.gate then (List.range y.v.length).map fun j => infs.getD (2 * j) false || infs.getD (2 * j + 1) false
        else infs
      let r := put ((y.v.map fun w => f32 (w.getD 0)).zip infs) { r with sat := y.sat, nan := y.nan }
      (if last && e.statsOut ≠ 0 then { r with recs := rowRecords e (storedRow f x.c.tscale r) } else r, d)

/-! ## Writing the tile (R106, R117, R210) -/

/-- The bytes of a row of element codes, and whether the last byte keeps its high nibble (R117). -/
def packCodes (w : Nat) : List Nat → List Byte
  | [] => []
  | [a] => if w = 4 then [BitVec.ofNat 8 a] else leBytes a (w / 8)
  | a :: b :: l =>
    if w = 4 then BitVec.ofNat 8 (a % 16 + 16 * b) :: packCodes w l
    else leBytes a (w / 8) ++ leBytes b (w / 8) ++ packCodes w l

/-- Write one staged row: elements, block scales, records. -/
def Dev.writeRow (d : Dev) (t : Tile) (tn : Tensor) (p : TilePos) (r : StagedRow) : Dev :=
  let x := tn.x
  let e := Epi.ofLine t.epi
  let f := stepFmt x.fc t.step
  let w := fmtWidth f
  let w0 := fmtWidth x.fc
  let (p0, m) := tn.rowAt p r.row
  let oc0 := tn.outFirst e.gate p
  let who : Actor := .cmd t.cmd
  let wide : Bool := decide (f ≠ x.fc)
  let off (i : Nat) : Nat := if wide then x.c.wideOff w0 w p0 p.p1 p.p2 m i else x.c.elemOff w p0 p.p1 p.p2 m i
  let ea := if wide then x.xc.wideAddr (off oc0) else (x.c.base + off oc0) % 2 ^ 52
  let d := d.storeSpace who t.c t.arr x.c.space ea (packCodes w r.codes) (w = 4 && r.codes.length % 2 = 1)
  let d := r.scales.zipIdx.foldl (fun d (s, b) =>
    let o := off (oc0 + 32 * b)
    d.storeSpace who t.c t.arr x.c.space (if wide then x.xc.wideScaleAddr o else x.c.scaleAddr f o)
      [BitVec.ofNat 8 s]) d
  let g0 := tn.rho p r.row * cdiv tn.n e.g + p.s * x.tn / e.g
  r.recs.zipIdx.foldl (fun d (bs, j) =>
    d.storeSpace who t.c t.arr (addrSpace e.statsOutAddr) (fieldAt e.statsOutAddr (32 * (g0 + j))) bs) d

/-- The map byte of a tile (R83, Table 04-4). -/
def mapByte (unrep wide : Bool) (step fmt : Nat) : Byte :=
  BitVec.ofNat 8 ((if unrep then 128 else 0) + (if wide then 64 else 0) + 16 * step + fmt)

/-- A committing tile writes its map byte, where the output has a map (R83, R132). -/
def Dev.writeMap (d : Dev) (t : Tile) (tn : Tensor) (p : TilePos) (unrep : Bool) : Dev :=
  let x := tn.x
  if x.xc.hasMap then
    let f := stepFmt x.fc t.step
    let a := x.xc.mapAddr (problemIx x.fold tn.p0 tn.p1 p.p0 p.p1 p.p2) p.r p.s (x.rowsOf tn.shape) tn.n x.tm x.tn
    d.storeSpace (.cmd t.cmd) t.c t.arr x.c.space a [mapByte unrep (f ≠ x.fc) t.step f]
  else d

end Sys2Proof.Machine
end

