-- ==== Sys2Proof/Machine/Image.lean ====
section
/-!
DEFINITION. Machine/Image.lean: CRC-32 (Table 12-2) and the bytes of a lifetime image (R425, R426, Table 18-6).
-/
namespace Sys2Proof.Machine

/-- One byte through the CRC-32 register, low bit first (assumption log 22). -/
def crcStep (c : Word) (b : Byte) : Word :=
  (List.range 8).foldl (fun c _ => if c.getLsbD 0 then (c >>> 1) ^^^ 0xEDB88320#32 else c >>> 1) (c ^^^ b.setWidth 32)

/-- CRC-32, polynomial 0x04C1_1DB7, initial value all ones, result inverted. -/
def crc32 (bs : List Byte) : Word := ~~~(bs.foldl crcStep 0xFFFFFFFF#32)

/-- Bytes 0 to 59 of an image. -/
def Image.head (m : Image) : List Byte :=
  leBytes 0x4546494C 4 ++ leBytes 1 2 ++ [m.reason, m.replace] ++ leBytes m.seq 8 ++ leBytes m.powerups 4 ++
    leBytes m.halts 4 ++ leBytes m.powered 8 ++ leBytes m.periods 8 ++ leBytes m.revision 4 ++ List.replicate 16 0

/-- The value of a table in canonical form. -/
def tblAt (l : List (Nat × Nat)) (k : Nat) : Nat := ((l.find? (·.1 = k)).map (·.2)).getD 0

/-- Bytes 64 to 17,215 of an image. -/
def Image.body (m : Image) : List Byte :=
  (List.range 1920).flatMap (fun i => leBytes (tblAt m.counters i) 8) ++
    (List.range 384).flatMap (fun i => leBytes (tblAt m.hist i) 4) ++
    (List.range 8).flatMap (fun i => leBytes (tblAt m.notes i) 32)

/-- The bytes of an image. -/
def Image.bytes (m : Image) : List Byte := m.head ++ leBytes (crc32 (m.head ++ m.body)).toNat 4 ++ m.body

end Sys2Proof.Machine
end

