-- ==== Sys2Proof/Machine/Attn.lean ====
section
/-!
DEFINITION. Machine/Attn.lean: the objects of attention in memory (R215 to R221), the issue of an attention command
(R229 to R232) with its snapshots and per-sequence checks, masks and positions (R238, R241).
-/
namespace Sys2Proof.Machine

/-! ## Reading objects whose poison the spec does not rule on -/

/-- Bytes read from device memory; a poisoned byte of an object for which Table 11-4 names no treatment is a free value
(assumption log 21). -/
def Dev.readOpen (d : Dev) (who : Actor) (a n : Nat) : List Byte × Dev :=
  let (bs, d) := d.loadAddr who a n
  bs.foldl (fun (acc : List Byte × Dev) b =>
    if b.2 then let (v, d) := acc.2.draw 8; (acc.1 ++ [v], d) else (acc.1 ++ [b.1], acc.2)) ([], d)

/-- The number in bytes `i` to `i + n − 1`. -/
def natAt (bs : List Byte) (i n : Nat) : Nat := leNat ((bs.drop i).take n)

/-! ## Batches and sequence descriptors (Tables 10-3, 10-5) -/

structure BatchH where
  nslots : Nat
  layers : Nat
  hkv : Nat
  tpb : Nat
  pool : Nat
  admitNext : Nat

def Dev.batchHeader (d : Dev) (who : Actor) (a : Nat) : BatchH × Dev :=
  let (bs, d) := d.readOpen who a 64
  (⟨natAt bs 0 2, natAt bs 2 1 + 1, natAt bs 3 1 + 1, natAt bs 4 1 + 1, natAt bs 5 1 % 2, natAt bs 8 8⟩, d)

structure SeqD where
  req : Nat
  state : Nat
  gen : Nat
  status : Nat
  len : Nat
  pages : Nat
  next : Nat
  trunc : Nat
  pmax : Nat
  table : Nat
  admNo : Nat
  t0 : Nat
  gh : Nat
  gw : Nat
  step : Nat

def seqAddr (header s : Nat) : Nat := header + 64 * (s + 1)

def SeqD.of (bs : List Byte) : SeqD :=
  { req := natAt bs 0 1, state := natAt bs 1 1, gen := natAt bs 2 1 % 16, status := natAt bs 3 1, len := natAt bs 4 4,
    pages := natAt bs 8 4, next := natAt bs 12 4, trunc := natAt bs 16 4, pmax := natAt bs 20 4,
    table := natAt bs 24 8 % 2 ^ 52, admNo := natAt bs 32 8, t0 := natAt bs 40 4, gh := natAt bs 44 2,
    gw := natAt bs 46 2, step := natAt bs 48 4 }

def Dev.seqDesc (d : Dev) (who : Actor) (header s : Nat) : SeqD × Dev :=
  let (bs, d) := d.readOpen who (seqAddr header s) 64
  (.of bs, d)

/-! ## Pages (R216 to R218) -/

structure PageLayout where
  ks : Nat
  ve : Nat
  vs : Nat
  size : Nat

def pageLayout (f dim tpp : Nat) : PageLayout :=
  let w := fmtWidth f
  let sc (n : Nat) := if fmtBlocked f then n else 0
  let ks := tpp * dim * w / 8
  let ve := cdiv (ks + sc (tpp * dim / 32)) 64 * 64
  let vs := ve + dim * tpp * w / 8
  ⟨ks, ve, vs, vs + sc (dim * tpp / 32)⟩

/-- Address of entry i of the page table of layer l and head g (R217). -/
def pageEntryAddr (table hkv pmax l g i : Nat) : Nat := (table + 4 * ((l * hkv + g) * pmax + i)) % 2 ^ 52

def Ctx.poolOf (x : Ctx) (p : Bool) : Pool := if p then x.att.pool1 else x.att.pool0

/-- Pages that hold the free bitmap (R218). -/
def Pool.bitmapPages (p : Pool) : Nat := cdiv p.pages 524288

/-- Page bytes, by pool and page number (R218). -/
def Dev.loadPage (d : Dev) (who : Actor) (c : CtxId) (pool : Bool) (page o n : Nat) : List RByte × Dev :=
  if pool then d.loadSlot (page % 192) (d.shareBase c + d.ctx[c].att.pool1.base + page / 192 * 65536 + o) n
  else d.loadAddr who (d.ctx[c].att.pool0.base + page * 65536 + o) n
def Dev.storePage (d : Dev) (who : Actor) (c : CtxId) (pool : Bool) (page o : Nat) (bs : List Byte) : Dev :=
  if pool then d.storeSlot (page % 192) (d.shareBase c + d.ctx[c].att.pool1.base + page / 192 * 65536 + o) bs
  else d.storeAddr who (d.ctx[c].att.pool0.base + page * 65536 + o) bs

/-- A page-table entry as (GEN, POOL, PAGE) (Table 10-2). -/
structure PageEntry where
  gen : Nat
  pool : Bool
  page : Nat

def PageEntry.of (v : Nat) : PageEntry := ⟨v / 2 ^ 28 % 16, v.testBit 27, v % 2 ^ 27⟩
def PageEntry.word (p : PageEntry) : Nat := p.gen % 16 * 2 ^ 28 + (if p.pool then 2 ^ 27 else 0) + p.page % 2 ^ 27
def noPage : Nat := 0x7FFFFFF

def Dev.pageEntry (d : Dev) (who : Actor) (table hkv pmax l g i : Nat) : PageEntry × Dev :=
  let (bs, d) := d.readOpen who (pageEntryAddr table hkv pmax l g i) 4
  (.of (leNat bs), d)

/-- The walker accepts an entry (R226). -/
def Ctx.acceptsPage (x : Ctx) (snapGen : Nat) (p : PageEntry) : Bool :=
  let pl := x.poolOf p.pool
  decide ((snapGen + 16 - p.gen) % 16 ≤ 7 ∧ p.page ≠ noPage ∧ pl.bitmapPages ≤ p.page ∧ p.page < pl.pages)

/-! ## Positions and masks (R238, R241) -/

def SeqSnap.pos (s : SeqSnap) (grid : Bool) (j : Nat) : Nat × Nat × Nat :=
  if grid then (s.t0 + j / (s.gh * s.gw), j / s.gw % s.gh, j % s.gw) else (j, 0, 0)

/-- TREE_EN of a step entry. -/
def StepEntry.treeEn (y : StepEntry) : Bool := y.tree.getLsbD 63

/-- Depth of candidate i: a root has depth 0. -/
def treeDepth (parents : List Nat) : Nat → Nat → Nat
  | 0, _ => 0
  | fuel + 1, i => let p := parents.getD i 255; if p < i then treeDepth parents fuel p + 1 else 0

/-- Candidate i itself and its ancestors. -/
def treeAncestors (parents : List Nat) : Nat → Nat → List Nat
  | 0, i => [i]
  | fuel + 1, i => let p := parents.getD i 255; if p < i then i :: treeAncestors parents fuel p else [i]

/-- The index of query i (R230, R241). -/
def StepEntry.queryIx (y : StepEntry) (len i : Nat) : Nat :=
  if y.treeEn then len + y.qoff + treeDepth y.parents 32 i else len + y.qoff + i

/-- The index of key k: a candidate takes its depth (R241). -/
def StepEntry.keyIx (y : StepEntry) (len k : Nat) : Nat :=
  if y.treeEn ∧ len + y.qoff ≤ k ∧ k < len + y.qoff + y.nq then
    len + y.qoff + treeDepth y.parents 32 (k - len - y.qoff)
  else k

/-- The tree rule (R241). -/
def StepEntry.treeAllows (y : StepEntry) (len i k : Nat) : Bool :=
  !y.treeEn || decide (k < len + y.qoff) || (treeAncestors y.parents 32 i).contains (k - len - y.qoff)

/-- Key k is allowed for query i (Table 10-10). -/
def allowedKey (x : AttnE) (s : SeqSnap) (y : StepEntry) (i k : Nat) : Bool :=
  let jq := y.queryIx s.len i
  let jk := y.keyIx s.len k
  let tq := (s.pos x.grid jq).1
  let tk := (s.pos x.grid jk).1
  (match x.causal with
   | 1 => decide (tk ≤ tq) && (!x.winEn || decide (tq < x.win + tk))
   | 2 => decide (jk ≤ jq) && (!x.winEn || decide (jq < x.win + jk))
   | _ => !x.winEn || decide ((jq - jk) + (jk - jq) < x.win)) && y.treeAllows s.len i k

/-! ## Tiles of a step (R232) -/

def Attn.x (a : Attn) : AttnE := .of a.e
/-- Query heads per key-value head. -/
def Attn.per (a : Attn) : Nat := a.x.hq / a.hkv
def Attn.snapOf (a : Attn) (slot : Nat) : Option SeqSnap := a.snaps.find? (·.slot = slot)
/-- Heads of the command that use g: the first and how many. -/
def Attn.headsOf (a : Attn) (g : Nat) : Nat × Nat :=
  let lo := max a.h0 (g * a.per)
  (lo, min (a.h0 + a.hc) ((g + 1) * a.per) - lo)
def Attn.groups (a : Attn) : List Nat :=
  (List.range a.hkv).filter fun g => decide (0 < (a.headsOf g).2)
/-- Rows stacked for (entry, g). -/
def Attn.rowsOf (a : Attn) (y : StepEntry) (g : Nat) : Nat := (a.headsOf g).2 * y.nq
def Attn.keysOf (a : Attn) (y : StepEntry) : Nat :=
  match a.snapOf y.slot with | some s => s.len + y.f | none => 0
def Attn.spansOf (a : Attn) (y : StepEntry) : Nat :=
  if a.x.kspan = 0 then 1 else max 1 (cdiv (cdiv (a.keysOf y) 128) a.x.kspan)
def Attn.chunkRows (a : Attn) (y : StepEntry) (g chunk : Nat) : Nat := min 256 (a.rowsOf y g - 256 * chunk)

/-- Every span tile in expansion order: entry, head, row chunk, span. -/
def Attn.spanTiles (a : Attn) : List SpanPos :=
  a.entries.zipIdx.flatMap fun (y, e) =>
    if y.status = stOk then
      a.groups.flatMap fun g => (List.range (cdiv (a.rowsOf y g) 256)).flatMap fun ch =>
        (List.range (a.spansOf y)).map fun sp => { entry := e, g := g, chunk := ch, span := sp }
    else []

/-- Query of a row of a span tile: head and query number. -/
def Attn.queryOf (a : Attn) (y : StepEntry) (p : SpanPos) (row : Nat) : Nat × Nat :=
  let r := 256 * p.chunk + row
  ((a.headsOf p.g).1 + r / y.nq, r % y.nq)

/-- Key blocks of a span tile that some row may attend to, ascending. -/
def Attn.blocksOf (a : Attn) (y : StepEntry) (p : SpanPos) : List Nat :=
  match a.snapOf y.slot with
  | none => []
  | some s =>
    let keys := s.len + y.f
    let nb := cdiv keys 128
    let mine := if a.x.kspan = 0 then List.range nb
      else (List.range a.x.kspan).map (· + p.span * a.x.kspan) |>.filter (· < nb)
    mine.filter fun b => (List.range (min y.nq (a.chunkRows y p.g p.chunk))).any fun r =>
      let i := (a.queryOf y p r).2
      (List.range 128).any fun o => decide (128 * b + o < keys) && allowedKey a.x s y i (128 * b + o)

/-! ## Issue (Tables 10-8, 10-9) -/

/-- The checks of a step-list entry (Table 10-9, R238, R241). -/
def stepStatus (x : AttnE) (nslots : Nat) (q : SeqD) (y : StepEntry) : BitVec 8 :=
  if nslots ≤ y.slot then stExceeds
  else if q.state = 3 then stPages
  else if q.state ≠ 2 then stExceeds
  else if y.nq = 0 then stEmpty
  else if x.bm < y.nq ∨ x.bn < q.len + y.f then stExceeds
  else if x.grid ∧ (q.gh = 0 ∨ q.gw = 0) then stExceeds
  else if y.treeEn ∧ (32 < y.nq ∨ y.f < y.qoff + y.nq ∨
      (List.range y.nq).any (fun i => let p := y.parents.getD i 255; decide (p ≠ 255 ∧ i ≤ p))) then stExceeds
  else stOk

def StepEntry.of (bs : List Byte) : StepEntry :=
  { slot := natAt bs 0 2, nq := natAt bs 2 2, f := natAt bs 4 2, qoff := natAt bs 6 2, qrow := natAt bs 8 4,
    frow := natAt bs 12 4, tree := BitVec.ofNat 64 (natAt bs 16 8) }

/-- Read, snapshot and check entry `i` of the step list (R222, R230). -/
def Attn.readEntry (a : Attn) (who : Actor) (nslots : Nat) (d : Dev) (i : Nat) : Attn × Dev :=
  let (bs, d) := d.readOpen who (a.stepList + 32 * i) 32
  let y := StepEntry.of bs
  let (parents, d) := if y.treeEn then d.readOpen who (y.tree.toNat % 2 ^ 52) 32 else ([], d)
  let y := { y with parents := parents.map BitVec.toNat }
  if nslots ≤ y.slot then ({ a with entries := a.entries ++ [{ y with status := stExceeds }] }, d)
  else
    let (q, d) := d.seqDesc who a.header y.slot
    let y := { y with status := stepStatus a.x nslots q y }
    let snaps := if a.snaps.any (·.slot = y.slot) ∨ (q.state ≠ 2 ∧ q.state ≠ 3) then a.snaps
      else a.snaps ++ [{ slot := y.slot, gen := q.gen, len := q.len, pages := q.pages, gh := q.gh, gw := q.gw, t0 := q.t0,
                         table := q.table, pmax := q.pmax }]
    ({ a with entries := a.entries ++ [y], snaps := snaps }, d)

/-- The cache pages that an entry's tiles read: pairs of head and page-table position. -/
def Attn.pagesOf (a : Attn) (y : StepEntry) (e : Nat) : List (Nat × Nat) :=
  let len := match a.snapOf y.slot with | some s => s.len | none => 0
  let ps := a.groups.flatMap fun g => (List.range (cdiv (a.rowsOf y g) 256)).flatMap fun ch =>
    (List.range (a.spansOf y)).flatMap fun sp =>
      (a.blocksOf y { entry := e, g := g, chunk := ch, span := sp }).flatMap fun b =>
        let lo := 128 * b / a.tpp
        let hi := (min len (128 * b + 128) - 1) / a.tpp
        if len ≤ 128 * b then [] else (List.range (hi + 1 - lo)).map fun i => (g, lo + i)
  ps.eraseDups

/-- A sequence is refused: every entry of the step list that names its slot (R226). -/
def Attn.refuse (a : Attn) (slot : Nat) (late : Bool) : Attn :=
  { a with entries := a.entries.map fun (y : StepEntry) =>
      if y.slot = slot ∧ y.status = stOk then { y with refused := true, late := late, flags := y.flags ||| flNan } else y }

/-- The event and the count of a refused page-table entry (R226). -/
def Dev.pageRefused (d : Dev) (c : CtxId) (q : QId) (header slot : Nat) : Dev :=
  (d.event (.queue c q) 0x0008 (BitVec.ofNat 64 header) (BitVec.ofNat 32 slot)).countCtx 13 c

/-- The walker meets the page-table entries of an entry: the first that fails refuses the sequence (R226). -/
def Attn.walkPages (a : Attn) (c : CtxId) (q : QId) (d : Dev) (e : Nat) : Attn × Dev :=
  match a.entries[e]? with
  | none => (a, d)
  | some y =>
    match a.snapOf y.slot with
    | none => (a, d)
    | some s =>
      if y.status ≠ stOk ∨ y.refused then (a, d)
      else
        let r := (a.pagesOf y e).foldl (fun (acc : Option Nat × Dev) gp =>
          if acc.1.isSome then acc
          else
            let (pe, d) := acc.2.pageEntry (.cmd a.cmd) s.table a.hkv s.pmax a.x.layer gp.1 gp.2
            (if d.ctx[c].acceptsPage s.gen pe then none else some gp.2, d)) (none, d)
        match r.1 with
        | none => (a, r.2)
        | some _ => (a.refuse y.slot false, r.2.pageRefused c q a.header y.slot)

/-- Steps 2 to 5 of Table 10-8 for an attention command that has been issued; under R44 it ends first. -/
def Dev.issueAttn (d : Dev) (c : CtxId) (id ldt : Nat) (shape : List Nat) (seed : Word) : Dev :=
  let e := d.ldtEntry c ldt
  let x := AttnE.of e
  let s (i : Nat) := shape.getD i 0
  let n := s 1
  if d.ctx[c].g.quota = 0 then d.endAtIssue id c stArrays
  else if x.b0 < n ∨ x.hq < s 3 + s 4 then d.endAtIssue id c stExceeds
  else if n = 0 ∨ s 4 = 0 then d.endAtIssue id c stEmpty
  else
    let header := s 2 % 2 ^ 52
    let (h, d) := d.batchHeader (.cmd id) header
    let tpp := 32 * h.tpb
    if x.hq % h.hkv ≠ 0 ∨ 65536 < (pageLayout x.fk x.dim tpp).size then d.endAtIssue id c stExceeds
    else
      let a : Attn := { cmd := id, e := e, stepList := s 0 % 2 ^ 52, count := n, header := header, h0 := s 3, hc := s 4,
                        seed := seed, hkv := h.hkv, tpp := tpp, pool := h.pool }
      let (a, d) := (List.range n).foldl (fun (acc : Attn × Dev) i => acc.1.readEntry (.cmd id) h.nslots acc.2 i) (a, d)
      let q := match d.cmd? id with | some y => y.q | none => 0
      let (a, d) := (List.range n).foldl (fun (acc : Attn × Dev) i => acc.1.walkPages c q acc.2 i) (a, d)
      { d with attns := d.attns ++ [a] }

end Sys2Proof.Machine
end

