-- ==== Sys2Proof/Machine/Operands.lean ====
section
/-!
DEFINITION. Machine/Operands.lean: the operand forms of a clause word (08): the word's 512 bits as slots, guards,
undefined encodings, the registers each slot reads and writes, operand b and the effective address.
-/
namespace Sys2Proof
open Machine

/-! ## The word's bits (R175, Tables 08-1 to 08-10) -/

/-- A field of a slot that starts at word bit `b`. -/
def fld (l : Line) (b hi lo : Nat) : BitVec (hi - lo + 1) := l.extractLsb' (b + lo) (hi - lo + 1)

def QSlot.ofLine (l : Line) : QSlot :=
  { op := fld l 448 63 56, gp := fld l 448 55 53, gn := l.getLsbD (448 + 52), f := fld l 448 51 44,
    sr := fld l 448 43 38, pd := fld l 448 37 35, ci := fld l 448 34 32, imm := fld l 448 31 0 }

def TSlot.ofLine (l : Line) : TSlot :=
  { op := fld l 352 95 88, gp := fld l 352 87 85, gn := l.getLsbD (352 + 84), ldt := fld l 352 83 76,
    rm := fld l 352 75 70, rn := fld l 352 69 64, rk := fld l 352 63 58, rp0 := fld l 352 57 52,
    rp1 := fld l 352 51 46, rp2 := fld l 352 45 40, w0e := l.getLsbD (352 + 39), w0f := fld l 352 38 31,
    w0t := fld l 352 30 25, w1e := l.getLsbD (352 + 24), w1f := fld l 352 23 16, w1t := fld l 352 15 10,
    se := l.getLsbD (352 + 9), sf := fld l 352 8 1, rsv := l.getLsbD 352 }

def VSlot.ofLine (l : Line) : VSlot :=
  { op := fld l 256 95 88, gp := fld l 256 87 85, gn := l.getLsbD (256 + 84), vd := fld l 256 83 79,
    va := fld l 256 78 74, vb := fld l 256 73 69, vc := fld l 256 68 64, fn := fld l 256 63 60,
    rm := fld l 256 59 57, rsv := fld l 256 56 54, sr := fld l 256 53 48, ix := fld l 256 47 40,
    epi := fld l 256 39 32, imm := fld l 256 31 0 }

def ASlot.ofLine (l : Line) : ASlot :=
  { op := fld l 160 95 88, gp := fld l 160 87 85, gn := l.getLsbD (160 + 84), rd := fld l 160 83 78,
    rb := fld l 160 77 72, ri := fld l 160 71 66, sc := fld l 160 65 64, vr := fld l 160 63 59,
    space := fld l 160 58 57, ldti := fld l 160 56 49, rsv := fld l 160 48 32, off := fld l 160 31 0 }

/-- A scalar slot that starts at word bit `b`: 80 for S1, 0 for S0. -/
def SSlot.ofLine (l : Line) (b : Nat) : SSlot :=
  { op := fld l b 79 72, gp := fld l b 71 69, gn := l.getLsbD (b + 68), rd := fld l b 67 62, ra := fld l b 61 56,
    rb := fld l b 55 50, pd := fld l b 49 47, pa := fld l b 46 44, pb := fld l b 43 41, i := l.getLsbD (b + 40),
    rsv := fld l b 39 32, imm := fld l b 31 0 }

/-- The slots of a word in the instruction buffer. -/
def wordOfLine (l : Line) : ClauseWord :=
  { q := .ofLine l, t := .ofLine l, v := .ofLine l, a := .ofLine l, s1 := .ofLine l 80, s0 := .ofLine l 0 }

/-! ## Undefined encodings (R177, R182, R187, R189, R193, R194) -/

def QSlot.undefined (f : QSlot) : Bool :=
  match f.op.toNat with
  | 0 => f ≠ {}
  | 1 => f.ci ≠ 0
  | 2 => f.pd ≠ 0 || f.ci ≠ 0
  | 3 => f.sr ≠ 0 || f.pd ≠ 0 || f.ci ≠ 0 || f.imm = 0 || decide (65536 ≤ f.imm.toNat)
  | 4 => f.f ≠ 0 || f.sr ≠ 0 || f.imm ≠ 0
  | 5 => f.f ≠ 0 || f.sr ≠ 0 || f.pd ≠ 0 || f.ci ≠ 0 || decide (65536 ≤ f.imm.toNat)
  | 6 => f.f ≠ 0 || f.pd ≠ 0 || f.ci ≠ 0 || f.imm ≠ 0
  | 7 => f.f ≠ 0 || f.sr ≠ 0 || f.pd ≠ 0 || f.ci ≠ 0 || f.imm ≠ 0
  | _ => true

def TSlot.undefined (f : TSlot) : Bool :=
  match f.op.toNat with
  | 0 => f ≠ {}
  | 1 | 2 =>
    f.rsv || (!f.w0e && (f.w0f ≠ 0 || f.w0t ≠ 0)) || (!f.w1e && (f.w1f ≠ 0 || f.w1t ≠ 0)) || (!f.se && f.sf ≠ 0)
  | _ => true

/-- The fields a V operation names (Table 08-6): VD, VA, VB, VC, FN, RM, SR, IX, EPI, IMM. -/
structure VUse where
  vd : Bool := false
  va : Bool := false
  vb : Bool := false
  vc : Bool := false
  fn : Bool := false
  rm : Bool := false
  sr : Bool := false
  ix : Bool := false
  epi : Bool := false
  imm : Bool := false

def VSlot.use (f : VSlot) : Option VUse :=
  match f.op.toNat with
  | 1 | 2 | 3 | 5 | 6 | 0x10 | 0x11 | 0x12 | 0x13 => some { vd := true, va := true, vb := true }
  | 4 => some { vd := true, va := true, vb := true, vc := true }
  | 7 => some { vd := true, va := true, fn := true }
  | 8 => some { vd := true, va := true, vb := true, rm := true, sr := f.rm = 4, imm := f.rm = 4 }
  | 9 => some { vd := true, va := true, ix := true }
  | 0xA => some { vd := true, sr := true }
  | 0xB => some { va := true, sr := true, ix := true }
  | 0xC => some { vd := true, va := true, sr := true, ix := true }
  | 0xD => some { vd := true, va := true }
  | 0x20 => some { va := true, epi := true, ix := true }
  | 0x21 => some { vd := true, epi := true, ix := true }
  | _ => none

def VSlot.undefined (f : VSlot) : Bool :=
  if f.op = 0 then f ≠ {}
  else
    match f.use with
    | none => true
    | some u =>
      f.rsv ≠ 0 || (!u.vd && f.vd ≠ 0) || (!u.va && f.va ≠ 0) || (!u.vb && f.vb ≠ 0) || (!u.vc && f.vc ≠ 0) ||
        (!u.fn && f.fn ≠ 0) || (!u.rm && f.rm ≠ 0) || (!u.sr && f.sr ≠ 0) || (!u.ix && f.ix ≠ 0) ||
        (!u.epi && f.epi ≠ 0) || (!u.imm && f.imm ≠ 0) || (u.fn && decide (12 ≤ f.fn.toNat)) ||
        (u.rm && decide (5 ≤ f.rm.toNat)) || (u.ix && decide ((if f.op = 9 then 1 else 15) < f.ix.toNat))

def ASlot.undefined (f : ASlot) : Bool :=
  let spaceBad := decide (2 ≤ f.space.toNat)
  match f.op.toNat with
  | 0 => f ≠ {}
  | 1 | 2 | 3 | 4 | 5 | 8 | 9 | 0xA | 0xB => spaceBad || f.vr ≠ 0 || f.ldti ≠ 0 || f.rsv ≠ 0
  | 0xC | 0xD => spaceBad || f.rd ≠ 0 || f.ldti ≠ 0 || f.rsv ≠ 0
  | 0x10 => f.vr ≠ 0 || f.space ≠ 0 || f.ldti ≠ 0 || f.rsv ≠ 0
  | 0x11 => spaceBad || f.vr ≠ 0 || f.rsv ≠ 0
  | _ => true

/-- The shape of an S operation (Table 08-11). -/
inductive SForm
  | nop
  /-- RD, RA and operand b. -/
  | alu
  | inshi
  /-- PD, RA and operand b. -/
  | cmp
  | pred
  /-- RD and RA. -/
  | cvt
  | br
  | brr
  | call
  | loop
  /-- RD alone. -/
  | clock
  | bad
deriving DecidableEq, Repr

def sForm (s0 : Bool) (op : BitVec 8) : SForm :=
  match op.toNat with
  | 0 => .nop
  | 1 | 2 | 3 | 4 | 5 | 6 | 7 | 8 | 9 | 0xA | 0xB | 0xC | 0xD => .alu
  | 0xE => .inshi
  | 0x10 | 0x11 | 0x12 | 0x13 | 0x14 | 0x15 => .cmp
  | 0x18 | 0x19 | 0x1A | 0x1B => .pred
  | 0x20 | 0x21 | 0x22 | 0x23 | 0x24 | 0x25 => .alu
  | 0x26 | 0x27 => .cmp
  | 0x28 | 0x29 => .cvt
  | 0x30 => if s0 then .bad else .br
  | 0x31 => if s0 then .bad else .brr
  | 0x32 => if s0 then .bad else .call
  | 0x33 => if s0 then .bad else .loop
  | 0x38 | 0x39 => .clock
  | _ => .bad

/-- Operand b is undefined as encoded: IMM with I = 0, RB with I = 1. -/
def SSlot.bBad (f : SSlot) : Bool := if f.i then f.rb ≠ 0 else f.imm ≠ 0
def SSlot.predsZero (f : SSlot) : Bool := f.pd = 0 && f.pa = 0 && f.pb = 0

def SSlot.undefined (s0 : Bool) (f : SSlot) : Bool :=
  f.rsv ≠ 0 ||
  match sForm s0 f.op with
  | .nop => f ≠ {}
  | .alu => f.bBad || !f.predsZero
  | .inshi => !f.i || f.rb ≠ 0 || !f.predsZero
  | .cmp => f.bBad || f.rd ≠ 0 || f.pa ≠ 0 || f.pb ≠ 0
  | .pred => f.rd ≠ 0 || f.ra ≠ 0 || f.rb ≠ 0 || f.i || f.imm ≠ 0
  | .cvt => f.rb ≠ 0 || f.i || f.imm ≠ 0 || !f.predsZero
  | .br => f.rd ≠ 0 || f.ra ≠ 0 || f.rb ≠ 0 || f.i || !f.predsZero
  | .brr => f.rd ≠ 0 || f.rb ≠ 0 || f.i || f.imm ≠ 0 || !f.predsZero
  | .call => f.ra ≠ 0 || f.rb ≠ 0 || f.i || !f.predsZero
  | .loop => f.rb ≠ 0 || f.i || !f.predsZero
  | .clock => f.ra ≠ 0 || f.rb ≠ 0 || f.i || f.imm ≠ 0 || !f.predsZero
  | .bad => true

/-! ## Register reads (R149) -/

def Machine.Snap.sr (r : Snap) (i : BitVec 6) : DWord := if i = 0 then 0 else r.s[i.toNat]'(i.isLt)
def Machine.Snap.pr (r : Snap) (i : BitVec 3) : Bool := if i = 0 then true else r.p.getLsbD i.toNat
def Machine.Snap.vr (r : Snap) (i : BitVec 5) : Line := r.v[i.toNat]'(i.isLt)

/-- Write a destination; s0 and p0 discard (R149, R178). -/
def Machine.Snap.wr (r : Snap) (x : Dest) (v : Line) : Snap :=
  match x with
  | .s i => if i = 0 then r else { r with s := r.s.set i.toNat (v.setWidth 64) (i.isLt) }
  | .p i => if i = 0 then r else { r with p := setBit r.p i.toNat (v.getLsbD 0) }
  | .v i => { r with v := r.v.set i.toNat v (i.isLt) }

/-- The guard of a slot: p[GP] xor GN (R176). -/
def Machine.Snap.guard (r : Snap) (gp : BitVec 3) (gn : Bool) : Bool := r.pr gp != gn

/-! ## What each slot reads and writes -/

/-- A source or destination that a word may wait for (R151, R192). -/
inductive Res
  | d (x : Dest)
  | ldt (i : BitVec 8)
deriving DecidableEq, Repr

/-- s0 and p0 are never awaited and never conflict (R178). -/
def Res.real : Res → Bool
  | .d (.s i) => i ≠ 0
  | .d (.p i) => i ≠ 0
  | _ => true

def rs (i : BitVec 6) : Res := .d (.s i)
def rp (i : BitVec 3) : Res := .d (.p i)
def rv (i : BitVec 5) : Res := .d (.v i)

def QSlot.reads (f : QSlot) : List Res :=
  match f.op.toNat with | 1 | 2 | 6 => [rs f.sr] | _ => []
def QSlot.writes (f : QSlot) : List Res :=
  match f.op.toNat with | 1 | 4 => [rp f.pd] | _ => []

def TSlot.reads (f : TSlot) : List Res :=
  if f.op = 0 then []
  else [rs f.rm, rs f.rn, rs f.rk, rs f.rp0, rs f.rp1, rs f.rp2, rs 5, .ldt f.ldt] ++
    (if f.w0e then [rs f.w0t] else []) ++ (if f.w1e then [rs f.w1t] else [])

def VSlot.reads (f : VSlot) : List Res :=
  match f.use with
  | none => []
  | some u =>
    (if u.va then [rv f.va] else []) ++ (if u.vb then [rv f.vb] else []) ++ (if u.vc then [rv f.vc] else []) ++
      (if u.sr && f.op ≠ 0xB then [rs f.sr] else []) ++ (if u.rm && f.rm = 4 then [rs 5] else [])
def VSlot.writes (f : VSlot) : List Res :=
  match f.use with
  | none => []
  | some u => if f.op = 0xB then [rs f.sr] else if u.vd then [rv f.vd] else []

def ASlot.reads (f : ASlot) : List Res :=
  if f.op = 0 then []
  else [rs f.rb, rs f.ri] ++
    (match f.op.toNat with | 8 | 9 | 0xA | 0xB => [rs f.rd] | 0xD => [rv f.vr] | _ => [])
def ASlot.writes (f : ASlot) : List Res :=
  match f.op.toNat with
  | 1 | 2 | 3 | 4 | 5 | 0x10 => [rs f.rd]
  | 0xC => [rv f.vr]
  | 0x11 => [rs f.rd, .ldt f.ldti]
  | _ => []

def SSlot.reads (s0 : Bool) (f : SSlot) : List Res :=
  let b := if f.i then [] else [rs f.rb]
  match sForm s0 f.op with
  | .alu => [rs f.ra] ++ b ++ (if f.op = 0x23 then [rs f.rd] else [])
  | .cmp => [rs f.ra] ++ b
  | .inshi | .cvt | .brr | .loop => [rs f.ra]
  | .pred => [rp f.pa, rp f.pb]
  | _ => []
def SSlot.writes (s0 : Bool) (f : SSlot) : List Res :=
  match sForm s0 f.op with
  | .alu | .inshi | .cvt | .call | .loop | .clock => [rs f.rd]
  | .cmp | .pred => [rp f.pd]
  | _ => []

/-! ## Operand b, targets and addresses -/

/-- Operand b (R193). -/
def SSlot.b (f : SSlot) (r : Snap) : DWord := if f.i then f.imm.signExtend 64 else r.sr f.rb

/-- EA (R189). -/
def ASlot.ea (f : ASlot) (r : Snap) : Nat :=
  let sh := match f.sc.toNat with | 0 => 0 | 1 => 3 | 2 => 6 | _ => 8
  (r.sr f.rb + (r.sr f.ri <<< sh) + f.off.signExtend 64).toNat % 2 ^ 52

/-- Bytes of an A access. -/
def ASlot.size (f : ASlot) : Nat :=
  match f.op.toNat with
  | 1 | 8 => 1 | 2 | 9 => 2 | 3 | 5 | 0xA => 4 | 4 | 0xB => 8 | 0xC | 0xD => 64 | 0x11 => 256 | _ => 0

def ASlot.isStore (f : ASlot) : Bool :=
  match f.op.toNat with | 8 | 9 | 0xA | 0xB | 0xD => true | _ => false
def ASlot.isLoad (f : ASlot) : Bool :=
  match f.op.toNat with | 1 | 2 | 3 | 4 | 5 | 0xC | 0x11 => true | _ => false

/-- Branch target PC + sext(IMM), modulo 2^32 (R194). -/
def branchTo (pc imm : Word) : Word := pc + imm

/-- A lane of 32 bits, and a vector from its lanes (R185). -/
def lane (v : Line) (l : Nat) : Word := v.extractLsb' (32 * l) 32
def ofLanes (ls : List Word) : Line := Line.ofBytes (ls.flatMap fun w => leBytes w.toNat 4)
def lanes (v : Line) : List Word := (List.range 16).map (lane v)
def ofHalves (ls : List Nat) : Line := Line.ofBytes (ls.flatMap fun w => leBytes w 2)

end Sys2Proof
end

