-- ==== Sys2Proof/Machine/Entry.lean ====
section
/-!
DEFINITION. Machine/Entry.lean: a 64-byte command entry as its fields, and the entries that are rejected (R363 to R366).
-/
namespace Sys2Proof.Machine

/-- The number in bytes `i` to `i + n − 1` of an entry. -/
def ent (l : Line) (i n : Nat) : Nat := (l.extractLsb' (8 * i) (8 * n)).toNat

/-- The kinds of Table 15-11. -/
def kindListed (k : Nat) : Bool :=
  [0x01, 0x02, 0x10, 0x11, 0x12, 0x13, 0x20, 0x21, 0x30, 0x31, 0x32, 0x33, 0x34].contains k

/-- The header breaks Table 15-10. -/
def headerBad (l : Line) : Bool :=
  let fence := ent l 1 1
  decide (8 ≤ fence) || ent l 3 1 ≠ 0 || ent l 6 2 ≠ 0 || (!nbit fence 0 && (ent l 4 1 ≠ 0 || ent l 8 4 ≠ 0)) ||
    (!nbit fence 1 && (ent l 5 1 ≠ 0 || ent l 12 4 ≠ 0)) || (!nbit fence 2 && ent l 2 1 ≠ 0)

/-- The body of a FENCE entry breaks R366. -/
def fenceBad (l : Line) : Bool :=
  decide (1 < ent l 16 1) || ent l 18 2 ≠ 0 || ent l 24 40 ≠ 0 ||
    (ent l 16 1 = 1 && (ent l 20 4 = 0 || decide (65535 < ent l 20 4)))

/-- An entry that R364 rejects. -/
def entryRejected (l : Line) : Bool :=
  !kindListed (ent l 0 1) || headerBad l || (ent l 0 1 = 2 && fenceBad l)

/-- The fence waits of an entry (R363). -/
def entryWaits (l : Line) : List Wait :=
  (if nbit (ent l 1 1) 0 then [⟨BitVec.ofNat 8 (ent l 4 1), BitVec.ofNat 32 (ent l 8 4)⟩] else []) ++
  (if nbit (ent l 1 1) 1 then [⟨BitVec.ofNat 8 (ent l 5 1), BitVec.ofNat 32 (ent l 12 4)⟩] else [])

/-- The signal counter of an entry. -/
def entrySig (l : Line) : Option (BitVec 8) := if nbit (ent l 1 1) 2 then some (BitVec.ofNat 8 (ent l 2 1)) else none

end Sys2Proof.Machine
end

