-- ==== Sys2Proof/Machine/Queues.lean ====
section
/-!
DEFINITION. Machine/Queues.lean: command queues and event rings (R358 to R369): enabling at step 7, the monitored lines, the
fetch of entries, dispatch (R155, R362) and the commands a Clause processor runs by itself, FENCE and LAUNCH (R156, R366).
-/
namespace Sys2Proof.Machine

/-! ## Lines of the companion -/

/-- The requests for a line that an answer ends. -/
def Dev.endAsk (d : Dev) (addr : Nat) (k : AskKind) : Dev :=
  { d with rcl := { d.rcl with asks := d.rcl.asks.filter fun a => !(a.addr = addr && a.kind = k) } }

/-- The half-bytes of a line that the Kraip has written while it awaits the line. -/
def Dev.ownMask (d : Dev) (line : Nat) : BitVec 128 :=
  d.rcl.probes.foldl (fun m (p : Probe) => if p.addr = line then m ||| p.mask else m)
    (d.rcl.asks.foldl (fun m (a : Ask) => if a.addr = line then m ||| a.mask else m) 0)

/-- A load in flight takes its bytes of a line: as memory holds them, but for bytes that later stores of its program have
replaced since, which are as the line brought them or as they stood before, and with its program's earlier stores (R167). -/
def Load.fill (l : Load) (line : Nat) (now : List RByte) (raw : Option Line) : Load :=
  match l.companion with
  | none => l
  | some a =>
    if !l.need.contains line then l
    else
      let byte (i : Nat) : RByte :=
        let j := (a + i) % 2 ^ 52 - line
        let here := now.getD j (0, false)
        let b : Byte := match l.old.find? (·.1 = i), raw with
          | some o, some v => if o.2.2 then o.2.1 else v.bytes.getD j 0
          | some o, none => o.2.1
          | none, _ => here.1
        l.patch.foldl (fun x o => if o.1 = i then (o.2.1, x.2 && !o.2.2) else x) (b, here.2)
      let mine (i : Nat) : Bool := decide ((a + i) % 2 ^ 52 / 64 = line / 64)
      let got := l.bytes.zipIdx.map fun (b, i) => if mine i then byte i else (b, false)
      let need := l.need.filter (· ≠ line)
      { l with bytes := bytesOf got, bad := l.bad || anyBad got, need := need
               companion := if need = [] then none else some a }

/-- The same for the loads of a processor's state, and for every copy of it. -/
def Snap.fill (r : Snap) (line : Nat) (now : List RByte) (raw : Option Line) : Snap :=
  { r with loads := r.loads.map fun l => l.fill line now raw }
def Cp.fill (p : Cp) (line : Nat) (now : List RByte) (raw : Option Line) : Cp :=
  { p with r := p.r.fill line now raw, durable := p.durable.fill line now raw
           ckpt := p.ckpt.map fun k => (k.1.fill line now raw, k.2) }

/-- Every load in flight that awaits a line takes its bytes; each that meets poison is a poisoned read (R259, R353). -/
def Dev.fillLoads (d : Dev) (line : Nat) (raw : Option Line) : Dev :=
  let bad := d.mem.bad line
  let now : List RByte := (d.mem.read line 64).map fun b => (b, bad)
  (List.finRange 16).foldl (fun (d : Dev) (c : CtxId) =>
    let n := (d.ctx[c].cp.r.loads.filter fun l => l.companion.isSome && l.need.contains line).length
    let d := if bad then (List.range n).foldl (fun (d : Dev) _ => d.poisonedRead line) d else d
    d.modCp c fun p => p.fill line now raw) d

/-- A line arrives from the companion (R353): its bytes stand as the companion's, but for those the Kraip has written
since it asked; with POISON the line is poisoned and counted. -/
def Dev.lineArrives (d : Dev) (addr : Nat) (line : Line) (poison : Bool) (mask : BitVec 128 := 0) : Dev :=
  let mask := mask ||| d.ownMask addr
  let cells := line.bytes.zipIdx.foldl (fun m b =>
    memPut m (addr + b.2) (halfMerge mask b.2 (memByte m (addr + b.2)) b.1)) d.mem.cells
  let d := { d with mem := { d.mem with cells := cells } }
  let d := if poison then
      { d with mem := d.mem.setPoison addr, rcl := { d.rcl with poisonIn := satInc d.rcl.poisonIn } }
    else { d with mem := d.mem.clearPoison addr 64 }
  d.fillLoads addr (some line)

/-- Take a line into the monitor: a line that the cache holds moves there, another is asked for with GET_CLEAN (R349). -/
def Dev.monitorLine (d : Dev) (line : Nat) : Dev :=
  let cached : Bool := d.rcl.lines.any (·.1 = line)
  let known : Bool := d.rcl.monitor.contains line
  let d := { d with rcl := { d.rcl with
    monitor := keyPut line d.rcl.monitor, lines := d.rcl.lines.filter (·.1 ≠ line) } }
  if cached || known then d else d.ask line .monitor

def Dev.unmonitor (d : Dev) (line : Nat) : Dev :=
  { d with rcl := { d.rcl with monitor := d.rcl.monitor.filter (· ≠ line) } }

/-- Lines 0 to 3 of a queue control block, and the two of an event control block. -/
def Queue.lineAddr (x : Queue) (i : Nat) : Nat := 2 ^ 51 + x.qcb.toNat + 64 * i
def EvRing.lineAddr (x : EvRing) (i : Nat) : Nat := 2 ^ 51 + x.ecb.toNat + 64 * i

def isPow2 (n lo hi : Nat) : Bool := decide (lo ≤ n) && decide (n ≤ hi) && decide (2 ^ Nat.log2 n = n)

/-- A device address in companion memory with an alignment (R358). -/
def ringAddrOk (a align : Nat) : Bool := decide (2 ^ 51 ≤ a) && decide (a < 2 ^ 52) && decide (a % align = 0)

/-- Line 0 of a QCB holds to Table 15-8. -/
def qcbOk (bs : List Byte) : Bool :=
  ringAddrOk (natAt bs 0 8) 64 && isPow2 (natAt bs 8 4) 16 65536 && ringAddrOk (natAt bs 16 8) 32 &&
    isPow2 (natAt bs 24 4) 64 1048576 && natAt bs 12 4 = 0 && natAt bs 28 36 = 0

/-- Line 0 of an ECB holds to R369. -/
def ecbOk (bs : List Byte) : Bool :=
  ringAddrOk (natAt bs 0 8) 32 && isPow2 (natAt bs 8 4) 64 1048576 && natAt bs 12 52 = 0

/-! ## Fetching (R360) -/

def Dev.queueError (d : Dev) (c : CtxId) (q : QId) (cause : Nat) : Dev :=
  (d.modQ c q fun x => { x with st := .error, cause := BitVec.ofNat 4 cause }).event (.queue c q) 0x000A 0
    (BitVec.ofNat 32 cause)

/-- Issue the reads of the next entries: at most 64 are held or on their way, and none while RCL is down (R348). -/
def Dev.issueReads (d : Dev) (c : CtxId) (q : QId) : Nat → Dev
  | 0 => d
  | fuel + 1 =>
    let x := d.ctx[c].queue[q]
    if x.st = .enabled ∧ d.rclUp ∧ x.issued ≠ x.tail ∧ x.held.length + (x.issued - x.head).toNat < 64 then
      let d := d.ask (x.ring + 64 * (x.issued.toNat % x.size)) .once
      (d.modQ c q fun y => { y with issued := y.issued + 1 }).issueReads c q fuel
    else d

/-- Take a value of TAIL, check it and issue reads (R360). -/
def Dev.takeTail (d : Dev) (c : CtxId) (q : QId) (tail : DWord) : Dev :=
  let d := d.modQ c q fun x => { x with tail := tail }
  let x := d.ctx[c].queue[q]
  if x.size < (tail - x.head).toNat then d.queueError c q 2 else d.issueReads c q 64

/-! ## Enabling (R359, R369) -/

/-- Steps 2 to 4 of enabling, when the control block can be reached and no read of an entry issued before is on its way
(DESIGN CHOICE, log entry 109). -/
def Dev.finishEnable (d : Dev) (c : CtxId) (q : QId) : Dev := d.attempt fun d =>
  let x := d.ctx[c].queue[q]
  if x.st ≠ .enabling ∨ x.issued ≠ x.head then d
  else
    let (bs, d) := d.readOpen .unit (x.lineAddr 0) 64
    let (rd, d) := d.readOpen .unit (x.lineAddr 3) 8
    let (tl, d) := d.readOpen .unit (x.lineAddr 1) 8
    if !qcbOk bs then d.queueError c q 1
    else
      let d := d.modQ c q fun y =>
        { y with ring := natAt bs 0 8, size := natAt bs 8 4, cplRing := natAt bs 16 8, cplSize := natAt bs 24 4, head := 0
                 cplLine := x.lineAddr 3, issued := 0, cplNext := 0, seq := 0 }
      let d := d.putBytes (x.lineAddr 2) (List.replicate 8 0)
      let d := ((d.unmonitor x.cplLine).monitorLine (x.lineAddr 1)).monitorLine (x.lineAddr 3)
      let d := d.modQ c q fun y => { y with st := .enabled, cause := 0, cplRd := BitVec.ofNat 64 (leNat rd) }
      d.takeTail c q (BitVec.ofNat 64 (leNat tl))

/-- A queue becomes DISABLED and issues no new read. -/
def Dev.disableQueue (d : Dev) (c : CtxId) (q : QId) : Dev :=
  let x := d.ctx[c].queue[q]
  if x.st = .disabled then d
  else (d.unmonitor (x.lineAddr 1)).modQ c q fun y => { y with st := .disabled }

/-- The queue acts on its ENABLE at step 7. -/
def Dev.enableQueue (d : Dev) (c : CtxId) (q : QId) : Dev :=
  let x := d.ctx[c].queue[q]
  if !x.enable ∨ d.ctx[c].st = .draining then d.disableQueue c q
  else if x.st = .disabled ∧ d.ctx[c].st = .active then
    (d.modQ c q fun y => { y with st := .enabling, cause := 0 }).finishEnable c q
  else d.finishEnable c q

/-- An event ring's control block is checked (R369); its failure is an event that finds the ring not ENABLED. -/
def Dev.finishRing (d : Dev) (r : Option CtxId) : Dev := d.attempt fun d =>
  let x := d.ringOf r
  if x.st ≠ .enabling then d
  else
    let (bs, d) := d.readOpen .unit (x.lineAddr 0) 64
    let (rd, d) := d.readOpen .unit (x.lineAddr 1) 8
    if !ecbOk bs then
      let d := d.modRing r fun y => { y with st := .error }
      match r with
      | some c => d.event (.queue c 0) 0x000A 0 4
      | none => d.event .fault 0x0305
    else
      let d := d.monitorLine (x.lineAddr 1)
      d.modRing r fun y => { y with st := .enabled, ring := natAt bs 0 8, size := natAt bs 8 4, next := 0
                                    rd := BitVec.ofNat 64 (leNat rd) }

def Dev.enableRing (d : Dev) (r : Option CtxId) : Dev :=
  let x := d.ringOf r
  let active : Bool := match r with | some c => d.ctx[c].st = .active | none => true
  if !x.enable then
    if x.st = .disabled then d else (d.unmonitor (x.lineAddr 1)).modRing r fun y => { y with st := .disabled }
  else if x.st = .disabled ∧ active then (d.modRing r fun y => { y with st := .enabling }).finishRing r
  else d.finishRing r

def allQueues : List (CtxId × QId) := (List.finRange 16).flatMap fun c => (List.finRange 4).map fun q => (c, q)

/-- Every queue and ring acts on its ENABLE (step 7). -/
def Dev.enableAll (d : Dev) : Dev :=
  let d := allQueues.foldl (fun d p => d.enableQueue p.1 p.2) d
  ((List.finRange 16).foldl (fun d c => d.enableRing (some c)) d).enableRing none

/-- A context that becomes FREE (R359): its queue and ring registers return to reset; records that wait keep their ring. -/
def Queue.freed (x : Queue) : Queue :=
  { cplRing := x.cplRing, cplSize := x.cplSize, cplRd := x.cplRd, cplNext := x.cplNext, cplLine := x.cplLine
    recs := x.recs, seq := x.seq }

/-! ## Monitored lines -/

/-- The line 1 of a QCB is re-read (R360). -/
def Dev.tailLine (d : Dev) (c : CtxId) (q : QId) (line : Line) (poison : Bool) : Dev :=
  let x := d.ctx[c].queue[q]
  if x.st ≠ .enabled ∨ !d.rclUp then d
  else
    let d := (d.endAsk (x.lineAddr 1) .monitor).lineArrives (x.lineAddr 1) line poison
    let (tl, d) := d.readOpen .unit (x.lineAddr 1) 8
    d.takeTail c q (BitVec.ofNat 64 (leNat tl))

/-- The line 3 of a QCB is re-read: waiting records are written (R367). -/
def Dev.cplRdLine (d : Dev) (c : CtxId) (q : QId) (line : Line) (poison : Bool) : Dev :=
  let x := d.ctx[c].queue[q]
  if x.cplLine = 0 ∨ !d.rclUp then d
  else
    let d := (d.endAsk x.cplLine .monitor).lineArrives x.cplLine line poison
    let (rd, d) := d.readOpen .unit x.cplLine 8
    let d := d.modQ c q fun y => { y with cplRd := BitVec.ofNat 64 (leNat rd) }
    d.drainRecs c q x.recs.length

/-- The line 1 of an ECB is re-read (R369). -/
def Dev.eventRdLine (d : Dev) (r : Option CtxId) (line : Line) (poison : Bool) : Dev :=
  let x := d.ringOf r
  if x.st ≠ .enabled ∨ !d.rclUp then d
  else
    let d := (d.endAsk (x.lineAddr 1) .monitor).lineArrives (x.lineAddr 1) line poison
    let (rd, d) := d.readOpen .unit (x.lineAddr 1) 8
    d.modRing r fun y => { y with rd := BitVec.ofNat 64 (leNat rd) }

/-- The bytes of the next entry arrive (R360, R362). -/
def Dev.entryArrives (d : Dev) (c : CtxId) (q : QId) (line : Line) (poison : Bool) : Dev :=
  let x := d.ctx[c].queue[q]
  if x.issued = x.head ∨ !d.rclUp then d
  else
    let a := x.ring + 64 * (x.head.toNat % x.size)
    let d := d.endAsk a .once
    let h : Held := { no := x.head.toNat, line := line, period := d.per.number.toNat + 1, poison := poison }
    let d := d.modQ c q fun y => { y with held := y.held ++ [h], head := y.head + 1 }
    let d := d.putBytes (x.lineAddr 2) (leBytes (x.head + 1).toNat 8)
    if poison then
      let d := { d with rcl := { d.rcl with poisonIn := satInc d.rcl.poisonIn } }
      let d := d.event .fault 0x0301 (BitVec.ofNat 64 a) 0x101
      let later := (List.range (x.issued - x.head).toNat).map fun i => x.ring + 64 * ((x.head.toNat + i) % x.size)
      let d := (later.foldl (fun d a => d.endAsk a .once) d).modQ c q fun y => { y with issued := y.head }
      (if x.st = .enabled then d.queueError c q 3 else d).finishEnable c q
    else (d.issueReads c q 64).finishEnable c q

/-! ## Dispatch (R155, R33, R362) -/

/-- Work of the context for Periods before `n` that has not finished (R33). -/
def Dev.earlierWork (d : Dev) (c : CtxId) (n : Nat) : Bool :=
  d.cmds.any (fun x => x.c = c && decide (x.period < n)) ||
    d.ctx[c].queue.toList.any fun x => x.held.any fun h => decide (h.period < n)

/-- Work of Period `n` is released (R33, R36, R37). -/
def Dev.released (d : Dev) (c : CtxId) (n : Nat) : Bool :=
  decide (n ≤ d.per.number.toNat) && (d.ctx[c].g.skip || !d.earlierWork c n)

/-- The next entry of a queue can be dispatched. -/
def Dev.dispatchable (d : Dev) (c : CtxId) (q : QId) : Bool :=
  let x := d.ctx[c].queue[q]
  match x.held with
  | [] => false
  | h :: _ => x.launch.isNone && decide (x.recs.length < 256) && d.released c h.period

/-- The queue whose turn it is: the first from `turn` up that can dispatch (R362). -/
def Dev.turnOf (d : Dev) (c : CtxId) : Option QId :=
  ((List.finRange 4).map fun i => d.ctx[c].turn + i).find? fun q => d.dispatchable c q

/-- ARG0 of a command that has not run: the session of a codec command, and no CSN for a collective (Table 15-12). -/
def entryArg0 (l : Line) : Word :=
  let k := ent l 0 1
  if 0x30 ≤ k ∧ k ≤ 0x34 then BitVec.ofNat 32 (ent l 16 1)
  else if 0x10 ≤ k ∧ k ≤ 0x12 then 0xFFFFFFFF else 0

/-- The command that an entry makes; nothing is taken from the bytes of a poisoned one (R362). -/
def entryCmd (c : CtxId) (q : QId) (h : Held) : Cmd :=
  if h.poison then { id := 0, c := c, q := q, entryNo := h.no, launch := none, kind := 0, entry := h.line, period := h.period
                     waits := [], sig := none, arg0 := 0, arg1 := 0 }
  else
  { id := 0, c := c, q := q, entryNo := h.no, launch := none, kind := ent h.line 0 1, entry := h.line, period := h.period
    waits := entryWaits h.line, sig := entrySig h.line, arg0 := entryArg0 h.line
    arg1 := if ent h.line 0 1 = 1 then 0xFFFFFFFF else 0 }

/-- Dispatch the next entry of a queue. -/
def Dev.dispatch (d : Dev) (c : CtxId) (q : QId) : Dev :=
  if !d.ctx[c].resident ∨ d.turnOf c ≠ some q then d
  else
    match d.ctx[c].queue[q].held with
    | [] => d
    | h :: rest =>
      let d := d.modCtx c fun x => { x with turn := q + 1 }
      let d := (d.modQ c q fun x => { x with held := rest }).issueReads c q 64
      if h.poison then
        let (id, d) := d.newCmd { entryCmd c q h with fault := 6 }
        d.endCmd id stDepFailed
      else if entryRejected h.line then
        let (id, d) := d.newCmd { entryCmd c q h with waits := [], fault := 8 }
        d.endCmd id stDepFailed
      else
        let (id, d) := d.newCmd (entryCmd c q h)
        if d.ctx[c].noPair then d.endCmd id stDepFailed
        else if ent h.line 0 1 ≠ 1 then d
        else if d.ctx[c].g.quota = 0 then d.endCmd id stArrays
        else d.modQ c q fun x => { x with launch := some id }

/-! ## LAUNCH (R156) -/

/-- The launch no longer holds back its queue. -/
def Dev.releaseQueue (d : Dev) (x : Cmd) : Dev :=
  d.modQ x.c x.q fun y => if y.launch = some x.id then { y with launch := none } else y

/-- The launch completes with a status and no word has issued. -/
def Dev.endLaunch (d : Dev) (x : Cmd) (st : BitVec 8) : Dev := (d.releaseQueue x).endEntry x st 0

/-- A launch meets a program fault before any word issues (R156, R170). -/
def Dev.launchFault (d : Dev) (x : Cmd) (cls : BitVec 8) (build : Word) : Dev :=
  (d.reportFault x.c x.q cls 0xFFFFFFFF).endLaunch { x with arg0 := build, arg1 := 0xFFFFFFFF, fault := cls } stDepFailed

/-- The checks of Table 07-4 but MCAST and CMP. -/
def headerOk (bs : List Byte) (shareUnits : Nat) : Bool :=
  decide (natAt bs 0 4 = 0x504B584F) && decide (natAt bs 4 2 = 0x9600) && decide (natAt bs 6 2 = 1) &&
    decide (1 ≤ natAt bs 8 4) && decide (natAt bs 8 4 ≤ 16777216) && decide (natAt bs 12 4 < natAt bs 8 4) &&
    decide (natAt bs 16 1 ≤ shareUnits) && decide (natAt bs 19 1 = 0) && decide (natAt bs 24 40 = 0)

/-- The registers at the start of a program (Table 07-5). -/
def Dev.startRegs (d : Dev) (x : Cmd) (entry : Nat) : Snap :=
  let s : Vector DWord 64 := Vector.replicate 64 0
  let s := s.set 1 (BitVec.ofNat 64 (ent x.entry 24 8))
  let s := s.set 2 (BitVec.ofNat 64 (x.period % 2 ^ 32))
  let s := s.set 3 (BitVec.ofNat 64 x.c.val)
  let s := s.set 4 (BitVec.ofNat 64 x.entryNo)
  let s := s.set 5 (BitVec.ofNat 64 (ent x.entry 32 4))
  let s := s.set 6 (BitVec.ofNat 64 d.ctx[x.c].g.base)
  let s := s.set 7 (BitVec.ofNat 64 (d.flt.pool + 256 * d.ctx[x.c].g.quota))
  { s := s, pc := BitVec.ofNat 32 entry }

/-- A launch whose waits are met starts when no program runs (R156); one dispatched before the quota became 0 starts too
(DESIGN CHOICE, log entry 89). -/
def Dev.startLaunch (d : Dev) (x : Cmd) : Dev :=
  if d.ctx[x.c].cp.prog.isSome ∨ d.ctx[x.c].cp.pair.isNone then d
  else
    let image := ent x.entry 16 8 % 2 ^ 52
    if image % 64 ≠ 0 ∨ ent x.entry 36 28 ≠ 0 then d.launchFault x 7 0
    else
      let (bs, d) := d.loadAddr (.cmd x.id) image 64
      if anyBad bs then d.launchFault x 6 0
      else
        let h := bytesOf bs
        let build : Word := BitVec.ofNat 32 (natAt h 20 4)
        let g := d.ctx[x.c]
        if !headerOk h g.g.units then d.launchFault x 7 build
        else if BitVec.ofNat 8 (natAt h 17 1) &&& ~~~g.heldMc ≠ 0 ∨ BitVec.ofNat 8 (natAt h 18 1) &&& ~~~g.heldCmp ≠ 0 then
          d.endLaunch { x with arg0 := build } stHeld
        else
          let r := d.startRegs x (natAt h 12 4)
          let d := d.modCmd x.id fun y => { y with phase := .running, arg0 := build }
          let d := d.modCp x.c fun p =>
            { p with st := .running, awaited := 0, r := r, durable := r, escape := [], ckpt := none, drained := false, twait := none
                     prog := some { launch := x.id, image := image, words := natAt h 8 4, build := build } }
          d.plannedSwap x.c

/-! ## Running a ready command -/

/-- Run a command of one of `kinds` that is ready. -/
def Dev.runReady (d : Dev) (id : Nat) (kinds : List Nat) (f : Cmd → Dev → Dev) : Dev :=
  match d.cmd? id with
  | some x => if x.phase = .ready ∧ x.kind ∈ kinds then f x d else d
  | none => d

/-- FENCE (R366). -/
def Dev.runFence (d : Dev) (x : Cmd) : Dev :=
  let f : BitVec 8 := BitVec.ofNat 8 (ent x.entry 17 1)
  let v : Word := BitVec.ofNat 32 (ent x.entry 20 4)
  let d := if ent x.entry 16 1 = 0 then d.fenceSet x.c f v else d.fenceAdd x.c f v false
  d.endCmd x.id stOk

/-! ## Commands -/

/-- TAIL_LINE_INVALIDATION (R360). -/
def execTailLineInvalidation (c : CtxId) (q : QId) (line : Line) (poison : Bool) (s : State) :
    Host.Outcome State Fault Refusal :=
  s.run fun d => d.inService fun d => d.tailLine c q line poison

/-- ENTRY_FETCHED (R360, R362). -/
def execEntryFetched (c : CtxId) (q : QId) (entry : Line) (poison : Bool) (s : State) :
    Host.Outcome State Fault Refusal :=
  s.run fun d => d.inService fun d => d.entryArrives c q entry poison

/-- CPL_RD_INVALIDATION (R367). -/
def execCplRdInvalidation (c : CtxId) (q : QId) (line : Line) (s : State) : Host.Outcome State Fault Refusal :=
  s.run fun d => d.inService fun d => d.cplRdLine c q line false

/-- EVENT_RD_INVALIDATION (R369). -/
def execEventRdInvalidation (ring : Option CtxId) (line : Line) (s : State) : Host.Outcome State Fault Refusal :=
  s.run fun d => d.inService fun d => d.eventRdLine ring line false

/-- ENTRY_DISPATCH (R155). -/
def execEntryDispatch (c : CtxId) (q : QId) (s : State) : Host.Outcome State Fault Refusal :=
  s.run fun d => d.inService fun d => d.dispatch c q

/-- LAUNCH (R156). -/
def execLaunch (id : Nat) (s : State) : Host.Outcome State Fault Refusal :=
  s.run fun d => d.inService fun d => d.runReady id [0x01] fun x d => d.startLaunch x

/-- FENCE_SET (R366). -/
def execFenceSet (id : Nat) (s : State) : Host.Outcome State Fault Refusal :=
  s.run fun d => d.inService fun d => d.runReady id [0x02] fun x d => if ent x.entry 16 1 = 0 then d.runFence x else d

/-- FENCE_ADD (R366). -/
def execFenceAdd (id : Nat) (s : State) : Host.Outcome State Fault Refusal :=
  s.run fun d => d.inService fun d => d.runReady id [0x02] fun x d => if ent x.entry 16 1 = 1 then d.runFence x else d

end Sys2Proof.Machine
end

