-- ==== Sys2Proof/Machine/Clause.lean ====
section
/-!
DEFINITION. Machine/Clause.lean: how a clause word issues (R149 to R153, R171, R176 to R196) as one shared operation that
every slot operation runs, its loads and stores under the program's own order (R167), and the release of a durable
checkpoint (R161, R171).
-/
namespace Sys2Proof.Machine

/-! ## Which slots act -/

/-- The slots of a word whose guards are true, that are defined and are no NOP; `illegal`: one with a true guard holds an
undefined encoding (R176 to R178). -/
structure Acts where
  q : Option QSlot
  t : Option TSlot
  v : Option VSlot
  a : Option ASlot
  s1 : Option SSlot
  s0 : Option SSlot
  illegal : Bool

def pickSlot {α : Type} (guard undef nop : Bool) (x : α) : Option α := if guard && !undef && !nop then some x else none

def Acts.of (r : Snap) (w : ClauseWord) : Acts :=
  let gq := r.guard w.q.gp w.q.gn
  let gt := r.guard w.t.gp w.t.gn
  let gv := r.guard w.v.gp w.v.gn
  let ga := r.guard w.a.gp w.a.gn
  let g1 := r.guard w.s1.gp w.s1.gn
  let g0 := r.guard w.s0.gp w.s0.gn
  { q := pickSlot gq w.q.undefined (w.q.op = 0) w.q
    t := pickSlot gt w.t.undefined (w.t.op = 0) w.t
    v := pickSlot gv w.v.undefined (w.v.op = 0) w.v
    a := pickSlot ga w.a.undefined (w.a.op = 0) w.a
    s1 := pickSlot g1 (w.s1.undefined false) (w.s1.op = 0) w.s1
    s0 := pickSlot g0 (w.s0.undefined true) (w.s0.op = 0) w.s0
    illegal := (gq && w.q.undefined) || (gt && w.t.undefined) || (gv && w.v.undefined) || (ga && w.a.undefined) ||
      (g1 && w.s1.undefined false) || (g0 && w.s0.undefined true) }

/-- What a slot that may be absent reads or writes. -/
def uses {α : Type} (x : Option α) (f : α → List Res) : List Res := (x.map f).getD []

def Acts.reads (x : Acts) : List Res :=
  (uses x.q QSlot.reads ++ uses x.t TSlot.reads ++ uses x.v VSlot.reads ++ uses x.a ASlot.reads ++
    uses x.s1 (SSlot.reads false) ++ uses x.s0 (SSlot.reads true)).filter Res.real
def Acts.writes (x : Acts) : List Res :=
  (uses x.q QSlot.writes ++ uses x.v VSlot.writes ++ uses x.a ASlot.writes ++
    uses x.s1 (SSlot.writes false) ++ uses x.s0 (SSlot.writes true)).filter Res.real

/-- Does the active Q slot hold this operation? -/
def Acts.qIs (x : Acts) (op : BitVec 8) : Bool := match x.q with | some f => f.op == op | none => false

/-- Resources that loads in flight will write (R151, R192). -/
def Snap.awaited (r : Snap) : List Res :=
  r.loads.flatMap fun l => Res.d l.dest :: (match l.ldt with | some i => [Res.ldt i] | none => [])

/-- The word waits for a result: a source or destination is awaited; END waits for every load (R151, R191). -/
def Acts.waitsResult (x : Acts) (r : Snap) : Bool :=
  let aw := r.awaited.filter Res.real
  (x.reads ++ x.writes).any aw.contains || (x.qIs 7 && !r.loads.isEmpty)

/-! ## Effects in the escape buffer -/

def Effect.isStore : Effect → Bool | .store _ _ _ => true | .rup _ _ _ => true | .ldt _ _ _ => true | .ldtld _ => true | _ => false

/-- Command operations and stores that a word adds to the escape buffer. -/
def Acts.cmdOps (x : Acts) : Nat :=
  (if x.t.isSome then 1 else 0) + (match x.q with | some f => if f.op = 1 ∨ f.op = 4 then 0 else 1 | none => 0)
def Acts.stores (x : Acts) : Nat :=
  (match x.a with | some f => if f.isStore ∨ f.op = 0x11 then 1 else 0 | none => 0) +
    (match x.v with | some f => if f.op = 0x20 then 1 else 0 | none => 0)
/-- Commands the word issues (R151). -/
def Acts.commands (x : Acts) : Nat := (if x.t.isSome then 1 else 0) + (if x.qIs 6 then 1 else 0)

/-- The escape buffer, the limit of 64 commands, and the records a queue may hold leave room (R151, R171, R367). -/
def Dev.roomFor (d : Dev) (c : CtxId) (q : QId) (x : Acts) : Bool :=
  let cp := d.ctx[c].cp
  let ops := cp.escape.filter fun e => !e.isStore
  let sts := cp.escape.filter Effect.isStore
  decide (ops.length + x.cmdOps ≤ 16 ∧ sts.length + x.stores ≤ 64) &&
    (x.commands = 0 || decide (d.outstanding c + x.commands ≤ 64)) &&
    (!x.qIs 5 || decide (d.ctx[c].queue[q].recs.length < 256))

/-- Bytes that the stores among some effects give to `n` bytes at an address: place and value, and whether each granule is
written whole (R167). -/
def overlayOf (es : List Effect) (space a n : Nat) : List (Nat × Byte × Bool) :=
  let g := if space = 0 then 64 else 8
  es.flatMap fun e =>
    match e with
    | .store sp b bs =>
      if sp = space then
        (List.range n).filterMap fun i =>
          if b ≤ a + i ∧ a + i < b + bs.length then
            let lo := a + i - (a + i) % g
            some (i, bs.getD (a + i - b) 0, decide (b ≤ lo ∧ lo + g ≤ b + bs.length))
          else none
      else []
    | _ => []

/-- The same for the program's own stores in the escape buffer. -/
def Cp.overlay (p : Cp) (space a n : Nat) : List (Nat × Byte × Bool) := overlayOf p.escaped space a n

def overlaid (l : List (Nat × Byte × Bool)) (bs : List RByte) : List RByte :=
  bs.zipIdx.map fun (b, i) => l.foldl (fun b o => if o.1 = i then (o.2.1, b.2 && !o.2.2) else b) b

/-- The entry of the LDT as it stands after every earlier LDTLD of the program (R183). -/
def Dev.ldtSeen (d : Dev) (c : CtxId) (i : BitVec 8) : BitVec 2048 :=
  d.ctx[c].cp.escaped.foldl (fun e x => match x with | .ldt j v _ => if j = i then v else e | _ => e) (d.ldtEntry c i.toNat)

/-- The row-unit table word as the program sees it (R188). -/
def Dev.rupSeen (d : Dev) (c : CtxId) (epi : BitVec 8) (i : Nat) : Line :=
  d.ctx[c].cp.escaped.foldl (fun l x => match x with
    | .rup e k v => if e = epi ∧ k.toNat = i then v else l | _ => l) (d.epiWord c epi.toNat i)

/-- The lines that an access at a 52-bit address touches. -/
def linesOf (a n : Nat) : List Nat := (linePieces a n).map fun p => p.1 % 2 ^ 52 - p.1 % 64

/-- Every line of an access is at hand (R349, R351). -/
def Dev.linesHeld (d : Dev) (a n : Nat) : Bool := (linesOf a n).all d.atHand

/-! ## Arithmetic of the V and S slots -/

/-- Minimum and maximum of two FP32 values (R186). -/
def minf (a b : Word) : Word :=
  if (f32 a).isNan || (f32 b).isNan then f32NaN
  else if (f32 a).lt (f32 b) then a else if (f32 b).lt (f32 a) then b else if a.getLsbD 31 then a else b
def maxf (a b : Word) : Word :=
  if (f32 a).isNan || (f32 b).isNan then f32NaN
  else if (f32 a).lt (f32 b) then b else if (f32 b).lt (f32 a) then a else if a.getLsbD 31 then b else a

def zipLanes (f : Word → Word → Word) (a b : Line) : Line := ofLanes (List.zipWith f (lanes a) (lanes b))

/-- The sum of the lanes in its fixed tree (R186). -/
def sumLanes (v : Line) : Word :=
  let l := lane v
  let half (o : Nat) := fadd32 (fadd32 (fadd32 (l o) (l (o + 1))) (fadd32 (l (o + 2)) (l (o + 3))))
    (fadd32 (fadd32 (l (o + 4)) (l (o + 5))) (fadd32 (l (o + 6)) (l (o + 7))))
  fadd32 (half 0) (half 8)

/-- VPACK (R187). -/
def packLanes (f : VSlot) (r : Snap) : Line :=
  let m := (RMode.ofCode f.rm.toNat).getD .rne
  ofHalves ((lanes (r.vr f.va) ++ lanes (r.vr f.vb)).zipIdx.map fun (x, l) =>
    let rnd := if f.rm = 4 then (srWord ((r.sr 5).setWidth 32) f.imm ((r.sr f.sr).toNat + l)).toNat else 0
    (toBf16 m rnd (f32 x)).code)

/-- An FP32 value with the NaN that the Kraip generates for any NaN (R54, R71). -/
def quiet (x : Word) : Word := if (f32 x).isNan then f32NaN else x

/-- The vector result of a V operation, where it has one. -/
def vResult (f : VSlot) (r : Snap) (rup : Line) : Line :=
  let a := r.vr f.va
  let b := r.vr f.vb
  match f.op.toNat with
  | 1 => zipLanes fadd32 a b
  | 2 => zipLanes fsub32 a b
  | 3 => zipLanes fmul32 a b
  | 4 => ofLanes (List.zipWith (fun xy z => fma32 xy.1 xy.2 z) (List.zip (lanes a) (lanes b)) (lanes (r.vr f.vc)))
  | 5 => zipLanes minf a b
  | 6 => zipLanes maxf a b
  | 7 => match Fn.ofCode f.fn.toNat with
    | some fn => ofLanes ((lanes a).map (fn.eval false))
    | none => a
  | 8 => packLanes f r
  | 9 => ofLanes ((List.range 16).map fun l =>
      quiet (a.extractLsb' (16 * (16 * (f.ix.toNat % 2) + l)) 16 ++ (0 : BitVec 16)))
  | 0xA => ofLanes (List.replicate 16 ((r.sr f.sr).setWidth 32))
  | 0xC => ofLanes ((lanes a).set f.ix.toNat ((r.sr f.sr).setWidth 32))
  | 0xD => ofLanes (sumLanes a :: List.replicate 15 0)
  | 0x10 => a &&& b
  | 0x11 => a ||| b
  | 0x12 => a ^^^ b
  | 0x13 => zipLanes (· + ·) a b
  | _ => rup

def vWrites (f : VSlot) (r : Snap) (rup : Line) : List (Dest × Line) :=
  if f.op = 0x20 then []
  else if f.op = 0xB then [(.s f.sr, (lane (r.vr f.va) f.ix.toNat).setWidth 512)]
  else [(.v f.vd, vResult f r rup)]

/-- Signed integer of an FP32 value, toward zero (CVTFI). -/
def cvtfi (x : Word) : DWord :=
  match f32 x with
  | .nan => 0
  | .inf s => if s then 0x8000000000000000#64 else 0x7FFFFFFFFFFFFFFF#64
  | .fin s n dn =>
    let t := n / dn
    if s then (if 2 ^ 63 ≤ t then 0x8000000000000000#64 else BitVec.ofInt 64 (-(t : Int)))
    else (if 2 ^ 63 ≤ t then 0x7FFFFFFFFFFFFFFF#64 else BitVec.ofNat 64 t)

/-- The scalar result of an S operation that writes RD (Table 08-11). -/
def sResult (d : Dev) (f : SSlot) (r : Snap) : DWord :=
  let a := r.sr f.ra
  let b := f.b r
  let fa : Word := a.setWidth 32
  let fb : Word := b.setWidth 32
  match f.op.toNat with
  | 1 => a + b
  | 2 => a - b
  | 3 => a &&& b
  | 4 => a ||| b
  | 5 => a ^^^ b
  | 6 => a <<< (b.toNat % 64)
  | 7 => a >>> (b.toNat % 64)
  | 8 => a.sshiftRight (b.toNat % 64)
  | 9 => a * b
  | 0xA => if b = 0 then BitVec.allOnes 64 else a / b
  | 0xB => if b = 0 then a else a % b
  | 0xC => if a.slt b then a else b
  | 0xD => if a.slt b then b else a
  | 0xE => f.imm ++ fa
  | 0x20 => (fadd32 fa fb).setWidth 64
  | 0x21 => (fsub32 fa fb).setWidth 64
  | 0x22 => (fmul32 fa fb).setWidth 64
  | 0x23 => (fma32 fa fb ((r.sr f.rd).setWidth 32)).setWidth 64
  | 0x24 => (minf fa fb).setWidth 64
  | 0x25 => (maxf fa fb).setWidth 64
  | 0x28 => (intToF32 a.toInt).setWidth 64
  | 0x29 => cvtfi fa
  | 0x32 => (r.pc + 1).setWidth 64
  | 0x33 => a - 1
  | 0x38 => d.per.number
  | _ => BitVec.ofNat 64 d.tsNs

/-- The predicate result of an S operation that writes PD. -/
def pResult (f : SSlot) (r : Snap) : Bool :=
  let a := r.sr f.ra
  let b := f.b r
  let pa := r.pr f.pa
  let pb := r.pr f.pb
  match f.op.toNat with
  | 0x10 => a == b
  | 0x11 => a != b
  | 0x12 => a.slt b
  | 0x13 => a.ult b
  | 0x14 => a.sle b
  | 0x15 => a.ule b
  | 0x18 => pa && pb
  | 0x19 => pa || pb
  | 0x1A => pa != pb
  | 0x1B => pa && !pb
  | 0x26 => (f32 (a.setWidth 32)).lt (f32 (b.setWidth 32))
  | _ => (f32 (a.setWidth 32)).eqv (f32 (b.setWidth 32))

def bitLine (b : Bool) : Line := if b then 1 else 0

def sWrites (d : Dev) (s0 : Bool) (f : SSlot) (r : Snap) : List (Dest × Line) :=
  match sForm s0 f.op with
  | .alu | .inshi | .cvt | .call | .loop | .clock => [(.s f.rd, (sResult d f r).setWidth 512)]
  | .cmp | .pred => [(.p f.pd, bitLine (pResult f r))]
  | _ => []

/-- The next word (R153, R194); s0 reads 0 after LOOP's write, which it discards. -/
def nextPc (f : Option SSlot) (r : Snap) : Word :=
  match f with
  | none => r.pc + 1
  | some f =>
    match sForm false f.op with
    | .br | .call => branchTo r.pc f.imm
    | .brr => (r.sr f.ra).setWidth 32
    | .loop => if f.rd = 0 ∨ r.sr f.ra - 1 = 0 then r.pc + 1 else branchTo r.pc f.imm
    | _ => r.pc + 1

/-! ## Faults (R170, R178) -/

/-- The store of an A slot. -/
def storeOf (f : ASlot) (r : Snap) : Effect :=
  let v : Line := if f.op = 0xD then r.vr f.vr else (r.sr f.rd).setWidth 512
  .store f.space.toNat (f.ea r) (v.bytes.take f.size)

/-- The store of the word's own A slot, which its CMD sees (R153, R181). -/
def Acts.ownStore (x : Acts) (r : Snap) : List Effect :=
  match x.a with | some f => if f.isStore then [storeOf f r] else [] | none => []

/-- The bytes a CMD reads (R181): `own` is the store of the word's A slot. -/
def Dev.cmdBytes (d : Dev) (c : CtxId) (q : QId) (a : Nat) (own : List Effect) : List RByte × Dev :=
  let (bs, d') := d.loadSpace (.prog c q) c none 0 a 64
  (overlaid (overlayOf (d.ctx[c].cp.escaped ++ own) 0 a 64) bs, d')

def destBad (r : Snap) (x : Res) : Bool := match x with | .d y => r.bad.contains y | .ldt _ => false

/-- The class of the fault that a word raises by its fields and the registers it reads: the lowest of those it raises
(R178); 0 for none. -/
def Dev.wordFault (d : Dev) (c : CtxId) (x : Acts) : Nat :=
  let r := d.ctx[c].cp.r
  let ws := x.writes.filter fun y => match y with | .d _ => true | .ldt _ => false
  let tBad : Bool := match x.t with
    | some f => ldtType (d.ldtSeen c f.ldt) ≠ f.op.toNat
    | none => false
  let aMis : Bool := match x.a with
    | some f => if f.op = 0x11 then f.ea r % 64 ≠ 0 else (f.isLoad || f.isStore) && f.ea r % f.size ≠ 0
    | none => false
  let qMis : Bool := match x.q with
    | some f => f.op = 6 && (r.sr f.sr).toNat % 64 ≠ 0
    | none => false
  let shr : Bool := match x.a with
    | some f => f.space = 1 && (f.isLoad || f.isStore) && !d.slotRangeOk c (f.ea r) f.size
    | none => false
  let mark : Bool := (x.reads ++ x.writes).any (destBad r) || (x.qIs 7 && !r.bad.isEmpty)
  if x.illegal then 1
  else if !ws.Nodup then 2
  else if tBad then 3
  else if aMis || qMis then 4
  else if shr then 5
  else if mark then 6
  else 0

/-- The class of the fault that the bytes a CMD has read raise (R160, R181); 0 for none. -/
def cmdFault (x : Acts) (cb : List RByte) : Nat :=
  let l := Line.ofBytes (bytesOf cb)
  if !x.qIs 6 then 0
  else if anyBad cb then 6
  else if ent l 0 1 = 1 || entryRejected l then 8
  else 0

/-! ## Effects -/

/-- A load's value as its destination takes it. -/
def loadValue (signed : Bool) (bs : List Byte) : Line :=
  if signed then ((BitVec.ofNat 32 (leNat bs)).signExtend 64).setWidth 512 else Line.ofBytes bs

/-- The memory key of an address that a program reads, where it lies in LPDDR or in a scratchpad (R127, R250). -/
def Dev.keyOf (d : Dev) (c : CtxId) (sp a : Nat) : Option Nat :=
  if sp = 0 then (if d.region a = .software then some a else none)
  else (d.slotArr (a / padSize)).map fun x => padKey x.val (d.shareBase c + a % padSize)

/-- Issue the load of an A slot: its bytes are read now, or, of lines not at hand, when these have come (R189, R191, R192). -/
def Dev.issueLoad (d : Dev) (c : CtxId) (q : QId) (f : ASlot) (r : Snap) : Load × Dev :=
  let a := f.ea r
  let sp := f.space.toNat
  let dest := if f.op = 0xC then Dest.v f.vr else Dest.s f.rd
  let ldt := if f.op = 0x11 then some f.ldti else none
  let ov := d.ctx[c].cp.overlay sp a f.size
  if sp = 0 ∧ !d.linesHeld a f.size then
    let l : Load := { dest := dest, bytes := List.replicate f.size 0, bad := false, signed := f.op = 5, companion := some a,
                      need := linesOf a f.size, patch := ov, ldt := ldt }
    (linesOf a f.size).foldl (fun (acc : Load × Dev) ln =>
      if acc.2.atHand ln then
        let (bs, d) := acc.2.loadSpace (.prog c q) c none 0 ln 64
        (acc.1.fill ln bs none, d)
      else (acc.1, acc.2.want ln)) (l, d)
  else
    let (bs, d) := d.loadSpace (.prog c q) c none sp a f.size
    let bs := overlaid ov bs
    ({ dest := dest, bytes := bytesOf bs, bad := anyBad bs, signed := f.op = 5, ldt := ldt, key := d.keyOf c sp a }, d)

/-- The command of a T slot (R183). -/
def tensorOf (f : TSlot) (r : Snap) : Effect :=
  .tensor
    { attn := f.op = 2, ldt := f.ldt, shape := [f.rm, f.rn, f.rk, f.rp0, f.rp1, f.rp2].map fun i => (r.sr i).toNat
      waits := (if f.w0e then [⟨f.w0f, (r.sr f.w0t).setWidth 32⟩] else []) ++
        (if f.w1e then [⟨f.w1f, (r.sr f.w1t).setWidth 32⟩] else [])
      sig := if f.se then some f.sf else none, seed := (r.sr 5).setWidth 32 }

/-- The effect of a Q operation other than a wait (Table 08-3). -/
def qEffects (f : QSlot) (r : Snap) (cb : List RByte) : List Effect :=
  match f.op.toNat with
  | 2 => [.fset f.f ((r.sr f.sr).setWidth 32 + f.imm)]
  | 3 => [.fadd f.f f.imm]
  | 5 => [.post (f.imm.setWidth 16)]
  | 6 => [.cmd (Line.ofBytes (bytesOf cb))]
  | 7 => [.endp]
  | _ => []

/-- At the end of a word after which the escape buffer holds an effect, a checkpoint is taken when none is in flight
(R171). -/
def Cp.checkpoint (p : Cp) : Cp :=
  if p.ckpt.isNone ∧ p.escape ≠ [] then { p with ckpt := some (p.r, p.escape), escape := [], drained := false } else p

/-- Issue a word that waits for nothing and raises no fault (R152, R153). `pw` is what the Q slot's wait writes. -/
def Dev.issueWord (d : Dev) (c : CtxId) (q : QId) (x : Acts) (pw : List (Dest × Line)) (cb : List RByte) : Dev :=
  let r := d.ctx[c].cp.r
  let (loads, d) := match x.a with
    | some f => if f.isLoad then (let (l, d) := d.issueLoad c q f r; ([l], d)) else ([], d)
    | none => ([], d)
  let aw := match x.a with
    | some f => if f.op = 0x10 then [(Dest.s f.rd, BitVec.ofNat 512 (f.ea r))] else []
    | none => []
  let vw := match x.v with
    | some f => vWrites f r (if f.op = 0x21 then d.rupSeen c f.epi f.ix.toNat else 0)
    | none => []
  let sw := (match x.s1 with | some f => sWrites d false f r | none => []) ++
    (match x.s0 with | some f => sWrites d true f r | none => [])
  let es := x.ownStore r ++ (match x.t with | some f => [tensorOf f r] | none => []) ++
    (match x.v with | some f => if f.op = 0x20 then [Effect.rup f.epi (f.ix.setWidth 4) (r.vr f.va)] else [] | none => []) ++
    (match x.a with | some f => if f.op = 0x11 then [Effect.ldtld f.ldti] else [] | none => []) ++
    (match x.q with | some f => qEffects f r cb | none => [])
  let r' := (aw ++ vw ++ sw ++ pw).foldl (fun r y => r.wr y.1 y.2) r
  let r' := { r' with pc := if x.qIs 7 then r.pc else nextPc x.s1 r, loads := r.loads ++ loads }
  d.modCp c fun cp => Cp.checkpoint
    { cp with
      r := r', lastPc := r.pc, st := .running, awaited := 0, twait := none, escape := cp.escape ++ es
      prog := cp.prog.map fun p => if x.qIs 7 then { p with ending := true } else p }

/-- What a Q-slot wait does now: none while the word must wait, else the predicate it writes (R165, R166, R179). -/
def Dev.qWait (d : Dev) (c : CtxId) (f : QSlot) : Option (List (Dest × Line)) :=
  let r := d.ctx[c].cp.r
  match f.op.toNat with
  | 1 =>
    if reaches (d.fence c f.f) ((r.sr f.sr).setWidth 32 + f.imm) then
      some [(.p f.pd, bitLine (d.fencePoisoned c f.f))]
    else none
  | 4 =>
    if d.ctx[c].cp.twait.any (·.fired) then some [(.p f.pd, 1)]
    else if !d.holdsCmp c f.ci.toNat then some [(.p f.pd, 0)]
    else if d.ctx[c].cp.twait.any fun w => w.period ≠ d.per.number.toNat then some [(.p f.pd, 0)]
    else if (d.cmp[f.ci.toNat]'(f.ci.isLt)).fired then some [(.p f.pd, 1)]
    else none
  | _ => some []

/-- Hold the word (R151). -/
def Dev.holdWord (d : Dev) (c : CtxId) (st : CpState) (awaited : BitVec 8 := 0) (tw : Option (BitVec 3) := none) : Dev :=
  d.modCp c fun cp => { cp with
    st := st, awaited := awaited
    twait := cp.twait.or (tw.map fun i => { period := d.per.number.toNat, ci := i }) }

/-- A fault of the word at the program counter. -/
def Dev.faultHere (d : Dev) (c : CtxId) (cls : Nat) : Dev :=
  (d.programFault c (BitVec.ofNat 8 cls) d.ctx[c].cp.r.pc).retireFaulted c

/-- A CMD whose 64 bytes lie in companion memory that is not held waits for them (R181). -/
def Dev.cmdAwaits (d : Dev) (c : CtxId) (x : Acts) : Option Nat :=
  match x.q with
  | some f =>
    let a := (d.ctx[c].cp.r.sr f.sr).toNat % 2 ^ 52
    if f.op = 6 ∧ a % 64 = 0 ∧ !d.linesHeld a 64 then some a else none
  | none => none

/-- The bytes that the word's CMD reads, and the device that has read them. -/
def Dev.cmdRead (d : Dev) (c : CtxId) (q : QId) (x : Acts) : List RByte × Dev :=
  let r := d.ctx[c].cp.r
  match x.q with
  | some f => if f.op = 6 then d.cmdBytes c q ((r.sr f.sr).toNat % 2 ^ 52) (x.ownStore r) else ([], d)
  | none => ([], d)

/-- Try to issue a word: it waits, raises a fault, or issues whole (R150 to R153). The read of a CMD whose word faults leaves
only the memory's own report of poison (DEDUCED, log entry 98). -/
def Dev.tryWord (d : Dev) (c : CtxId) (q : QId) (w : ClauseWord) : Dev :=
  let r := d.ctx[c].cp.r
  let x := Acts.of r w
  if x.waitsResult r then d.holdWord c .stalled
  else
    match (match x.q with | some f => d.qWait c f | none => some []) with
    | none =>
      let f := x.q.getD {}
      if f.op = 1 then d.holdWord c .waiting f.f else d.holdWord c .waiting 0 (some f.ci)
    | some pw =>
      if !d.roomFor c q x then d.holdWord c .stalled
      else
        let cls := d.wordFault c x
        if cls ≠ 0 then d.faultHere c cls
        else
          match d.cmdAwaits c x with
          | some a => (d.want a).holdWord c .stalled
          | none =>
            let (cb, d') := d.cmdRead c q x
            match cmdFault x cb with
            | 0 => d'.issueWord c q x pw cb
            | 6 => d'.faultHere c 6
            | cls => d.faultHere c cls

/-- The device address of the word at the program counter (R154). -/
def Program.wordAddr (p : Program) (pc : Word) : Nat := p.image + 64 * (pc.toNat + 1)

/-- A running program has a word to issue: it has neither ended nor faulted, and its pair is in lockstep. -/
def Cp.ready (p : Cp) : Option Program :=
  match p.prog with
  | some g => if g.faulted.isNone && !g.ending && !p.failed then some g else none
  | none => none

/-- The next word cannot issue: the program counter passes WORDS, or the word in the buffer holds an uncorrectable error
(Table 07-6). -/
def Dev.fetchCheck (d : Dev) (c : CtxId) : Dev :=
  let cp := d.ctx[c].cp
  match cp.ready with
  | none => d
  | some g =>
    if g.words ≤ cp.r.pc.toNat then d.faultHere c 9
    else
      match cp.ibuf.find? (·.1 = g.wordAddr cp.r.pc) with
      | some (_, _, true) => d.faultHere c 6
      | _ => d

/-- The word `w` comes to issue on context `c` (R150 to R153, R170). -/
def Dev.clause (d : Dev) (c : CtxId) (w : ClauseWord) : Dev :=
  let cp := d.ctx[c].cp
  match cp.ready, d.launchOf c with
  | some g, some l =>
    match cp.ibuf.find? (·.1 = g.wordAddr cp.r.pc) with
    | some (_, line, _) => if wordOfLine line = w then (d.tryWord c l.q w).fetchCheck c else d
    | none => (d.tryWord c l.q w).fetchCheck c
  | _, _ => d

/-! ## Release of a checkpoint (R161, R171) -/

/-- Issue a direct command of a program (R160). -/
def Dev.progDirect (d : Dev) (c : CtxId) (l : Line) : Dev :=
  match d.progCmd c (ent l 0 1) l (entryWaits l) (entrySig l) with
  | some (id, d) =>
    if ent l 0 1 = 0x10 ∧ nbit (ent l 18 1) 3 then
      let last := (d.ctx[c].cp.programs.find? fun p => d.ctx[c].cp.runs p.launch).bind (·.lastT)
      d.modCmd id fun y => { y with bound := last }
    else d
  | none => d

/-- A store of the program replaces bytes that loads issued before it still await: they keep what stood there (R167). -/
def Load.keepOld (l : Load) (d : Dev) (a n : Nat) : Load :=
  match l.companion with
  | none => l
  | some b =>
    let put := (List.range l.bytes.length).filter fun i =>
      let k := (b + i) % 2 ^ 52
      decide (a ≤ k ∧ k < a + n) && l.need.contains (k - k % 64) && !l.old.any (·.1 = i)
    { l with old := l.old ++ put.map fun i =>
        let k := (b + i) % 2 ^ 52
        let m := d.ownMask (k - k % 64)
        (i, memByte d.mem.cells k, m.getLsbD (2 * (k % 64)) && m.getLsbD (2 * (k % 64) + 1)) }
def Snap.keepOld (r : Snap) (d : Dev) (a n : Nat) : Snap := { r with loads := r.loads.map fun l => l.keepOld d a n }

/-- The stores of a program become visible in program order (R167). -/
def Dev.releaseStore (d : Dev) (c : CtxId) (q : QId) (sp a : Nat) (bs : List Byte) : Dev :=
  let d := if sp = 0 then
      d.modCp c fun p => { p with r := p.r.keepOld d a bs.length, durable := p.durable.keepOld d a bs.length }
    else d
  d.storeSpace (.prog c q) c none sp a bs

def Dev.releaseEffect (d : Dev) (c : CtxId) (q : QId) : Effect → Dev
  | .store sp a bs => d.releaseStore c q sp a bs
  | .ldtld _ => d
  | .rup epi i v => d.modLdt c fun l => { l with rup := alPut 0 (16 * epi.toNat + i.toNat) v l.rup }
  | .ldt i e check => d.modLdt c fun l =>
      { l with
        entries := alPut 0 i.toNat e l.entries
        refused := if check = 0 then l.refused else i
        reason := if check = 0 then l.reason else if check = 0xFF then 0xF else check.setWidth 4 }
  | .tensor t =>
    match d.progCmd c (if t.attn then 0x41 else 0x40) 0 t.waits t.sig with
    | some (id, d) =>
      if t.attn then d.issueAttn c id t.ldt.toNat t.shape t.seed
      else
        let g (i : Nat) := t.shape.getD i 0
        d.issueMatrix c id t.ldt.toNat ⟨g 0, g 1, g 2, g 3, g 4, g 5⟩ t.seed
    | none => d
  | .cmd l => d.progDirect c l
  | .fset f v => d.fenceSet c f v
  | .fadd f n => d.fenceAdd c f n false
  | .post tag =>
    match d.launchOf c with
    | some l => (d.modCp c fun cp => cp.modProgram l.id fun p => { p with ops := p.ops ++ [.post tag] }).settle c
    | none => d
  | .endp =>
    match d.launchOf c with
    | some l => (d.modCp c fun cp => cp.modProgram l.id fun p => { p with ops := p.ops ++ [.endp] }).retireProgram c
    | none => d

def Effect.awaitsData : Effect → Bool | .ldtld _ => true | _ => false

/-- The checkpoint in flight becomes durable: its effects are released in program order, and the next is taken. One that
holds the place of an LDTLD is released when that has its data (DEDUCED, log entry 99). -/
def Dev.durable (d : Dev) (c : CtxId) : Dev :=
  let cp := d.ctx[c].cp
  match cp.ckpt with
  | none => d
  | some (snap, es) =>
    if cp.failed then d
    else if es.any Effect.awaitsData then d.modCp c fun cp => { cp with drained := true }
    else
      let q := match d.launchOf c with | some x => x.q | none => 0
      let d := d.modCp c fun cp => { cp with durable := snap, ckpt := none, drained := false }
      let d := es.foldl (fun d e => d.releaseEffect c q e) d
      ((d.modCp c Cp.checkpoint).retireFaulted c).plannedSwap c

/-! ## Loads that return -/

/-- The place of an LDTLD in the escape buffer takes its entry and the outcome of the checks (R192). -/
def settleLdt (i : BitVec 8) (e : BitVec 2048) (check : BitVec 8) : List Effect → List Effect
  | [] => []
  | .ldtld j :: es => if j = i then .ldt i e check :: es else .ldtld j :: settleLdt i e check es
  | x :: es => x :: settleLdt i e check es
def Cp.settleLdt (p : Cp) (i : BitVec 8) (e : BitVec 2048) (check : BitVec 8) : Cp :=
  { p with escape := Machine.settleLdt i e check p.escape
           ckpt := p.ckpt.map fun k => (k.1, Machine.settleLdt i e check k.2) }

/-- Lines that the oldest load in flight awaits and that are at hand give their bytes; the others are asked for. -/
def Dev.fillFirst (d : Dev) (c : CtxId) (l : Load) : Dev :=
  l.need.foldl (fun d ln => if d.atHand ln then d.fillLoads ln none else d.want ln) d

/-- What a load that has all its bytes does as it returns (R151, R191, R192). -/
def Dev.returnLoad (d : Dev) (c : CtxId) (l : Load) (rest : List Load) : Dev :=
  match l.ldt with
  | some i =>
    let e := BitVec.ofNat 2048 (leNat l.bytes)
    let check : BitVec 8 := if l.bad then 0xFF else BitVec.ofNat 8 (ldtCheck e)
    let e := if check = 0 then e else e &&& ~~~(BitVec.ofNat 2048 (0xFF * 2 ^ 248))
    let d := d.modCp c fun cp => Cp.settleLdt
      { cp with r := { (cp.r.wr l.dest (check.setWidth 512)) with loads := rest } } i e check
    if d.ctx[c].cp.drained then d.durable c else d
  | none =>
    d.modCp c fun cp => { cp with r :=
      { (cp.r.wr l.dest (loadValue l.signed l.bytes)) with
        loads := rest
        bad := if l.bad ∧ l.dest ≠ .s 0 then l.dest :: cp.r.bad else cp.r.bad } }

/-- The oldest load in flight returns its data when all of it is at hand, with what the read of memory has found; a failed
pair has stopped (R172). -/
def Dev.loadDone (d : Dev) (c : CtxId) (f : EccFinding) : Dev :=
  if d.ctx[c].cp.failed then d
  else
    let d := match d.ctx[c].cp.r.loads with | l :: _ => d.fillFirst c l | [] => d
    match d.ctx[c].cp.r.loads with
    | l :: rest =>
      if l.companion.isSome then d
      else match l.key with
        | some k => (d.demandFinding k f).returnLoad c { l with bad := l.bad || f = .uncorrectable } rest
        | none => d.returnLoad c l rest
    | [] => d

end Sys2Proof.Machine
end

