-- ==== Sys2Proof/Machine/Regs.lean ====
section
/-!
DEFINITION. Machine/Regs.lean: the registers of the privileged window below 0x40_0000 as they read now (R9, R13, R356 and
the register tables of the chapters), the pending and snapshot views, the context windows (R357, R374 to R379).
-/
namespace Sys2Proof.Machine

/-- A register from its fields: (lowest bit, value); a value fits its field. -/
def packs (l : List (Nat × Nat)) : Word := BitVec.ofNat 32 (l.foldl (fun a p => a + p.2 * 2 ^ p.1) 0)

def bnat (b : Bool) : Nat := if b then 1 else 0

/-- Words 0 and 1 of a 64-bit value. -/
def loWord (x : DWord) : Word := x.setWidth 32
def hiWord (x : DWord) : Word := (x >>> 32).setWidth 32

/-! ## Derived fields -/

def Dev.arrCount (d : Dev) (s : ArrState) : Nat := (d.arr.toList.filter (·.st = s)).length

/-- The tile an array runs (R104). -/
def Dev.arrTile (d : Dev) (a : ArrId) : Option Tile := d.arr[a].tile.bind d.tile?

/-- Tiles of a context that are expanded and not placed (R141). -/
def Dev.heldTiles (d : Dev) (c : CtxId) : Nat :=
  (d.tiles.filter fun t => t.c = c && t.phase = .held && !t.retry && t.step = 0).length

/-- Tiles that await a retry (R402). -/
def Dev.retryTiles (d : Dev) : Nat := (d.tiles.filter fun t => t.retry && t.phase = .held).length

def Tile.isSpan (t : Tile) : Bool := match t.work with | .span _ => true | .matrix _ => false
def Dev.spanTilesOf (d : Dev) (c : CtxId) : Nat := 
  (d.tiles.filter fun t => t.c = c && t.isSpan && t.phase ≠ .held && t.phase ≠ .lost).length

/-- Attention commands of a context that hold generations (R222). -/
def Dev.attnsOf (d : Dev) (c : CtxId) : List Attn :=
  d.attns.filter fun a => match d.cmd? a.cmd with | some x => x.c = c | none => false

def Dev.walkState (d : Dev) (c : CtxId) : Nat :=
  if d.attnsOf c = [] then 0 else if d.spanTilesOf c = 0 ∧ (d.attnsOf c).any (fun a => a.done ≠ 0) then 3 else 2

/-- KiB of span states in a context's merge buffer (R234): 4 bytes for m, for ℓ and for each element of O. -/
def Merge.bytes (m : Merge) : Nat :=
  let row (r : Option SmRow) := match r with | some s => 8 + 4 * s.o.length | none => 0
  let rows (l : List (Option SmRow)) := l.foldl (fun a r => a + row r) 0
  m.waiting.foldl (fun a w => a + rows w.2.1) (rows m.rows)
def Dev.mergeBytes (d : Dev) (c : CtxId) : Nat :=
  (d.attnsOf c).foldl (fun a x => x.merges.foldl (fun a m => a + m.bytes) a) 0

def Dev.channelsIn (d : Dev) (s : ChState) : Nat := (d.mem.ch.toList.filter (·.st = s)).length

/-- The live load of an engine (R326): samples per second of its open live sessions, as a fraction over `den`. -/
def Sess.engine (s : Sess) : Nat := if s.d.decode then 4 + s.d.engine else s.d.engine
def Dev.liveSamples (d : Dev) (e : Nat) : Nat :=
  (d.cod.sess.toList.filter fun s => s.st ≠ .free && s.d.live && s.engine = e).foldl
    (fun a s => a + s.d.width * s.d.height) 0
def engineRate : Nat := 1990656000
def Dev.liveLoad (d : Dev) (e : Nat) : Nat := d.liveSamples e * d.per.num * 1000 / (d.per.den * engineRate)

def Coll.waits (x : Coll) : Bool := x.phase = .assigned
/-- The lowest CSN that awaits reservation. -/
def Dev.csnWait (d : Dev) : Option Nat :=
  (d.cjn.colls.filter Coll.waits).foldl (fun a x => match a with | some m => some (min m x.csn) | none => some x.csn) none
def Dev.storeUnits (d : Dev) : Nat := d.cjn.colls.foldl (fun a x => a + x.resv) 0

def popcount {w : Nat} (x : BitVec w) : Nat := ((List.range w).filter fun i => x.getLsbD i).length

def hotDie (v : Vector (BitVec 16) 74) : BitVec 16 :=
  (v.toList.take 16).foldl (fun m x => if m.slt x then x else m) (v.toList.headD 0)

/-! ## The blocks -/

def readSup (d : Dev) (x : Nat) : Word :=
  match x with
  | 0x10 => packs [(28, match d.per.pstate with | .freeRun => 0 | .locked => 1 | .holdover => 2 | .acquiring => 3),
      (26, d.per.source.toNat), (16, d.per.rate.toNat), (0, d.per.number.toNat % 65536)]
  | 0x14 => packs [(0, d.per.applyLast.toNat)]
  | 0x18 => packs [(0, d.per.overrun.toNat)]
  | 0x100 => packs [(0, d.ring.ecb.toNat % 2 ^ 32)]
  | 0x104 => packs [(0, d.ring.ecb.toNat / 2 ^ 32)]
  | 0x108 => packs [(30, d.ring.st.code), (0, bnat d.ring.enable)]
  | 0x10C => d.ring.drop
  | _ => 0

/-- Registers of a context at offset `x` of its 4 KiB (Tables 04-4, 06-9, 07-9, 15-18). -/
def readCtx (d : Dev) (c : CtxId) (x : Nat) : Word :=
  let k := d.ctx[c]
  let cp := k.cp
  if h : x < 0x40 then
    let q := k.queue[x / 16]'(by omega)
    match x % 16 with
    | 0 => packs [(30, q.st.code), (26, q.cause.toNat), (0, bnat q.enable)]
    | 4 => packs [(0, q.qcb.toNat % 2 ^ 32)]
    | 8 => packs [(0, q.qcb.toNat / 2 ^ 32)]
    | 12 => loWord q.head
    | _ => 0
  else if x = 0x40 then packs [(0, k.ring.ecb.toNat % 2 ^ 32)]
  else if x = 0x44 then packs [(0, k.ring.ecb.toNat / 2 ^ 32)]
  else if x = 0x48 then packs [(30, k.ring.st.code), (0, bnat k.ring.enable)]
  else if x = 0x4C then k.ring.drop
  else if x = 0x100 then BitVec.ofNat 32 (d.lexVal (0x2210 + c.val) 1)
  else if x = 0x104 then k.rph.remain
  else if x = 0x108 then packs [(31, bnat k.rph.exhaustedLast),
      (16, popcount (BitVec.ofNat 256 (d.lexVal (0x2230 + c.val) 1))), (0, k.rph.unrepLast.toNat)]
  else if x = 0x10C then packs [(16, k.rph.step2Last.toNat), (0, k.rph.step1Last.toNat)]
  else if x = 0x200 then packs [(24, k.ldt.refused.toNat), (20, k.ldt.reason.toNat),
      (0, (k.ldt.entries.filter fun e => ldtType e.2 ≠ 0).length)]
  else if x = 0x204 then packs [(16, k.ldt.tiles.toNat), (8, d.heldTiles c), (0, k.ldt.selected.toNat)]
  else if x = 0x208 then packs [(16, k.ldt.exceeds.toNat), (0, k.ldt.empty.toNat)]
  else if x = 0x300 then packs [
      (29, match cp.st with | .idle => 0 | .running => 1 | .waiting => 2 | .stalled => 3 | .failover => 4),
      (24, if k.st = .free then 0x1F else match cp.pair with | some p => p.val | none => 0x1F), (16, cp.fault.toNat),
      (8, cp.awaited.toNat), (0, d.outstanding c)]
  else if x = 0x304 then (if cp.st = .idle then cp.lastPc else cp.r.pc)
  else if x = 0x308 then cp.faultPc
  else if x = 0x30C then packs [(16, cp.failovers.toNat), (0, cp.escaped.length)]
  else if h : 0x400 ≤ x ∧ x < 0x800 ∧ x % 4 = 0 then cp.fence[(x - 0x400) / 4]'(by omega)
  else if 0x800 ≤ x ∧ x < 0x820 ∧ x % 4 = 0 then cp.poison.extractLsb' (8 * (x - 0x800)) 32
  else 0

def readArr (d : Dev) (x : Nat) : Word :=
  if x = 0 then packs [(16, d.arrCount .retired), (8, d.arrCount .spare), (0, d.flt.pool)]
  else if h : 0x100 ≤ x ∧ x < 0x440 ∧ x % 4 = 0 then
    let a : ArrId := ⟨(x - 0x100) / 4, by omega⟩
    let y := d.arr[a]
    packs [(30, y.st.code), (29, bnat y.tile.isSome), (28, bnat (y.tile.isSome && y.mcast)),
      (24, match d.arrTile a with | some t => t.c.val | none => 0), (0, y.mismatch.toNat)]
  else if h : 0x500 ≤ x ∧ x < 0x520 ∧ x % 4 = 0 then
    let m := d.mc[(x - 0x500) / 4]'(by omega)
    packs [(31, bnat m.group.isSome), (30, bnat m.operandB),
      (24, match m.holder with | some c => c.val | none => 0x1F),
      (16, match m.group with | some g => g.joined.length | none => 0), (0, m.direct.toNat)]
  else if x = 0x604 then packs [(31, bnat d.inject.isSome), (0, d.injectDetected.toNat)]
  else 0

def readMem (d : Dev) (x : Nat) : Word :=
  if x = 0 then packs [(16, d.reserveK), (8, d.mem.spares.length), (0, d.channelsIn .inService)]
  else if h : 0x100 ≤ x ∧ x < 0x400 ∧ x % 4 = 0 then
    let y := d.mem.ch[(x - 0x100) / 4]'(by omega)
    packs [(29, y.st.code), (16, y.ue.toNat), (0, y.ce.toNat)]
  else if 0x400 ≤ x ∧ x < 0x410 ∧ x % 4 = 0 then
    match d.mem.spares[(x - 0x400) / 4]? with
    | some u => packs [(24, u.channel.val), (0, u.progress)]
    | none => packs [(24, 0xFF)]
  else if x = 0x500 then packs ((List.range 5).map fun i => (4 * i, d.lexVal 0x2301 (i + 1)))
  else if h : 0x600 ≤ x ∧ x < 0x6C0 ∧ x % 4 = 0 then
    let w := d.mem.wcb[(x - 0x600) / 4]'(by omega)
    packs [(24, w.entries.length), (0, w.rmw.toNat)]
  else if x = 0x700 then packs [(16, d.mem.lpddrPasses.toNat), (0, d.mem.spPasses.toNat)]
  else if h : 0x800 ≤ x ∧ x < 0xB40 ∧ x % 4 = 0 then
    let y := d.arr[(x - 0x800) / 4]'(by omega)
    packs [(16, y.ce.toNat), (8, y.ue.toNat)]
  else 0

def readLnk (d : Dev) (x : Nat) : Word :=
  if h : x < 0x480 then
    let p := d.port[x / 64]'(by omega)
    match x % 64 with
    | 0 => packs [(29, p.st.code), (24, match p.nbrPort with | some n => n.val | none => 0x1F), (18, p.nbrModule.val),
        (16, p.dropped.toNat), (0, p.retrains.toNat)]
    | 4 => packs [(16, p.replays.toNat), (0, p.crcFail.toNat)]
    | 8 => p.corrected
    | _ => 0
  else if h : 0x800 ≤ x ∧ x < 0xB60 ∧ x % 4 = 0 then
    let i := (x - 0x800) / 4
    let p := d.port[i / 12]'(by omega)
    have hl : i % 12 < 12 := Nat.mod_lt _ (by decide)
    packs [(30, (p.lanes[i % 12]'hl).code), (0, min 0xFFFF (p.fixedMs d.per.now (i % 12)))]
  else if h : 0x1000 ≤ x ∧ x < 0x1100 ∧ x % 4 = 0 then
    let r := d.grp.routes[(x - 0x1000) / 4]'(by omega)
    packs [(31, bnat r.valid), (18, r.hops.toNat), (0, r.ports.toNat)]
  else if x = 0x2000 then packs [(30, d.grp.role.code), (24, d.grp.head.val), (18, d.grp.module.val),
      (0, popcount d.grp.reachable)]
  else if x = 0x2004 then packs [(16, d.grp.lead.toNat), (0, d.grp.myDelay.toNat)]
  else if 0x4000 ≤ x ∧ x < 0x6000 ∧ x % 4 = 0 then
    let j := (x - 0x4000) / 4
    packs [(16, alGet 0 d.grp.shardGen (2 * j + 1)), (0, alGet 0 d.grp.shardGen (2 * j))]
  else 0

def readCjn (d : Dev) (x : Nat) : Word :=
  match x with
  | 0 => packs [(24, (d.cjn.colls.filter (·.phase = .granted)).length),
      (16, holdAt 8 (d.cjn.colls.filter Coll.waits).length), (8, cdiv d.storeUnits 4)]
  | 4 => BitVec.ofNat 32 (d.cjn.last.getD 0)
  | 8 => match d.csnWait with | some n => BitVec.ofNat 32 n | none => BitVec.allOnes 32
  | 0xC => packs [(16, d.cjn.saturated.toNat), (0, d.cjn.nan.toNat)]
  | 0x10 => packs [(16, d.cjn.restarts.toNat), (0, d.cjn.withdrawn.toNat)]
  | _ => 0

def readAtt (d : Dev) (x : Nat) : Word :=
  if h : x < 0x1000 then
    let c : CtxId := ⟨x / 256, by omega⟩
    let a := d.ctx[c].att
    match x % 256 with
    | 0x00 => packs [(30, d.walkState c), (0, d.spanTilesOf c)]
    | 0x04 => packs [(16, (d.attnsOf c).length), (0, cdiv (d.mergeBytes c) 1024)]
    | 0x08 => BitVec.ofNat 32 a.pool0.free
    | 0x0C => BitVec.ofNat 32 a.pool1.free
    | 0x10 => BitVec.ofNat 32 a.deferred.length
    | 0x14 => packs [(16, a.held.toNat), (0, a.waiting.toNat)]
    | 0x18 => a.emptyRows
    | _ => 0
  else 0

def readCod (d : Dev) (x : Nat) : Word :=
  if h : x < 0x20 ∧ x % 4 = 0 then
    let i := x / 4
    let e := d.cod.eng[i]'(by omega)
    packs ([(30, e.st.code), (0, d.liveLoad i)] ++
      match e.unit with
      | some u => [(29, 1), (28, bnat u.live), (20, u.sess.val)]
      | none => [])
  else if h : 0x100 ≤ x ∧ x < 0x500 ∧ x % 4 = 0 then
    let s := d.cod.sess[(x - 0x100) / 4]'(by omega)
    packs [(30, s.st.code), (29, bnat s.d.live), (28, bnat s.d.decode), (27, bnat s.d.av1), (24, s.d.engine),
      (12, s.repeats.toNat), (0, s.damaged.toNat)]
  else if x = 0x500 then packs [(16, d.cod.waits.toNat), (0, d.cod.timeouts.toNat)]
  else 0

def readRcl (d : Dev) (x : Nat) : Word :=
  match x with
  | 0 => packs [(30, d.rcl.st.code), (29, bnat d.rcl.half), (0, d.rcl.retrains.toNat)]
  | 4 => packs [(16, d.rcl.replays.toNat), (0, d.rcl.crcFail.toNat)]
  | 8 => d.rcl.backInv
  | 0xC => packs [(16, d.rcl.poisonIn.toNat), (0, d.rcl.poisonOut.toNat)]
  | 0x10 => packs [(0, d.rcl.monitor.length)]
  | _ => 0

def readLexBlock (d : Dev) (x : Nat) : Word :=
  if x = 0 then packs [(28, d.lex.op.toNat), (16, d.lex.sub.toNat), (0, d.lex.index.toNat)]
  else if x = 4 then packs [(0, d.lex.len.toNat)]
  else if x = 8 then packs [(31, bnat d.lex.busy), (0, d.lex.count.toNat)]
  else if x = 0xC then d.lex.result
  else if x = 0x10 then packs [(16, d.lex.refused.toNat), (0, d.lex.buf.length)]
  else if h : 0x100 ≤ x ∧ x < 0x500 ∧ x % 4 = 0 then d.lex.data[(x - 0x100) / 4]'(by omega)
  else 0

def readFlt (d : Dev) (x : Nat) : Word :=
  if x = 0 then packs [(31, bnat d.flt.fatal), (30, bnat d.recovering), (24, d.flt.replace.toNat),
      (16, holdAt 8 d.retryTiles), (0, d.flt.recovered.toNat)]
  else if h : 0x100 ≤ x ∧ x < 0x148 ∧ x % 4 = 0 then
    let p := d.flt.pair[(x - 0x100) / 4]'(by omega)
    packs [(30, p.st.code), (16, match p.logical with | some c => c.val | none => 0x1F), (0, p.fails.toNat)]
  else if h : 0x200 ≤ x ∧ x < 0x208 ∧ x % 4 = 0 then
    let p := d.flt.sup[(x - 0x200) / 4]'(by omega)
    packs [(30, p.st.code), (0, p.fails.toNat)]
  else if h : 0x400 ≤ x ∧ x < 0x700 ∧ x % 4 = 0 then
    let s := (x - 0x400) / 4
    packs [(31, bnat (d.flt.slot[s]'(by omega)).copyTo.isSome),
      (0, match d.slotArr s with | some a => a.val | none => 0xFF)]
  else if x = 0x800 then packs [(24, d.flt.svcKind.toNat), (16, d.flt.svcUnit.toNat), (8, d.flt.svcAction.toNat),
      (0, d.flt.svcResult.toNat)]
  else if x = 0x900 then packs [(30, d.dump.st.toNat), (27, d.dump.cause.toNat)]
  else if x = 0x1000 then d.life.baseSeq
  else if x = 0x1004 then packs [(31, bnat d.life.busy), (24, d.life.reason.toNat), (0, d.life.nextS.toNat)]
  else if 0x2000 ≤ x ∧ x < 0x3E00 ∧ x % 4 = 0 then BitVec.ofNat 32 (alGet 0 d.life.live ((x - 0x2000) / 4))
  else if 0x4000 ≤ x ∧ x < 0x4600 ∧ x % 4 = 0 then BitVec.ofNat 32 (alGet 0 d.life.hist ((x - 0x4000) / 4))
  else 0

def readSec (d : Dev) (x : Nat) : Word :=
  let s := d.sec
  if x = 0 then packs [(29, s.stage.code), (28, bnat s.slot), (27, bnat s.fellBack), (24, s.failReason.toNat),
      (23, bnat s.idOk), (22, bnat s.recordLost), (0, s.floor.toNat)]
  else if h : x < 0x14 ∧ x % 4 = 0 then
    let i := (x - 4) / 8
    let y := s.slots[i]'(by omega)
    if x % 8 = 4 then packs [(30, y.st.code), (29, bnat (s.preferred = decide (i = 1) && y.st = .confirmed)),
      (0, y.rollback.toNat)]
    else y.version
  else if x = 0x100 then packs [(24, s.op.toNat)]
  else if x = 0x104 then loWord s.addr
  else if x = 0x108 then hiWord s.addr
  else if x = 0x10C then s.len
  else if x = 0x110 then packs [(31, bnat s.busy), (30, bnat s.spareReady), (16, s.status.toNat), (8, s.detail.toNat),
      (0, s.lastOp.toNat)]
  else if x = 0x200 then packs [(30, bnat s.unlocked)]
  else if 0x210 ≤ x ∧ x < 0x230 ∧ x % 4 = 0 then s.chal.extractLsb' (8 * (x - 0x210)) 32
  else if h : 0x400 ≤ x ∧ x < 0x600 ∧ x % 4 = 0 then
    (s.meas[(x - 0x400) / 64]'(by omega)).extractLsb' (8 * ((x - 0x400) % 64)) 32
  else 0

def readPwr (d : Dev) (x : Nat) : Word :=
  let p := d.pwr
  if x = 0 then packs [(31, bnat p.warn), (30, bnat p.range), (29, bnat p.trip), (0, p.vin.toNat)]
  else if x = 4 then packs [(0, p.iin.toNat)]
  else if x = 8 then packs [(16, p.pinMax.toNat), (0, p.pin.toNat)]
  else if h : 0x100 ≤ x ∧ x < 0x120 ∧ x % 4 = 0 then
    packs [(16, (p.consMax[(x - 0x100) / 4]'(by omega)).toNat), (0, (p.cons[(x - 0x100) / 4]'(by omega)).toNat)]
  else if x = 0x200 then packs [(16, p.temp[72].toNat), (0, (hotDie p.temp).toNat)]
  else 0

def readInd (d : Dev) (x : Nat) : Word :=
  match x with
  | 0 => packs [(24, d.ind.domain.toNat), (0, d.ind.offset.toNat)]
  | 4 => d.ind.data
  | 8 => packs [(31, bnat d.ind.busy), (30, bnat d.ind.err), (29, bnat d.ind.overrun), (8, bnat d.ind.autoInc)]
  | _ => 0

/-- The register at privileged offset `x` < 0x40_0000, the holding block apart (Table 15-6). In recovery only the
security block is served (R441). -/
def Dev.readReg (d : Dev) (x : Nat) : Word :=
  if x % 4 ≠ 0 then 0
  else if d.sec.stage = .recovery ∧ x / 0x10000 ≠ 0xE then 0
  else if h : 0x10000 ≤ x ∧ x < 0x20000 then
    readCtx d ⟨(x - 0x10000) / 4096, by omega⟩ (x % 4096)
  else
    match x / 0x10000 with
    | 0x0 => readSup d x
    | 0x2 => readArr d (x % 0x10000)
    | 0x5 => readMem d (x % 0x10000)
    | 0x6 => readLnk d (x % 0x10000)
    | 0x7 => readCjn d (x % 0x10000)
    | 0x8 => readAtt d (x % 0x10000)
    | 0x9 => readCod d (x % 0x10000)
    | 0xA => readRcl d (x % 0x10000)
    | 0xB => readLexBlock d (x % 0x10000)
    | 0xC => readFlt d (x % 0x10000)
    | 0xE => readSec d (x % 0x10000)
    | 0xF => readPwr d (x % 0x10000)
    | 0x10 => readInd d (x % 0x10000)
    | _ => 0

/-! ## RWP registers (R9, R11, R374) -/

/-- Bits of the RWP fields of the register at privileged offset `x`, 0 where it has none. -/
def rwpMask (x : Nat) : Word :=
  let sub := if 0x10000 ≤ x ∧ x < 0x20000 then x % 4096 else if x = 0x100 ∨ x = 0x104 ∨ x = 0x108 then x - 0xC0 else 0xFFF
  if x % 4 ≠ 0 then 0
  else if sub < 0x40 then
    match sub % 16 with | 0 => 1 | 4 => 0xFFFFFF00 | 8 => 0x7FFFF | _ => 0
  else
    match sub with
    | 0x40 => 0xFFFFFF80
    | 0x44 => 0x7FFFF
    | 0x48 => 1
    | 0x100 => if x < 0x10000 then 0 else 0xFFFFFFFF
    | _ => 0

/-- The pending view (R374): the value written since the last tick, else the value in force. -/
def Dev.readPending (d : Dev) (x : Nat) : Word :=
  let m := rwpMask x
  if m = 0 then 0
  else match d.rwp.find? (·.1 = x) with
    | some (_, v) => v
    | none => d.readReg x &&& m

/-- Store a pending copy; the last write before the freeze counts (R11). -/
def Dev.putPending (d : Dev) (x : Nat) (v : Word) : Dev :=
  let rest := d.rwp.filter (·.1 ≠ x)
  { d with rwp := rest.filter (fun p => decide (p.1 < x)) ++ (x, v &&& rwpMask x) :: rest.filter (fun p => decide (x < p.1)) }

/-! ## Captures (R376, R377, R379) -/

/-- A holding register of a capture: HEAD and TAIL words of a queue. -/
def headTail (d : Dev) (c : CtxId) (q : QId) (w : Nat) : Word :=
  let x := d.ctx[c].queue[q]
  match w with | 0 => loWord x.head | 1 => hiWord x.head | 2 => loWord x.tail | _ => hiWord x.tail

/-- The timestamp count of a capture (R8). -/
def tsWord (d : Dev) : Word := BitVec.ofNat 32 d.tsNs

/-- The holding block at offset `x` (Table 15-19). -/
def State.readHold (s : State) (x : Nat) : Word :=
  if x = 0 then packs [(30, 1), (0, s.dev.takes.toNat)]
  else
    match s.snap with
    | none => if x = 0x20 ∨ x = 0x24 then BitVec.allOnes 32 else 0
    | some d =>
      match x with
      | 4 => tsWord d
      | 8 => loWord d.per.number
      | 0xC => hiWord d.per.number
      | 0x10 => loWord d.grp.gperiod
      | 0x14 => hiWord d.grp.gperiod
      | 0x18 => BitVec.ofNat 32 (d.cjn.last.getD 0)
      | 0x1C => BitVec.ofNat 32 (d.cjn.last.getD 0 / 2 ^ 32)
      | 0x20 => match d.csnWait with | some n => BitVec.ofNat 32 n | none => BitVec.allOnes 32
      | 0x24 => match d.csnWait with | some n => BitVec.ofNat 32 (n / 2 ^ 32) | none => BitVec.allOnes 32
      | _ =>
        if h : 0x100 ≤ x ∧ x < 0x500 ∧ x % 4 = 0 then
          let i := (x - 0x100) / 16
          headTail d ⟨i / 4, by omega⟩ ⟨i % 4, Nat.mod_lt _ (by decide)⟩ (x % 16 / 4)
        else 0

/-- Read the privileged window (R356). The snapshot view of the mailbox block holds `LEX_STAT` alone (R381). -/
def State.readPriv (s : State) (x : Nat) : Word :=
  if x % 4 ≠ 0 then 0
  else if x < 0x400000 then
    if 0xD0000 ≤ x ∧ x < 0xE0000 then (if s.dev.sec.stage = .recovery then 0 else s.readHold (x - 0xD0000))
    else s.dev.readReg x
  else if x < 0x800000 then s.dev.readPending (x - 0x400000)
  else
    let y := x - 0x800000
    if 0xD0000 ≤ y ∧ y < 0xE0000 then 0
    else if 0xB0000 ≤ y ∧ y < 0xC0000 ∧ y ≠ 0xB0010 then 0
    else match s.snap with | some d => d.readReg y | none => 0

/-- The privileged offset that offset `o` of context window `c` names (Table 15-7). -/
def ctxOffset (c : CtxId) (o : Nat) : Option Nat :=
  if o < 0x1000 then some (0x10000 + 4096 * c.val + o)
  else if o < 0x1100 then some (0x80000 + 256 * c.val + (o - 0x1000))
  else none

/-- Read context window `c` (R357, R377). -/
def State.readCtxWin (s : State) (c : CtxId) (o : Nat) : Word :=
  if o % 4 ≠ 0 then 0
  else match ctxOffset c o with
  | some x => s.dev.readReg x
  | none =>
    if 0x8000 ≤ o then
      match ctxOffset c (o - 0x8000), s.ctxSnap[c] with
      | some x, some d => d.readReg x
      | _, _ => 0
    else if o = 0x2000 then packs [(30, 1), (0, s.dev.ctxTakes[c].toNat)]
    else match s.ctxSnap[c] with
      | none => 0
      | some d =>
        match o with
        | 0x2004 => tsWord d
        | 0x2008 => loWord d.per.number
        | 0x200C => hiWord d.per.number
        | _ => if h : 0x2010 ≤ o ∧ o < 0x2050 then headTail d c ⟨(o - 0x2010) / 16, by omega⟩ (o % 16 / 4) else 0

end Sys2Proof.Machine
end

