-- ==== Sys2Proof/Machine/Lexicon.lean ====
section
/-!
DEFINITION. Machine/Lexicon.lean: reads and writes of the Lexicon through its two doors (R380 to R397): live values of
every entry, the checks of a write (Table 16-3), the mailbox operations, and CoE.
-/
namespace Sys2Proof.Machine

/-! ## Live values -/

/-- SYNC0 is activated: bits 0 and 1 of ESC register 0x0981 (R398). -/
def Dev.sync0Active (d : Dev) : Bool := decide (alGet 0 d.net.esc 0x981 % 4 = 3)

/-- SYNC0 cycle time minus the nominal Period, as a fraction of ps: numerator over `num` (R399); 0, the default, while the cycle
time is 0 (DEDUCED, log entry 110). -/
def Dev.sync0Diff (d : Dev) : Int :=
  if alGet 0 d.net.esc 0x9A0 = 0 then 0
  else (alGet 0 d.net.esc 0x9A0 * 1000 * d.per.num : Nat) - (1000000000000 * d.per.den : Nat)
def Dev.rateMismatch (d : Dev) : Bool := decide (1000000000000 * d.per.den < d.sync0Diff.natAbs * 100000)
def clampI32 (i : Int) : Int := max (-2147483648) (min 2147483647 i)
def Dev.sync0Ps (d : Dev) : Nat := (BitVec.ofInt 32 (clampI32 (Int.tdiv d.sync0Diff d.per.num))).toNat

/-- Share units that no context and no zeroing holds (R41, R43). -/
def Dev.unitsUsed (d : Dev) : Nat :=
  (d.ctx.toList.filter Ctx.resident).foldl (fun a x => a + x.g.units) (d.zeroing.foldl (fun a z => a + z.units) 0)
def Dev.quotaUsed (d : Dev) : Nat := (d.ctx.toList.filter Ctx.resident).foldl (fun a x => a + x.g.quota) 0

/-- A claiming entry's last claim was denied (R49). -/
def Dev.claimStatus (d : Dev) (index : Nat) : Nat := if d.lex.denied.contains index then 0x11 else 0

/-- Payload rate of a port, MB/s (Table 12-1). -/
def Port.rate (p : Port) : Nat := match p.st with | .up12 => 268800 | .up8 => 179200 | _ => 0

def Dev.enginesIn (d : Dev) (lo : Nat) : Nat :=
  (d.cod.eng.toList.zipIdx.filter fun e => e.1.st = .inService && decide (lo ≤ e.2 ∧ e.2 < lo + 4)).length

def signed32 (w : BitVec 16) : Nat := (w.signExtend 32).toNat

def pairsIn {n : Nat} (v : Vector Pair n) (s : PairState) : Nat := (v.toList.filter (·.st = s)).length

/-- The value of a per-context RO entry. -/
def Dev.lexCtx (d : Dev) (c : CtxId) (base sub : Nat) : Nat :=
  let x := d.ctx[c]
  match base, sub with
  | 0x2110, 2 => x.st.code
  | 0x2110, 3 => x.reason.toNat
  | 0x2110, 10 => x.g.base
  | 0x2130, 3 => d.claimStatus (0x2130 + c.val)
  | 0x2130, 4 => x.heldMc.toNat + 256 * x.heldCmp.toNat
  | 0x2210, 2 => x.rph.remain.toNat
  | 0x2210, 3 => bnat x.rph.exhaustedLast
  | 0x2410, 2 => x.streamUnits
  | 0x2610, 5 => x.att.pool0.free
  | 0x2610, 6 => x.att.pool1.free
  | 0x2610, 7 => x.att.deferred.length
  | _, _ => x.att.pool0.st.code + 16 * x.att.pool1.st.code

/-- The image whose counts the entries 0x2800 and 0x2810 + j give; all zero in a flash that holds none. -/
def Dev.image (d : Dev) : Image := d.life.latest.getD {}

/-- The value of a numeric RO entry, live (Immediate). -/
def Dev.lexNum (d : Dev) (index sub : Nat) : Nat :=
  if h : index < 0x2120 ∧ 0x2110 ≤ index then d.lexCtx ⟨index - 0x2110, by omega⟩ 0x2110 sub
  else if h : index < 0x2140 ∧ 0x2130 ≤ index then d.lexCtx ⟨index - 0x2130, by omega⟩ 0x2130 sub
  else if h : index < 0x2220 ∧ 0x2210 ≤ index then d.lexCtx ⟨index - 0x2210, by omega⟩ 0x2210 sub
  else if h : index < 0x2420 ∧ 0x2410 ≤ index then d.lexCtx ⟨index - 0x2410, by omega⟩ 0x2410 sub
  else if h : index < 0x2620 ∧ 0x2610 ≤ index then d.lexCtx ⟨index - 0x2610, by omega⟩ 0x2610 sub
  else if h : index < 0x2018 ∧ 0x2010 ≤ index then (d.cmp[index - 0x2010]'(by omega)).holder
  else if h : index < 0x2452 ∧ 0x2440 ≤ index then
    let p := d.port[index - 0x2440]'(by omega)
    if sub = 4 then p.st.code else p.rate
  else
    match index, sub with
    | 0x1001, _ => bnat d.recovering
    | 0x1018, 1 => 0x0B4D
    | 0x1018, 2 => 0x960043B1
    | 0x1018, 3 => d.sec.version.toNat
    | 0x1018, _ => Config.serial.toNat
    | 0x1C00, 1 => 1
    | 0x1C00, 2 => 2
    | 0x2001, 1 => bits (d.readReg 0x10) 28 3
    | 0x2001, _ => d.per.lastInterval
    | 0x2002, _ => d.per.number.toNat
    | 0x2003, 1 => d.net.al.toNat
    | 0x2003, 2 => bnat d.net.link0 + 2 * bnat d.net.link1
    | 0x2003, 3 => bnat d.sync0Active
    | 0x2003, 4 => alGet 0 d.net.esc 0x9A0 % 2 ^ 32
    | 0x2003, 5 => d.sync0Ps
    | 0x2003, 6 => bnat d.rateMismatch
    | 0x2003, _ => d.net.lastSys.getD 0
    | 0x2008, _ => d.claimStatus 0x2008
    | 0x2009, _ => d.claimStatus 0x2009
    | 0x2100, 1 => (d.ctx.toList.filter Ctx.resident).length
    | 0x2100, 2 => 128 - d.unitsUsed
    | 0x2100, _ => d.flt.pool - d.quotaUsed
    | 0x2300, 1 => d.softTop - 0x200000000
    | 0x2300, 2 => 0x200000000
    | 0x2300, 4 => d.channelsIn .inService
    | 0x2300, _ => d.mem.spares.length
    | 0x2400, 6 => d.grp.role.code
    | 0x2400, 7 => d.grp.reachable.toNat
    | 0x2400, _ => d.grp.gperiod.toNat
    | 0x2401, _ => d.grp.lead.toNat
    | 0x2402, s => if h : s - 1 < 64 then (match d.grp.delays[s - 1] with | some n => n | none => 0xFFFFFFFF) else 0
    | 0x2460, 1 => 67108864
    | 0x2460, 2 => d.storeUnits * 262144
    | 0x2460, _ => d.cjn.last.getD 0
    | 0x2500, 1 => d.enginesIn 0
    | 0x2500, 2 => d.enginesIn 4
    | 0x2500, _ => (d.cod.sess.toList.filter (·.st ≠ .free)).length
    | 0x2510, _ => d.claimStatus 0x2510
    | 0x2600, 1 => 0xFF7FFFFF
    | 0x2600, _ => 2048
    | 0x2700, 1 => d.flt.pool
    | 0x2700, 2 => d.arrCount .spare
    | 0x2700, 3 => d.arrCount .retired
    | 0x2700, 4 => pairsIn d.flt.pair .spare
    | 0x2700, 5 => pairsIn d.flt.sup .spare
    | 0x2700, _ => d.flt.replace.toNat
    | 0x2702, _ => d.flt.svcResult.toNat
    | 0x2703, _ => d.dump.st.toNat
    | 0x2800, 1 => d.image.seq
    | 0x2800, 2 => d.image.powerups
    | 0x2800, 3 => d.image.halts
    | 0x2800, 4 => d.image.powered
    | 0x2800, 5 => d.image.periods
    | 0x2800, _ => d.image.replace.toNat
    | 0x2900, 1 => d.pwr.vin.toNat
    | 0x2900, 2 => d.pwr.iin.toNat
    | 0x2900, _ => d.pwr.pin.toNat
    | 0x2901, s => if h : s - 1 < 8 then d.pwr.cons[s - 1].toNat else 0
    | 0x2902, 1 => signed32 (hotDie d.pwr.temp)
    | 0x2902, 2 => signed32 d.pwr.temp[72]
    | 0x2902, 3 => signed32 d.pwr.temp[73]
    | 0x2902, _ => 105
    | 0x2A00, 1 => (d.readReg 0xE0000).toNat
    | 0x2A00, 2 => d.sec.floor.toNat
    | 0x2A00, 3 => bnat d.sec.unlocked
    | 0x2A00, _ => d.sec.deleg.toList.zipIdx.foldl (fun a x => a + bnat x.1.isSome * 2 ^ x.2) 0
    | _, _ => 0

/-- ISO 646 bytes of a string. -/
def asciiBytes (s : List Nat) : List Byte := s.map (BitVec.ofNat 8)

/-- The bytes that a read of the value in force returns (R384, R385). -/
def Dev.lexLive (d : Dev) (index sub : Nat) : List Byte :=
  match lexRow index sub with
  | none => []
  | some r =>
    if r.rw then leBytes (d.lexVal index sub) r.ty.bytes
    else if r.base = index ∧ r.n = 1 ∧ sub = 0 ∧ r.dflt ≠ 0 then leBytes r.dflt 1
    else if index = 0x1008 then asciiBytes [0x4F, 0x58, 0x4B, 0x39, 0x36, 0x30, 0x30, 0x2D, 0x4C, 0x43]
    else if index = 0x1009 then asciiBytes [0x43]
    else if index = 0x100A then asciiBytes [0x32, 0x2E, 0x34, 0x2E] ++ Config.patchText (d.sec.version.setWidth 8)
    else if 0x2810 ≤ index ∧ index ≤ 0x2820 then (d.image.bytes.drop (1024 * (index - 0x2810))).take r.ty.bytes
    else if index = 0x2A02 then leBytes Config.identityKey.toNat 64
    else leBytes (d.lexNum index sub) r.ty.bytes

/-- Entries that are read from flash (R383). -/
def lexFlash (index sub : Nat) : Bool := decide (0x2800 ≤ index ∧ index ≤ 0x28FF) || (index = 0x1018 && sub = 4)

/-! ## Checks of a write (Table 16-3) -/

def Dev.anyResident (d : Dev) : Bool := d.ctx.toList.any Ctx.resident

def Dev.lexCond (d : Dev) (index : Nat) : LexCond → Bool
  | .none => true
  | .noneResident => !d.anyResident
  | .freeOrRejected => if h : index - 0x2110 < 16 then (let s := d.ctx[index - 0x2110].st; s = .free || s = .rejected) else false
  | .free => if h : index - 0x2610 < 16 then d.ctx[index - 0x2610].st = .free else false

/-- Check 1: does the entry exist? -/
def lexExists (index sub : Nat) : Word :=
  if !lexIndex index then 0x06020000 else if (lexRow index sub).isNone then 0x06090011 else 0

/-- What a CoE write may reach under the scope in force (R396). -/
def Dev.coeMay (d : Dev) (index : Nat) : Bool :=
  !decide (0x2A00 ≤ index ∧ index ≤ 0x2AFF) &&
    match d.lexVal 0x2A01 1 with
    | 0 => false
    | 1 => decide (0x2000 ≤ index ∧ index ≤ 0x20FF)
    | _ => true

/-- The code of the first check that refuses a write; 0 where it is accepted. -/
def Dev.lexCheck (d : Dev) (coe : Bool) (index sub : Nat) (bs : List Byte) : Word :=
  if d.dump.halted then 0x08000022
  else if lexExists index sub ≠ 0 then lexExists index sub
  else
    match lexRow index sub with
    | none => 0x06090011
    | some r =>
      let string := match r.ty with | .ostr _ => true | .vstr => true | _ => false
      if !r.rw then 0x06010002
      else if coe && !d.coeMay index then 0x08000021
      else if (if string then decide (r.ty.bytes < bs.length) || bs.isEmpty else bs.length ≠ r.ty.bytes) then 0x06070010
      else if !lexInRange index sub (leNat bs) then 0x06090030
      else if !(match r.ap with | .tick c => d.lexCond index c | _ => true) then 0x08000022
      else if 1024 ≤ d.lex.buf.length ∧ d.lexPending index sub = none then 0x05040005
      else 0

/-- A write reaches the Lexicon (R387, R389): it is placed in the buffer, or refused and counted. -/
def Dev.lexPut (d : Dev) (coe : Bool) (index sub : Nat) (bs : List Byte) : Word × Dev :=
  let code := d.lexCheck coe index sub bs
  if code = 0 then (0, d.lexBuffer index sub (leNat bs))
  else (code, Dev.count { d with lex := { d.lex with refused := satInc d.lex.refused } } 1)

/-! ## Mailbox operations (R380 to R383) -/

/-- Words of `LEX_MBX_DATA`, byte 0 first. -/
def lexWords (bs : List Byte) : Vector Word 256 :=
  Vector.ofFn fun i => BitVec.ofNat 32 (leNat ((bs.drop (4 * i.val)).take 4))
def Lex.bytes (l : Lex) : List Byte := l.data.toList.flatMap fun w => leBytes w.toNat 4

/-- An operation ends with a result; the reads of `LEX_MBX_RESULT` that waited complete (R380). -/
def Dev.lexEnd (d : Dev) (code : Word) : Dev :=
  (List.range d.lex.readers).foldl (fun d _ => d.emit (.window 0 0xB000C code))
    { d with lex := { d.lex with busy := false, flashWait := none, readers := 0, count := d.lex.count + 1,
                                 result := code } }

/-- A read ends with its bytes, or is refused. -/
def Dev.lexReadEnd (d : Dev) (code : Word) (bs : List Byte) : Dev :=
  Dev.lexEnd { d with lex := { d.lex with len := BitVec.ofNat 11 bs.length, data := lexWords bs } } code

/-- OP 4: the description of an entry (R382). -/
def lexDescription (r : LexRow) : List Byte :=
  leBytes r.ty.code 2 ++ leBytes (if r.rw then 1 else 0) 1 ++ leBytes r.ap.code 1 ++ leBytes (8 * r.ty.bytes) 2 ++ [0, 0]

/-- The bytes that a read operation returns: OP 0, 2 and 3. -/
def Dev.lexReadBytes (d : Dev) (snap : Option Dev) (op index sub : Nat) : List Byte :=
  match op with
  | 2 => match d.lexPending index sub, lexRow index sub with
    | some v, some r => leBytes v r.ty.bytes
    | _, _ => d.lexLive index sub
  | 3 => match lexRow index sub with
    | some r => if r.ap = .immediate then (snap.getD d).lexLive index sub else d.lexLive index sub
    | none => []
  | _ => d.lexLive index sub

/-- Run operation `op` on an entry, with the fields of the write that starts it (R380, R382). -/
def Dev.lexRun (d : Dev) (snap : Option Dev) (op index sub : Nat) : Dev :=
  let d := { d with lex := { d.lex with op := BitVec.ofNat 3 op, index := BitVec.ofNat 16 index, sub := BitVec.ofNat 8 sub } }
  if op = 1 then
    let (code, d) := d.lexPut false index sub (d.lex.bytes.take d.lex.len.toNat)
    d.lexEnd code
  else if lexExists index sub ≠ 0 then d.lexReadEnd (lexExists index sub) []
  else if op = 4 then
    match lexRow index sub with | some r => d.lexReadEnd 0 (lexDescription r) | none => d
  else if lexFlash index sub then { d with lex := { d.lex with busy := true, flashWait := some (index, sub) } }
  else d.lexReadEnd 0 (d.lexReadBytes snap op index sub)

/-- The windows and the mailbox are served (Table 19-2, R441). -/
def Dev.windowsOpen (d : Dev) : Bool := d.pwr.on && !d.pwr.inReset && d.rclUp && d.sec.stage ≠ .rom

/-- A write of `LEX_MBX_CTL` with GO that names an operation; while BUSY it has no effect and is counted. -/
def Dev.lexGo (d : Dev) (snap : Option Dev) (op index sub : Nat) : Dev :=
  if !d.windowsOpen || d.sec.stage = .recovery then d
  else if d.lex.busy then d.count 0
  else d.lexRun snap op index sub

/-- LEX_READ_IN_FORCE, LEX_WRITE, LEX_READ_PENDING, LEX_READ_CAPTURED and LEX_READ_DESCRIPTION: OP 0 to 4 of R382. -/
def execLexReadInForce (index : BitVec 16) (sub : BitVec 8) (s : State) : Host.Outcome State Fault Refusal :=
  s.run fun d => d.lexGo s.snap 0 index.toNat sub.toNat
def execLexWrite (index : BitVec 16) (sub : BitVec 8) (s : State) : Host.Outcome State Fault Refusal :=
  s.run fun d => d.lexGo s.snap 1 index.toNat sub.toNat
def execLexReadPending (index : BitVec 16) (sub : BitVec 8) (s : State) : Host.Outcome State Fault Refusal :=
  s.run fun d => d.lexGo s.snap 2 index.toNat sub.toNat
def execLexReadCaptured (index : BitVec 16) (sub : BitVec 8) (s : State) : Host.Outcome State Fault Refusal :=
  s.run fun d => d.lexGo s.snap 3 index.toNat sub.toNat
def execLexReadDescription (index : BitVec 16) (sub : BitVec 8) (s : State) : Host.Outcome State Fault Refusal :=
  s.run fun d => d.lexGo s.snap 4 index.toNat sub.toNat

/-- LEX_FLASH_READ_DONE (R383): the flash read that the mailbox, else a CoE upload, waits for ends. -/
def execLexFlashReadDone (ok : Bool) (s : State) : Host.Outcome State Fault Refusal :=
  s.run fun d =>
    match d.lex.flashWait with
    | some (i, j) => if ok then d.lexReadEnd 0 (d.lexLive i j) else d.lexReadEnd 0x06060000 []
    | none =>
      match d.lex.coeWait with
      | some (i, j) =>
        Dev.emit { d with lex := { d.lex with coeWait := none } }
          (if ok then .sdo 0 (d.lexLive i j) else .sdo 0x06060000 [])
      | none => d

/-! ## CoE (R395 to R397) -/

/-- The field network is served, and the mailbox is available from PREOP (Table 16-7). -/
def Dev.coeOpen (d : Dev) : Bool :=
  d.pwr.on && !d.pwr.inReset && (d.sec.stage = .loading || d.sec.stage = .service) && d.net.al ≠ 1

/-- Complete access is not supported (Table 16-7). -/
def abortComplete : Word := 0x06010000

/-- COE_SDO_DOWNLOAD (R397): the last segment of a write arrives; a complete access does not reach the Lexicon. -/
def execCoeSdoDownload (index : BitVec 16) (sub : BitVec 8) (value : List Byte) (s : State) (complete : Bool := false) :
    Host.Outcome State Fault Refusal :=
  s.run fun d =>
    if d.coeOpen && complete then d.emit (.sdo abortComplete [])
    else if d.coeOpen then
      let (code, d) := d.lexPut true index.toNat sub.toNat value
      d.emit (.sdo code [])
    else d

/-- COE_SDO_UPLOAD (R397): reads are never limited, and return live values (R381, R396). -/
def execCoeSdoUpload (index : BitVec 16) (sub : BitVec 8) (s : State) (complete : Bool := false) : Host.Outcome State Fault Refusal :=
  s.run fun d =>
    if !d.coeOpen then d
    else if complete then d.emit (.sdo abortComplete [])
    else if lexExists index.toNat sub.toNat ≠ 0 then d.emit (.sdo (lexExists index.toNat sub.toNat) [])
    else if lexFlash index.toNat sub.toNat then { d with lex := { d.lex with coeWait := some (index.toNat, sub.toNat) } }
    else d.emit (.sdo 0 (d.lexLive index.toNat sub.toNat))

/-- Every index of the dictionary, ascending. -/
def lexIndexes : List Nat :=
  (List.range 0x1B00).map (0x1000 + ·) |>.filter lexIndex

/-- What an SDO Information request returns (Table 16-7): the object list, or what the description of R382 holds. The
services of IEC 61158 Type 12 give the frame; the content is the Lexicon's. -/
def sdoInfoAnswer : SdoInfo → Word × List Byte
  | .objectList => (0, lexIndexes.flatMap fun i => leBytes i 2)
  | .object i =>
    if lexIndex i.toNat then (0, leBytes i.toNat 2 ++ leBytes (lexCount i.toNat) 1) else (0x06020000, [])
  | .entry i j =>
    match lexExists i.toNat j.toNat, lexRow i.toNat j.toNat with
    | 0, some r => (0, lexDescription r)
    | code, _ => (code, [])

/-- COE_SDO_INFORMATION (R395). -/
def execCoeSdoInformation (r : SdoInfo) (s : State) : Host.Outcome State Fault Refusal :=
  s.run fun d => if d.coeOpen then d.emit (.sdoInfo (sdoInfoAnswer r).1 (sdoInfoAnswer r).2) else d

end Sys2Proof.Machine
end

