-- ==== Sys2Proof/Machine/Windows.lean ====
section
/-!
DEFINITION. Machine/Windows.lean: writes to registers and what they do (R9 to R12, R355, R357, R374 to R377), the indirect
pair (R375), captures, the margin engine (R269, R270) and window accesses.
-/
namespace Sys2Proof.Machine

/-! ## The module flash (R437) -/

def flashByte (f : List Host.Cell) (a : Nat) : Byte :=
  match f.find? (·.1 = a) with | some (_, b) => b | none => Config.factoryFlash a
def flashPut (a : Nat) (b : Byte) : List Host.Cell → List Host.Cell
  | [] => [(a, b)]
  | (k, v) :: l => if a < k then (a, b) :: (k, v) :: l else if a = k then (a, b) :: l else (k, v) :: flashPut a b l
def Dev.flashRead (d : Dev) (a n : Nat) : List Byte := (List.range n).map fun i => flashByte d.sec.flash (a + i)
def Dev.flashWrite (d : Dev) (a : Nat) (bs : List Byte) : Dev :=
  { d with sec := { d.sec with flash := bs.zipIdx.foldl (fun f b => flashPut (a + b.2) b.1 f) d.sec.flash } }

/-! ## Single registers -/

/-- `CTX_FENCE_POISON` j: each bit written 1 clears the poison of its counter (R9, R174). -/
def Dev.clearPoisonBits (d : Dev) (c : CtxId) (j : Nat) (v : Word) : Dev :=
  d.modCp c fun p => { p with poison := p.poison &&& ~~~((v.setWidth 256) <<< (32 * j)) }

/-- `ARR_INJECT` (R124). -/
def Dev.arrInject (d : Dev) (v : Word) : Dev :=
  if !v.getLsbD 31 then d
  else if h : bits v 16 8 < 208 then
    let a : ArrId := ⟨bits v 16 8, h⟩
    if d.arr[a].st = .inService then { d.dropInject with inject := some { arr := a, row := bits v 8 8, col := bits v 0 7 } }
    else d.dropInject
  else d.count 0

/-- While BUSY, a write of the indirect pair sets OVERRUN (R375). -/
def Dev.indOverrun (d : Dev) : Dev := { d with ind := { d.ind with overrun := true } }

/-- `IND_ADDR`: a DOMAIN that Table 15-17 does not define leaves the field unchanged (R12). -/
def Dev.indAddr (d : Dev) (v : Word) : Dev :=
  if d.ind.busy then d.indOverrun
  else
    let d := { d with ind := { d.ind with offset := v.setWidth 24 } }
    let dom := bits v 24 8
    if 1 ≤ dom ∧ dom ≤ 0x13 then { d with ind := { d.ind with domain := BitVec.ofNat 8 dom } } else d.count 0

/-- `IND_DATA`: start a write of `v`. -/
def Dev.indWrite (d : Dev) (v : Word) : Dev :=
  if d.ind.busy then d.indOverrun
  else { d with ind := { d.ind with data := v, busy := true, err := false, wr := some v } }

/-- Start a read. -/
def Dev.indRead (d : Dev) : Dev :=
  if d.ind.busy then d.indOverrun else { d with ind := { d.ind with busy := true, err := false, wr := none } }

/-- `IND_CTL`. -/
def Dev.indCtl (d : Dev) (v : Word) : Dev :=
  if d.ind.busy then d.indOverrun
  else
    let d := { d with ind := { d.ind with autoInc := v.getLsbD 8, overrun := d.ind.overrun && !v.getLsbD 29 } }
    if v.getLsbD 0 then d.indRead else d

/-! ## The slow domains (Tables 11-6, 15-17, 20-12) -/

/-- `MEM_MRG_CTL` of a channel (R12, R269). -/
def Dev.mrgWrite (d : Dev) (ch : Fin 192) (v : Word) : Dev :=
  let p := bits v 28 3
  let d := if 5 < p then d.count 0 else d.modCh ch fun x => { x with mrgParam := BitVec.ofNat 3 p }
  let d := d.modCh ch fun x => { x with mrgOffset := BitVec.ofNat 8 (bits v 16 8), mrgBursts := v.setWidth 16 }
  if !v.getLsbD 31 then d
  else if 3 ≤ d.mem.ch[ch].mrgParam.toNat ∧ d.anyResident then d.event .fault 0x0303 0 (BitVec.ofNat 32 ch.val)
  else d.modCh ch fun x =>
    { x with mrgRun := true, mrgDone := false
             st := if 3 ≤ x.mrgParam.toNat ∧ x.st = .inService then .held else x.st }

def Dev.mrgRead (d : Dev) (ch : Fin 192) (x : Nat) : Option Word :=
  let y := d.mem.ch[ch]
  match x with
  | 0 => some (packs [(28, y.mrgParam.toNat), (16, y.mrgOffset.toNat), (0, y.mrgBursts.toNat)])
  | 4 => some (packs [(31, bnat y.mrgDone), (0, y.mrgErrors.toNat)])
  | 8 => some 0x05B904E2
  | _ => none

/-- The indirect access that is in progress: the value read, or none where the offset names nothing. -/
def Dev.indValue (d : Dev) : Option Word :=
  let o := d.ind.offset.toNat
  let dom := d.ind.domain.toNat
  if dom = 1 then (if h : o / 65536 < 192 then d.mrgRead ⟨o / 65536, h⟩ (o % 65536) else none)
  else if dom = 3 then
    if h : o % 4 = 0 ∧ o / 4 < 74 then
      some (packs [(16, (d.pwr.tempMax[o / 4]'h.2).toNat), (0, (d.pwr.temp[o / 4]'h.2).toNat)])
    else none
  else if 4 ≤ dom ∧ dom ≤ 0x13 then
    some (BitVec.ofNat 32 (leNat (d.flashRead ((dom - 4) * 2 ^ 24 + o) 4)))
  else none

/-- An indirect access completes (R375). -/
def Dev.indDone (d : Dev) : Dev :=
  if !d.ind.busy then d
  else
    let r := d.indValue
    let flash := decide (4 ≤ d.ind.domain.toNat)
    let d := match d.ind.wr with
      | none => { d with ind := { d.ind with data := r.getD 0, err := r.isNone } }
      | some v =>
        let d := { d with ind := { d.ind with err := r.isNone || flash } }
        if h : d.ind.domain = 1 ∧ d.ind.offset.toNat / 65536 < 192 ∧ d.ind.offset.toNat % 65536 = 0 then
          d.mrgWrite ⟨d.ind.offset.toNat / 65536, h.2.1⟩ v
        else d
    { d with ind := { d.ind with busy := false, wr := none
                                 offset := if d.ind.autoInc then d.ind.offset + 4 else d.ind.offset } }

/-- A margin run ends (R270). -/
def Dev.mrgDone (d : Dev) (ch : Fin 192) (errors : Nat) : Dev :=
  if !d.mem.ch[ch].mrgRun then d
  else d.modCh ch fun x =>
    { x with mrgRun := false, mrgDone := true, mrgErrors := BitVec.ofNat 16 (holdAt 16 errors)
             st := if x.st = .held then .inService else x.st }

/-! ## The security block (R449) -/

/-- `SEC_CMD`, its address and its length, which take no write while a command runs; in recovery only STAGE_IMAGE starts
(R441). GO with an OP that has never been written, 0, starts nothing (DESIGN CHOICE, log entry 83). -/
def Dev.secWrite (d : Dev) (x : Nat) (v : Word) : Dev :=
  if d.sec.busy then d.count 0
  else if x = 0x104 then
    { d with sec := { d.sec with addr := (hiWord d.sec.addr ++ (v &&& 0xFFFFFFC0#32) : BitVec 64) } }
  else if x = 0x108 then { d with sec := { d.sec with addr := ((v &&& 0x7FFFF#32) ++ loWord d.sec.addr : BitVec 64) } }
  else if x = 0x10C then { d with sec := { d.sec with len := v } }
  else
    let op := bits v 24 4
    let ok := decide (1 ≤ op ∧ op ≤ 9)
    let d := if ok then { d with sec := { d.sec with op := BitVec.ofNat 4 op } } else d.count 0
    if v.getLsbD 31 ∧ d.sec.op ≠ 0 ∧ (d.sec.stage ≠ .recovery ∨ d.sec.op = 1) then { d with sec := { d.sec with busy := true, lastOp := d.sec.op } } else d

/-! ## The mailbox block -/

def Dev.lexBlockWrite (d : Dev) (snap : Option Dev) (x : Nat) (v : Word) : Dev :=
  if d.lex.busy then d.count 0
  else if x = 0 then
    let op := bits v 28 3
    let d := if 4 < op then d.count 0 else { d with lex := { d.lex with op := BitVec.ofNat 3 op } }
    let d := { d with lex := { d.lex with sub := BitVec.ofNat 8 (bits v 16 8), index := v.setWidth 16 } }
    if v.getLsbD 31 then d.lexRun snap d.lex.op.toNat d.lex.index.toNat d.lex.sub.toNat else d
  else if x = 4 then
    if 1 ≤ bits v 0 11 ∧ bits v 0 11 ≤ 1024 then { d with lex := { d.lex with len := v.setWidth 11 } } else d.count 0
  else if h : 0x100 ≤ x ∧ x < 0x500 then { d with lex := { d.lex with data := d.lex.data.set ((x - 0x100) / 4) v (by omega) } }
  else d

/-! ## Writes of the privileged window -/

/-- A write of the register at privileged offset `x` < 0x40_0000, TAKE apart. -/
def Dev.writeReg (d : Dev) (snap : Option Dev) (x : Nat) (v : Word) : Dev :=
  if rwpMask x ≠ 0 then d.putPending x v
  else if x = 0x18 then { d with per := { d.per with overrun := d.per.overrun &&& ~~~(v.setWidth 16) } }
  else if h : 0x10000 ≤ x ∧ x < 0x20000 then
    if 0x800 ≤ x % 4096 ∧ x % 4096 < 0x820 then
      d.clearPoisonBits ⟨(x - 0x10000) / 4096, by omega⟩ ((x % 4096 - 0x800) / 4) v
    else d
  else if x = 0x20600 then d.arrInject v
  else if x / 0x10000 = 0xB then d.lexBlockWrite snap (x % 0x10000) v
  else if x = 0xE0100 ∨ x = 0xE0104 ∨ x = 0xE0108 ∨ x = 0xE010C then d.secWrite (x % 0x10000) v
  else if x = 0x100000 then d.indAddr v
  else if x = 0x100004 then d.indWrite v
  else if x = 0x100008 then d.indCtl v
  else d

/-- TAKE (R376): every register, the 64-bit values and the live counters are captured at once. -/
def State.take (s : State) : State :=
  { s with snap := some s.dev, dev := { s.dev with takes := s.dev.takes + 1 } }
/-- The capture of a context window (R377). -/
def State.takeCtx (s : State) (c : CtxId) : State :=
  { s with ctxSnap := s.ctxSnap.set c (some s.dev), dev := { s.dev with ctxTakes := s.dev.ctxTakes.set c (s.dev.ctxTakes[c] + 1) } }

def State.onDev (s : State) (f : Dev → Dev) : State := { s with dev := f s.dev }

/-- Halted, every window write but one of the mailbox block has no effect and is counted (R420). -/
def Dev.writesBarred (d : Dev) (w : Window) (off : Nat) : Bool :=
  d.dump.halted && !(w = .priv && decide (0xB0000 ≤ off ∧ off < 0xC0000))

/-- A write of 4 bytes through a window (R355, R357, R374, R376, R420, R441). -/
def State.windowWrite (s : State) (w : Window) (off : Nat) (v : Word) : State :=
  if !s.dev.windowsOpen || off % 4 ≠ 0 then s
  else if s.dev.writesBarred w off then s.onDev (·.count 0)
  else
    match w with
    | .priv =>
      if s.dev.sec.stage = .recovery ∧ off / 0x10000 ≠ 0xE then s
      else if off < 0x400000 then
        if off = 0xD0000 then (if v.getLsbD 31 then s.take else s) else s.onDev (·.writeReg s.snap off v)
      else if off < 0x800000 then
        if rwpMask (off - 0x400000) = 0 then s else s.onDev (·.putPending (off - 0x400000) v)
      else if off < 0xC00000 then s.onDev (·.count 0)
      else s
    | .ctx c =>
      if s.dev.sec.stage = .recovery then s
      else if off = 0x2000 then (if v.getLsbD 31 then s.takeCtx c else s)
      else if 0x800 ≤ off ∧ off < 0x820 then s.onDev (·.clearPoisonBits c ((off - 0x800) / 4) v)
      else s.onDev (·.count 0)

/-! ## Commands -/

/-- Run a change of the whole state: what the last command sent out goes. -/
def State.runS (s : State) (f : State → State) : Host.Outcome State Fault Refusal :=
  .next (f (s.onDev fun d => { d with out := [] }))

/-- REGISTER_WRITE (R9). -/
def execRegisterWrite (w : Window) (off : Nat) (v : Word) (s : State) : Host.Outcome State Fault Refusal :=
  s.runS fun s => s.windowWrite w off v

/-- FENCE_POISON_CLEAR (R174): a write of `CTX_FENCE_POISON` j of context c. -/
def execFencePoisonClear (c : CtxId) (j : Fin 8) (v : Word) (s : State) : Host.Outcome State Fault Refusal :=
  s.runS fun s => s.windowWrite (.ctx c) (0x800 + 4 * j.val) v

/-- ARR_INJECT (R124): a write of `ARR_INJECT`. -/
def execArrInject (v : Word) (s : State) : Host.Outcome State Fault Refusal :=
  s.runS fun s => s.windowWrite .priv 0x20600 v

/-- TAKE (R376): a write of `SUP_SNAP_CTL` with TAKE set. -/
def execTake (s : State) : Host.Outcome State Fault Refusal :=
  s.runS fun s => s.windowWrite .priv 0xD0000 0x80000000

/-- CTX_SNAP_TAKE (R377). -/
def execCtxSnapTake (c : CtxId) (s : State) : Host.Outcome State Fault Refusal :=
  s.runS fun s => s.windowWrite (.ctx c) 0x2000 0x80000000

/-- INDIRECT_WRITE (R375): a write of `IND_DATA`. -/
def execIndirectWrite (v : Word) (s : State) : Host.Outcome State Fault Refusal :=
  s.runS fun s => s.windowWrite .priv 0x100004 v

/-- INDIRECT_READ (R375): a write of `IND_CTL` with READ set that keeps AUTO_INC. -/
def execIndirectRead (s : State) : Host.Outcome State Fault Refusal :=
  s.runS fun s => s.windowWrite .priv 0x100008 (if s.dev.ind.autoInc then 0x101 else 1)

/-- INDIRECT_COMPLETE (R375). -/
def execIndirectComplete (s : State) : Host.Outcome State Fault Refusal := s.run Dev.indDone

/-- MARGIN_DONE (R269, R270). -/
def execMarginDone (ch : Fin 192) (errors : Nat) (s : State) : Host.Outcome State Fault Refusal :=
  s.run fun d => d.mrgDone ch errors

/-- A window access that is not 4 aligned bytes, or that is to no window (R355). -/
def badAccess (region : Fin 3) (off size : Nat) : Bool := region = 2 || size ≠ 4 || off % 4 ≠ 0
def Dev.windowFault (d : Dev) (region : Fin 3) (off : Nat) : Dev :=
  d.event .fault 0x0304 (BitVec.ofNat 64 off) (BitVec.ofNat 32 region.val)

/-- WIN_READ (R355): the value leaves in an answer. A read of `LEX_MBX_RESULT` while BUSY waits (R380). -/
def execWinRead (region : Fin 3) (off size : Nat) (s : State) : Host.Outcome State Fault Refusal :=
  s.runS fun s =>
    if !s.dev.windowsOpen then s
    else if badAccess region off size then s.onDev fun d => (d.windowFault region off).emit (.window region.val off 0)
    else if region = 0 ∧ off = 0xB000C ∧ s.dev.lex.busy then
      s.onDev fun d => { d with lex := { d.lex with readers := d.lex.readers + 1 } }
    else
      let v := if region = 0 then s.readPriv off
        else if h : off / 65536 < 16 then s.readCtxWin ⟨off / 65536, h⟩ (off % 65536) else 0
      s.onDev fun d => d.emit (.window region.val off v)

/-- WIN_WRITE (R355, R357). -/
def execWinWrite (region : Fin 3) (off size : Nat) (v : Word) (s : State) : Host.Outcome State Fault Refusal :=
  s.runS fun s =>
    if !s.dev.windowsOpen then s
    else if badAccess region off size then s.onDev (·.windowFault region off)
    else if region = 0 then s.windowWrite .priv off v
    else if h : off / 65536 < 16 then s.windowWrite (.ctx ⟨off / 65536, h⟩) (off % 65536) v
    else s

end Sys2Proof.Machine
end

