-- ==== Sys2Proof/Machine/Life.lean ====
section
/-!
DEFINITION. Machine/Life.lean: the lifetime record (R425 to R429): what a flush captures, the image it writes and the flash
it is programmed into.
-/
namespace Sys2Proof.Machine

/-- Counts added to those of the latest image, holding at `top`. -/
def addCounts (top : Nat) (base live : List (Nat × Nat)) : List (Nat × Nat) :=
  live.foldl (fun l p => alPut 0 p.1 (min top (alGet 0 l p.1 + p.2)) l) base

/-- The revision of the running firmware, as Lexicon 0x1018 subindex 3 (Table 00-1, R455). -/
def Dev.revision (d : Dev) : Nat := d.sec.version.toNat

/-- The image of a flush (R426, R429): the latest image with what is captured added to it; `halt` holds CAUSE, FLAGS, the
Period number and UNIT of a halt note. -/
def Life.next (l : Life) (rev reason : Nat) (halt : Option Nat) : Image :=
  let b := l.latest.getD {}
  let halts := b.halts + (if halt.isSome then 1 else 0)
  let powerups := b.powerups + (if reason = 3 then 1 else 0)
  { reason := BitVec.ofNat 8 reason, replace := b.replace ||| l.replace.setWidth 8
    seq := b.seq + 1, powerups := powerups, halts := halts, powered := b.powered + l.powered, periods := b.periods + l.ticks
    revision := rev, counters := addCounts (2 ^ 64 - 1) b.counters l.live
    hist := addCounts (2 ^ 32 - 1) b.hist l.hist
    notes := match halt with
      | none => b.notes
      | some x => alPut 0 (halts % 8) (halts + 2 ^ 32 * x + 2 ^ 160 * powerups + 2 ^ 192 * (b.powered + l.powered)) b.notes }

def sectorAddr (n : BitVec 8) : Nat := 0x0F000000 + 65536 * n.toNat

/-- Programming ends: the image is the latest and the next sector is erased; after a failure it goes into the next
sector. -/
def Dev.endFlush (d : Dev) (ok : Bool) : Dev :=
  match d.life.writing with
  | none => d
  | some m =>
    if !ok then { d with life := { d.life with sector := d.life.sector + 1 } }
    else
      let d := d.flashWrite (sectorAddr d.life.sector) m.bytes
      let d := d.flashWrite (sectorAddr (d.life.sector + 1)) (List.replicate 65536 Config.erased)
      { d with life := { d.life with busy := false, writing := none, latest := some m } }

/-- Start a flush (R429): the live registers are captured and run on from nothing. A flush under way ends first. -/
def Dev.startFlush (d : Dev) (reason : Nat) (halt : Option Nat := none) : Dev :=
  let d := if d.life.busy then d.endFlush true else d
  let m := d.life.next d.revision reason halt
  { d with life := { d.life with
    busy := true, writing := some m, sector := BitVec.ofNat 8 m.seq, baseSeq := BitVec.ofNat 32 m.seq, live := []
    hist := [], powered := 0, ticks := 0, reason := BitVec.ofNat 3 reason, sinceImage := 0
    nextS := if reason = 0 ∨ reason = 3 then 3600 else d.life.nextS
    wanted := if reason = 4 then false else d.life.wanted } }

/-- LIFETIME_FLUSH (R429): a flush that is under way ends; else one that is due is made: hourly, or on command no sooner
than 60 s after the previous image. -/
def Dev.flush (d : Dev) (ok : Bool) : Dev :=
  if d.life.busy then d.endFlush ok
  else if d.life.nextS = 0 then (d.startFlush 0).endFlush ok
  else if d.life.wanted ∧ 60 ≤ d.life.sinceImage then (d.startFlush 4).endFlush ok
  else d

/-! ## Replacement (R413) -/

/-- Set a bit of the replacement request; it stays set until power-up. -/
def Dev.replaceBit (d : Dev) (i : Nat) : Dev :=
  let b : BitVec 6 := BitVec.ofNat 6 (2 ^ i)
  { d with flt := { d.flt with replace := d.flt.replace ||| b }, life := { d.life with replace := d.life.replace ||| b } }

/-- Set the bits whose conditions hold now. -/
def Dev.noteReplace (d : Dev) : Dev :=
  let d := if d.flt.pool < 192 then d.replaceBit 0 else d
  let d := if pairsIn d.flt.pair .spare = 0 then d.replaceBit 1 else d
  let d := if pairsIn d.flt.sup .spare = 0 then d.replaceBit 2 else d
  let d := if d.port.toList.any (·.st = .up8) then d.replaceBit 4 else d
  if d.rcl.st = .up8 then d.replaceBit 5 else d

end Sys2Proof.Machine
end

