-- ==== Sys2Proof/Machine/Dump.lean ====
section
/-!
DEFINITION. Machine/Dump.lean: from a fatal fault to the halted state (R418 to R424): the capture, the dump and its companion
copy, the completions with DEVICE_HALTED, the ports and the lifetime record.
-/
namespace Sys2Proof.Machine

/-- A port changes state, with its event (R278). -/
def Dev.portState (d : Dev) (p : PortId) (st : LnkState) : Dev :=
  let old := d.port[p].st
  if old = st then d
  else (d.modPort p fun x => { x with st := st }).event (.port p) 0x0200 0 (BitVec.ofNat 32 (256 * old.code + st.code))

/-! ## The sections (Tables 18-4 and 18-5) -/

def zeros (n : Nat) : List Byte := List.replicate n 0

/-- Bytes cut or padded with zeros to a length. -/
def padTo (n : Nat) (bs : List Byte) : List Byte := (bs ++ zeros (n - bs.length)).take n

/-- The registers of a captured device, as the snapshot view reads them. -/
def dumpRegs (d : Dev) : List Byte :=
  (List.range 0x100000).flatMap fun i =>
    let x := 4 * i
    if 0xD0000 ≤ x ∧ x < 0xE0000 then zeros 4
    else if 0xB0000 ≤ x ∧ x < 0xC0000 ∧ x ≠ 0xB0010 then zeros 4 else leBytes (d.readReg x).toNat 4

def dumpPending (d : Dev) : List Byte := (List.range 0x100000).flatMap fun i => leBytes (d.readPending (4 * i)).toNat 4

/-- One record of the Lexicon section. -/
def lexRecord (index sub : Nat) (pending : Bool) (bs : List Byte) : List Byte :=
  leBytes index 2 ++ leBytes sub 1 ++ [if pending then 1 else 0] ++ leBytes bs.length 2 ++ zeros 2 ++
    padTo (cdiv bs.length 8 * 8) bs

def dumpLex (d : Dev) : List Byte :=
  (List.range 0x2000).flatMap fun i => (List.range 256).flatMap fun sub =>
    let index := 0x1000 + i
    if lexExists index sub ≠ 0 then []
    else
      lexRecord index sub false (d.lexLive index sub) ++
        (match d.lexPending index sub, lexRow index sub with
         | some v, some r => lexRecord index sub true (leBytes v r.ty.bytes)
         | _, _ => [])

/-- One context, of its last durable checkpoint (Table 18-5). -/
def dumpCtx (x : Ctx) : List Byte :=
  let r := x.cp.durable
  let post : BitVec 8 × BitVec 4 := match x.cp.prog with | some p => (p.postStatus, p.postFlags) | none => (0, 0)
  r.s.toList.flatMap (fun w => leBytes w.toNat 8) ++ [r.p] ++ zeros 7 ++ leBytes r.pc.toNat 4 ++
    [post.1, post.2.setWidth 8] ++ zeros 2 ++ r.v.toList.flatMap Line.bytes ++
    x.cp.fence.toList.flatMap (fun w => leBytes w.toNat 4) ++ leBytes x.cp.poison.toNat 32 ++ zeros 464 ++
    (List.range 256).flatMap (fun i => leBytes (alGet 0 x.ldt.entries i).toNat 256) ++
    (List.range 4096).flatMap (fun i => (alGet 0 x.ldt.rup i).bytes)

/-- 64 bytes of one array. -/
def dumpArr (d : Dev) (a : ArrId) : List Byte :=
  let y := d.arr[a]
  let t := match y.tile with | some u => d.tile? u | none => none
  let tile := match t with
    | some t => leBytes t.n 4 ++ leBytes t.c.val 1 ++ leBytes t.step 1 ++ leBytes t.passes 1
    | none => zeros 7
  padTo 64 (leBytes (d.readReg (0x20000 + 4 * a.val)).toNat 4 ++ tile ++ zeros 1 ++
    leBytes (match y.slot with | some s => s.val | none => 0xFFFFFFFF) 4)

def dumpSess (x : Sess) : List Byte :=
  padTo 128 (x.desc.bytes ++ leBytes x.wr.toNat 8 ++ leBytes x.rd.toNat 8 ++ leBytes x.unitSeq.toNat 8 ++
    leBytes x.st.code 1 ++ leBytes x.d.engine 1)

/-- The sections in order: type, index and bytes. `n` numbers the draw of the raw store. -/
def dumpSections (d : Dev) (n : Nat) : List (Nat × Nat × List Byte) :=
  [(1, 0, dumpRegs d), (2, 0, dumpPending d), (3, 0, dumpLex d)] ++
  ((List.finRange 16).filter fun c => d.ctx[c].resident).map (fun c => (4, c.val, dumpCtx d.ctx[c])) ++
  [(5, 0, (List.finRange 208).flatMap (dumpArr d)), (6, 0, (List.range 67108864).map (Config.storeRaw n)),
   (7, 0, padTo 131072 (d.dump.log.flatMap fun l => (Line.bytes l).take 32)), (8, 0, d.cod.sess.toList.flatMap dumpSess)]

/-- Sections with their offsets from the base, each at a multiple of 4 KiB. -/
def placeSections : Nat → List (Nat × Nat × List Byte) → List (Nat × Nat × Nat × List Byte)
  | _, [] => []
  | at_, (ty, ix, bs) :: rest => (at_, ty, ix, bs) :: placeSections (cdiv (at_ + bs.length) 4096 * 4096) rest

/-- A directory entry (Table 18-3). -/
def dirEntry (s : Nat × Nat × Nat × List Byte) : List Byte :=
  leBytes s.2.1 2 ++ leBytes s.2.2.1 1 ++ zeros 1 ++ leBytes (crc32 s.2.2.2).toNat 4 ++ leBytes s.1 4 ++
    leBytes s.2.2.2.length 4

/-- The header (Table 18-2). -/
def dumpHeader (d : Dev) (cause : BitVec 3) (unit : Word) (flags : Nat) (secs : List (Nat × Nat × Nat × List Byte)) :
    List Byte :=
  let total := secs.foldl (fun m s => max m (s.1 + s.2.2.2.length)) 0
  let h := leBytes 0x504D5544 4 ++ leBytes 1 2 ++ leBytes cause.toNat 1 ++ leBytes flags 1 ++
    leBytes d.per.number.toNat 8 ++ leBytes d.tsNs 4 ++ leBytes unit.toNat 4 ++ leBytes Config.serial.toNat 4 ++
    leBytes d.revision 4 ++ leBytes secs.length 4 ++ zeros 4 ++ leBytes total 8 ++ zeros 12
  h ++ leBytes (crc32 h).toNat 4

def dumpBase : Nat := 0x100000000

/-- The bytes of a dump by offset from its base. -/
def dumpBytes (d : Dev) (cause : BitVec 3) (unit : Word) (flags : Nat) (secs : List (Nat × Nat × Nat × List Byte)) :
    List (Nat × List Byte) :=
  (0, dumpHeader d cause unit flags secs ++ secs.flatMap dirEntry) :: secs.map fun s => (s.1, s.2.2.2)

/-! ## Steps 3 to 8 (Table 18-1) -/

/-- Step 3: every write-combining buffer is flushed (R264). -/
def Dev.flushWcb (d : Dev) : Dev :=
  (List.finRange 48).foldl (fun d k =>
    let w := d.mem.wcb[k]
    let d := w.entries.foldl (fun d e =>
      if e.mask = BitVec.allOnes 128 then d else d.countCh 2 (d.mem.channel e.line)) d
    { d with mem := { d.mem with wcb := d.mem.wcb.set k (w.entries.foldl Wcb.drop w) } }) d

/-- Is a companion copy made (R424)? -/
def Dev.copiesDump (d : Dev) (stop : Option DumpStop) : Bool :=
  decide (d.lexVal 0x2703 1 ≠ 0 ∧ d.lexVal 0x2703 2 ≠ 0) && d.rclUp && !(match stop with | some (.region _) => true | _ => false)

/-- A further fault has stopped the dump (R419); one in the copy stops nothing where no copy is made. -/
def Dev.dumpStops (d : Dev) (stop : Option DumpStop) : Bool :=
  match stop with | none => false | some (.region _) => true | some (.copy _) => d.copiesDump stop

/-- Steps 4 and 5: the dump in the firmware region and its companion copy (R421 to R424). `cap` is the capture; a further fault
leaves the sections that were whole (R419; log entry 111). -/
def Dev.writeDump (d cap : Dev) (cause : BitVec 3) (unit : Word) (stop : Option DumpStop) : Dev :=
  let raw := dumpSections cap d.freeCount
  let d := { d with freeCount := d.freeCount + 1 }
  let all := placeSections (cdiv (64 + 16 * raw.length) 4096 * 4096) raw
  let secs := match stop with | some (.region n) => all.take n | _ => all
  let fl := (if cause = 2 then 1 else 0) + (if d.dumpStops stop then 8 else 0)
  let addr := d.lexVal 0x2703 1
  let len := d.lexVal 0x2703 2
  let copy := d.copiesDump stop
  let room := secs.takeWhile fun s => decide (s.1 + s.2.2.2.length ≤ len)
  let fit := match stop with | some (.copy n) => room.take n | _ => room
  let cut : Bool := room.length ≠ secs.length
  let trunc := if copy && cut then 4 else 0
  let flags := fl + (if copy then 2 else 0) + trunc
  let cells := (dumpBytes cap cause unit flags secs).foldl (fun m p => memPuts m (dumpBase + p.1) p.2) d.mem.cells
  let d := { d with
    mem := { d.mem with cells := cells }
    dump := { d.dump with st := if d.dumpStops stop then 3 else 2, cause := cause, flags := BitVec.ofNat 8 flags, unit := unit, period := cap.per.number } }
  if copy then
    let d := (dumpBytes cap cause unit (fl + trunc) fit).foldl (fun d p =>
      { d with mem := { d.mem with cells := memPuts d.mem.cells (addr + p.1) p.2 } }) d
    (List.range (cdiv (fit.foldl (fun m s => max m (s.1 + s.2.2.2.length)) 4096) 64)).foldl (fun d i =>
      d.rclSend (.putLine (addr + 64 * i) (Line.ofBytes (d.mem.read (addr + 64 * i) 64)) false)) d
  else d

/-- Step 6: what was fetched or issued and has not completed ends with DEVICE_HALTED. -/
def Dev.endAll (d : Dev) (st : BitVec 8) : Dev :=
  let d := (d.cmds.filter fun x => x.launch.isSome).foldl (fun d x => d.endCmd x.id st x.flags) d
  let d := (d.cmds.filter fun x => x.launch.isNone).foldl (fun d x => d.endCmd x.id st x.flags) d
  allQueues.foldl (fun d p =>
    let hs := d.ctx[p.1].queue[p.2].held
    let d := d.modQ p.1 p.2 fun y => { y with held := [], launch := none }
    hs.foldl (fun d h =>
      let (id, d) := d.newCmd (entryCmd p.1 p.2 h)
      d.endCmd id st) d) d

/-- Steps 1 and 3 to 8 of Table 18-1, `cap` being the capture of step 2. -/
def Dev.halt (d cap : Dev) (cause : BitVec 3) (unit : Word) (stop : Option DumpStop) : Dev :=
  let d := { d with
    tiles := [], tensors := [], attns := [], dump := { d.dump with due := none, st := 1 }
    arr := d.arr.map fun (x : Arr) => { x with tile := none, mcast := false }
    mc := d.mc.map fun (m : Mcast) => { m with group := none, waiting := [], buf := [] } }
  let d := (d.flushWcb).writeDump cap cause unit stop
  let d := d.endAll stHalted
  let d := { d with ctx := d.ctx.map fun (x : Ctx) => { x with cp := { x.cp with
    st := .idle, prog := none, ended := [], escape := [], ckpt := none } } }
  let d := (List.finRange 18).foldl (fun d p => d.portState p .down) d
  let d := { d with flt := { d.flt with fatal := true }, dump := { d.dump with halted := true } }
  d.startFlush 2 (some (cause.toNat + 256 * d.dump.flags.toNat + 2 ^ 32 * cap.per.number.toNat + 2 ^ 96 * unit.toNat))

/-- The block halts: the capture of step 2 is one as by TAKE. -/
def State.halt (s : State) (cause : BitVec 3) (unit : Word) (stop : Option DumpStop) : State :=
  let cap := { s.dev with takes := s.dev.takes + 1 }
  { s with snap := some s.dev, dev := cap.halt s.dev cause unit stop }

/-- CAUSE of Table 18-2. -/
def FatalCauseOf (c : FatalCause) : BitVec 3 :=
  match c with
  | .tileFourArrays => 1 | .supervisor => 2 | .cpCheckpoint => 3 | .supCheckpoint => 4 | .secondFault => 5

/-- A fault in the command is fatal (R412). -/
def Dev.fatalDue (d : Dev) (cause : BitVec 3) (unit : Word) : Dev := { d with dump := { d.dump with due := some (cause, unit) } }

/-- Run a change that may meet a fatal fault: the block then halts as the command ends; `stop` is a further fault. -/
def State.runFatal (s : State) (f : Dev → Dev) (stop : Option DumpStop := none) : Host.Outcome State Fault Refusal :=
  let t := { s with dev := f { s.dev with out := [], dump := { s.dev.dump with due := none } } }
  match t.dev.dump.due with
  | some (c, u) => .next (t.halt c u stop)
  | none => .next t

/-- FATAL_FAULT (R418), and a further fault while the dump is written (R419). -/
def execFatalFault (cause : FatalCause) (unit : Word) (s : State) (stop : Option DumpStop := none) : Host.Outcome State Fault Refusal :=
  s.runFatal (fun d => d.inService fun d => d.fatalDue (FatalCauseOf cause) unit) stop

end Sys2Proof.Machine
end

