-- ==== Sys2Proof/Machine/Link.lean ====
section
/-!
DEFINITION. Machine/Link.lean: chip-link ports (R273 to R283): flits with credits, acknowledgement and replay, lane failures,
and the states of a port.
-/
namespace Sys2Proof.Machine

/-! ## The flit on the wire (R274) -/

/-- The header, bits of bytes 0 to 7 (Table 12-3). -/
def flitHeader (f : Flit) : BitVec 64 :=
  f.type ++ f.cls ++ BitVec.ofBool f.stomp ++ f.seq ++ f.ack ++ BitVec.ofBool f.nak ++ f.crcls ++ BitVec.ofBool f.crv ++
    f.dest ++ f.src ++ f.stream ++ 0#3

/-- The CRC of bytes 0 to 71 (Table 12-2). -/
def flitCrc (body : BitVec 576) : Word := crc32 (leBytes body.toNat 72)

/-- The 80 bytes, byte 0 lowest: header, payload, CRC and the FEC check symbols (Table 12-2). -/
def flitWire (f : Flit) : BitVec 640 :=
  let body : BitVec 576 := f.payload ++ flitHeader f
  let coded : BitVec 608 := flitCrc body ++ body
  Config.fecSymbols coded ++ coded

/-- The CRC of an arriving flit holds. -/
def flitOk (w : BitVec 640) : Bool := flitCrc (w.extractLsb' 0 576) = w.extractLsb' 576 32

/-- The fields of an arriving flit. -/
def flitOfWire (w : BitVec 640) : Flit :=
  { type := w.extractLsb' 60 4, cls := w.extractLsb' 57 3, stomp := w.getLsbD 56, seq := w.extractLsb' 44 12
    ack := w.extractLsb' 32 12, nak := w.getLsbD 31, crcls := w.extractLsb' 28 3, crv := w.getLsbD 27
    dest := w.extractLsb' 21 6, src := w.extractLsb' 15 6, stream := w.extractLsb' 3 12, payload := w.extractLsb' 64 512 }

/-- A flit whose link fields are not yet stamped. -/
def flitPlain (type : BitVec 4) (cls : BitVec 3) (dest src : ModId) (stream : BitVec 12) (payload : Line) : Flit :=
  { type := type, cls := cls, stomp := false, seq := 0, ack := 0, nak := false, crcls := 0, crv := false
    dest := BitVec.ofNat 6 dest.val, src := BitVec.ofNat 6 src.val, stream := stream, payload := payload }

/-! ## Sending (R275 to R277) -/

/-- The port is in UP12 or UP8. -/
def Port.joined (x : Port) : Bool := x.st = .up12 || x.st = .up8

/-- The port sends: it is in UP12 or UP8 (R280), and no lane group is being retrained (R278). -/
def Port.up (x : Port) : Bool := x.joined && !x.busy

/-- The credits or owed buffers of a class; classes above 4 are reserved. -/
def classGet (v : Vector Nat 5) (c : Nat) : Nat := if h : c < 5 then v[c] else 0
def classMod (v : Vector Nat 5) (c : Nat) (f : Nat → Nat) : Vector Nat 5 := if h : c < 5 then v.set c (f v[c]) else v

/-- A class of which 8 freed buffers are to be returned. -/
def Port.due (x : Port) : Option Nat := (List.range 5).find? fun c => decide (8 ≤ classGet x.owed c)

/-- The acknowledgement and credit fields that every flit sent carries; the buffers returned are no longer owed. -/
def Port.stamp (x : Port) (f : Flit) (nak : Bool) : Flit × Port :=
  match x.due with
  | some c => ({ f with ack := x.ack, nak := nak, crcls := BitVec.ofNat 3 c, crv := true },
      { x with owed := classMod x.owed c (· - 8) })
  | none => ({ f with ack := x.ack, nak := nak, crcls := 0, crv := false }, x)

/-- A receive buffer of class `cls` at port `p` is free again (R275). -/
def Dev.freeBuffer (d : Dev) (p : PortId) (cls : BitVec 3) : Dev :=
  d.modPort p fun x => { x with owed := classMod x.owed cls.toNat (· + 1) }

/-- The oldest flit of a class, while the class holds a credit. -/
def Port.front (x : Port) (c : Nat) : Option TxFlit :=
  if classGet x.credits c = 0 then none else x.txq.find? fun t => t.f.cls.toNat = c

/-- The next flit to send: CONTROL and TICK flits first, then the classes 1 to 4 in round robin (R275). -/
def Port.pick (x : Port) : Option TxFlit :=
  (x.front 0).or ((List.range 4).findSome? fun i => x.front ((x.turn + i) % 4 + 1))

/-- Take a flit from those that wait: it takes a credit, the next SEQ and a place in the replay buffer. -/
def Port.launch (x : Port) (t : TxFlit) : Flit × Port :=
  let c := t.f.cls.toNat
  let (g, x) := ({ x with
    txq := x.txq.erase t, credits := classMod x.credits c (· - 1), seq := x.seq + 1
    turn := if c = 0 then x.turn else c } : Port).stamp { t.f with seq := x.seq } false
  (g, { x with replay := x.replay ++ [{ t with f := g, inPort := none }] })

/-- Put a flit on the wire; a message goes with its flit. -/
def Dev.wireOut (d : Dev) (p : PortId) (g : Flit) (t : TxFlit) : Dev :=
  let d := d.emit (.flit p (flitWire g) t.limited)
  match t.msg with
  | some (m, x) => d.emit (.group m x)
  | none => d

/-- Send flits while the port sends, its replay buffer has room and a class holds a credit (R275, R277). -/
def Dev.pump (d : Dev) (p : PortId) : Nat → Dev
  | 0 => d
  | fuel + 1 =>
    let x := d.port[p]
    if !x.up || decide (1024 ≤ x.replay.length) then d
    else
      match x.pick with
      | none => d
      | some t =>
        let (g, x) := x.launch t
        let d := ({ d with port := d.port.set p x }).wireOut p g t
        Dev.pump (match t.inPort with | some i => d.freeBuffer i t.f.cls | none => d) p fuel

/-- Give a flit to a port. -/
def Dev.pushFlit (d : Dev) (p : PortId) (t : TxFlit) : Dev :=
  let d := d.modPort p fun x => { x with txq := x.txq ++ [t] }
  d.pump p (d.port[p].txq.length)

/-- A NULL flit, which carries only ACK, NAK and credits (R275). -/
def Dev.sendNull (d : Dev) (p : PortId) (nak : Bool) : Dev :=
  let (g, x) := d.port[p].stamp (flitPlain 0 0 0 0 0 0) nak
  { d with port := d.port.set p x }.emit (.flit p (flitWire g) false)

/-- The port a flit to a module leaves on (R282): the lowest-numbered port of its entry that is in UP12 or UP8. -/
def Dev.routePort (d : Dev) (m : ModId) : Option PortId :=
  (List.finRange 18).find? fun p => d.grp.routes[m].valid && d.grp.routes[m].ports.getLsbD p.val && d.port[p].joined

/-! ## Messages (Table 12-4) -/

/-- The payload of a TICK flit (Table 13-3). -/
def tickPayload (gperiod : Nat) (rate hstate : BitVec 8) (head : ModId) (lead num den : Nat) : Line :=
  Line.ofBytes (leBytes gperiod 8 ++ [rate, hstate, BitVec.ofNat 8 head.val, 0] ++ leBytes lead 4 ++ leBytes num 4 ++ leBytes den 4)

/-- Send a message to a module of the group in a CONTROL or TICK flit on the route to it. A message to this module itself takes
no link, nor does one to a module that no route reaches yet (DESIGN CHOICE, log entry 102). -/
def Dev.sendMsg (d : Dev) (m : ModId) (x : GrpMsg) : Dev :=
  let own := d.grp.module
  let port := (d.routePort m).or ((List.finRange 18).find? fun p => d.port[p].joined && d.port[p].nbrModule = m)
  match (if m = own then none else port) with
  | none => d.emit (.group m x)
  | some p =>
    match x with
    | .tick g r h hd l n dn => d.pushFlit p { f := flitPlain 3 0 m own 0 (tickPayload g r h hd l n dn), msg := some (m, x) }
    | _ =>
      let (v, d) := d.draw 512
      d.pushFlit p { f := flitPlain 2 0 m own 0 v, msg := some (m, x) }

/-! ## Acknowledgement and replay (R277, R278) -/

/-- How far `s` lies after `a` in the 12-bit sequence. -/
def seqAfter (a s : BitVec 12) : Nat := (s - a).toNat

/-- Flits up to `ack` have arrived in order and leave the replay buffer. -/
def Port.acked (x : Port) (ack : BitVec 12) : Port :=
  { x with replay := x.replay.filter fun t => decide (0 < seqAfter ack t.f.seq ∧ seqAfter ack t.f.seq < 2048) }

/-- NAK (R277): everything after `ack` is sent again in order; more than 64 replays within 1 ms are a storm (R278). -/
def Dev.replayFrom (d : Dev) (p : PortId) (ack : BitVec 12) : Dev :=
  if !d.port[p].up then d
  else
    let d := d.modPort p fun x => x.acked ack
    let times := d.per.now :: (d.port[p].replayTimes.filter fun t => decide (d.per.now < t + msNs))
    let d := (d.modPort p fun x => { x with
      replays := satInc x.replays, replayTimes := times
      stormReported := x.stormReported && decide (64 < times.length) }).countPort 0 p
    let d := if 64 < times.length ∧ d.port[p].stormReported = false then
        ((d.modPort p fun x => { x with stormReported := true }).event (.port p) 0x0202 0
          (BitVec.ofNat 32 times.length)).countPort 3 p
      else d
    d.port[p].replay.foldl (fun d t =>
      let (g, x) := d.port[p].stamp t.f false
      ({ d with port := d.port.set p x }).wireOut p g t) d

/-! ## Corrected symbols (R274, R278, R301) -/

/-- The FEC has corrected symbols of a flit, each on its lane. -/
def Dev.countFixes (d : Dev) (p : PortId) (fixed : List (Fin 12)) : Dev :=
  d.modPort p fun x => { x with
    corrected := satAdd x.corrected fixed.length
    fixes := fixed.map (fun l => (d.per.now, l)) ++ x.fixes.filter fun y => decide (d.per.now < y.1 + msNs) }

/-! ## States (R278 to R280) -/

/-- The lane group of a lane. -/
def groupOf (l : Fin 12) : Nat := l.val / 4

/-- The far modules of the ports that carry traffic: this member's neighbour table (R304). -/
def Dev.neighbours (d : Dev) : List (Option ModId) :=
  (List.finRange 18).map fun p => if d.port[p].joined then some d.port[p].nbrModule else none

/-- A port enters a state with everything that its link held gone. -/
def Port.cleared (x : Port) : Port :=
  { x with seq := 0, ack := 0xFFF, replay := [], txq := [], credits := Vector.replicate 5 0
           owed := Vector.replicate 5 0, busy := false, asking := false }

/-- A port whose ends agree: every receive buffer here is the far end's to use (R275, R279). -/
def Port.opened (x : Port) : Port := { x.cleared with owed := Vector.ofFn fun c => 8 * Config.rxUnits c.val }

/-- A fast retrain drops the lane group of a failed lane (R278). -/
def Dev.dropGroup (d : Dev) (p : PortId) (l : Fin 12) : Dev :=
  let g := groupOf l
  let d := (d.portState p .up8).countPort 2 p
  d.modPort p fun x => { x with
    busy := true, dropped := BitVec.ofNat 2 (g + 1), retrains := satInc x.retrains
    lanes := (Vector.range 12).map fun i => if i = l.val then .failed else if i / 4 = g then .idle else
      (if h : i < 12 then x.lanes[i] else .active) }

end Sys2Proof.Machine
end

