-- ==== Sys2Proof/Machine/Coll.lean ====
section
/-!
DEFINITION. Machine/Coll.lean: collectives at one member (R284 to R300, R316 to R321): the command, its announcement, its
reservation, its segments on two trees or along routes, and its end; and the link commands that carry its flits.
-/
namespace Sys2Proof.Machine

/-! ## The command (R284, Table 12-7; R317, Table 13-6) -/

inductive CollKind | reduce | gather | permute
deriving DecidableEq, Repr

/-- A collective command as its fields. -/
structure CollE where
  kind : CollKind
  reshard : Bool
  sgather : Bool
  /-- KIND as it stands in byte 16. -/
  code : Nat
  dstFmt : Nat
  srcFmt : Nat
  rnd : Nat
  w128 : Bool
  overlap : Bool
  modeRsv : Nat
  resv : Nat
  /-- Bytes 20 to 23, the window base and the destination. -/
  b20 : Nat
  L : Int
  dest : Nat
  b23 : Nat
  members : BitVec 64
  tag : Word
  tid : Word
  src : DWord
  dst : DWord
  count : Nat
  seed : Word

def CollE.of (x : Cmd) : CollE :=
  let l := x.entry
  let kind : CollKind :=
    if x.kind = 0x11 then .permute else if x.kind = 0x12 then .gather
    else if ent l 16 1 = 2 then .gather else if ent l 16 1 = 3 then .permute else .reduce
  { kind := kind, reshard := x.kind = 0x11, sgather := x.kind = 0x12, code := ent l 16 1
    dstFmt := ent l 17 1 / 16, srcFmt := ent l 17 1 % 16, rnd := ent l 18 1 / 32, w128 := nbit (ent l 18 1) 4
    overlap := nbit (ent l 18 1) 3, modeRsv := ent l 18 1 % 8, resv := ent l 19 1, b20 := ent l 20 2
    L := sext 16 (ent l 20 2), dest := ent l 22 1, b23 := ent l 23 1, members := BitVec.ofNat 64 (ent l 24 8)
    tag := BitVec.ofNat 32 (ent l 32 4), tid := BitVec.ofNat 32 (ent l 36 4), src := BitVec.ofNat 64 (ent l 40 8)
    dst := BitVec.ofNat 64 (ent l 48 8), count := ent l 56 4, seed := BitVec.ofNat 32 (ent l 60 4) }

def CollE.wire (e : CollE) : Wire := if e.w128 then .w128 else .w64

def CollKind.code : CollKind → Nat | .reduce => 1 | .gather => 2 | .permute => 3

/-- The member modules in ascending number; their places are the ranks (R292). -/
def membersOf (m : BitVec 64) : List ModId := (List.finRange 64).filter fun i => m.getLsbD i.val
def rankOf (m : BitVec 64) (i : ModId) : Nat := (membersOf m).idxOf i

/-- Tiles of a command that hold final values of C, in expansion order: those of its last K chunk (R296, R142). -/
def Tensor.finalTiles (t : Tensor) : List TilePos :=
  (List.range t.candidates).filterMap fun i =>
    match t.candidate i with
    | some p => if p.ch + 1 = t.x.chunks t.shape then some p else none
    | none => none

/-- Valid output columns of a tile, and valid elements of C. -/
def Tensor.elems (t : Tensor) (gate : Bool) : Nat := t.p0 * t.p1 * t.p2 * t.m * outLen gate t.n
def Dev.gateOf (d : Dev) (c : CtxId) (t : Tensor) : Bool := (d.epiOf c t.x.epi).gate

/-- Bytes of one slot of the reservation: 64 KiB, under OVERLAP the wire size of the largest tile (R295). -/
def Dev.slotBytes (d : Dev) (x : Cmd) (e : CollE) : Nat :=
  match e.overlap, x.bound with
  | true, some t =>
    let w := t.x
    min w.tm (w.rowsOf t.shape) * outLen (d.gateOf x.c t) (min w.tn t.n) * e.wire.bytes
  | _, _ => 65536

/-- Bytes of memory that the source and the destination take. -/
def CollE.srcBytes (e : CollE) : Nat :=
  match e.kind with | .reduce => e.count * (fmtWidth e.srcFmt / 8) | _ => e.count
def CollE.dstBytes (e : CollE) : Nat :=
  match e.kind with
  | .reduce => e.count * (fmtWidth e.dstFmt / 8)
  | .gather => e.count * (membersOf e.members).length
  | .permute => e.count

/-- An address field that names user memory: SPACE 0, or SPACE 1 within the share. -/
def Dev.collAddrOk (d : Dev) (c : CtxId) (a : DWord) (n : Nat) : Bool :=
  addrRsv a = 0 && (addrSpace a = 0 || (addrSpace a = 1 && d.slotRangeOk c (addrOf a) n))

/-- The fields that Table 13-6 defines for RESHARD and SGATHER. -/
def CollE.shardFirst (e : CollE) : Nat := e.b20
def CollE.shardCount (e : CollE) : Nat := if e.reshard then e.b23 + 1 else 1
def CollE.named (e : CollE) : List Nat :=
  if e.reshard || e.sgather then (List.range e.shardCount).map (e.shardFirst + ·) else []

/-- Every field keeps to Table 12-7 or 13-6 (R284, R285, R296). -/
def Dev.collFieldsOk (d : Dev) (x : Cmd) (e : CollE) : Bool :=
  let isR := decide (e.kind = .reduce)
  let fmts := if isR then [5, 6].contains e.dstFmt && [5, 6].contains e.srcFmt else e.dstFmt = 0 && e.srcFmt = 0
  let low :=
    if e.reshard then decide (e.b20 + e.b23 + 1 ≤ 4096) && decide (e.dest < 64)
    else if e.sgather then decide (e.b20 < 4096) && decide (e.dest < 2)
    else (if isR then decide (-192 ≤ e.L) && decide (e.L ≤ 127) else e.b20 = 0) && e.b23 = 0 &&
      (if e.kind = .permute then decide (e.dest < 64) else e.dest = 0)
  let bytes := isR || decide (e.count % 64 = 0)
  let ovl : Bool :=
    if e.overlap then
      match x.bound with
      | some t => isR && (t.x.fc = 5 || t.x.fc = 6) && e.dstFmt = t.x.fc && decide (e.src = 0) &&
          e.count = t.elems (d.gateOf x.c t)
      | none => false
    else true
  e.code = e.kind.code && fmts && (RMode.ofCode e.rnd).isSome && e.modeRsv = 0 && decide (1 ≤ e.resv) &&
    decide (e.resv ≤ 128) && low && bytes && ovl && (e.overlap || d.collAddrOk x.c e.src e.srcBytes) &&
    d.collAddrOk x.c e.dst (if e.overlap then 0 else e.dstBytes)

/-- RESV holds two segments (R285). -/
def Dev.resvOk (d : Dev) (x : Cmd) (e : CollE) : Bool := decide (2 * d.slotBytes x e ≤ e.resv * 262144)

/-- The digest (R287): KIND, WIRE, L, COUNT, OVERLAP and the tile count; for RESHARD and SGATHER bytes 20 to 23 but for the
destination. DEST stands in the announcement by itself, as the members of a PERMUTE differ in it. -/
def CollE.digest (e : CollE) (cmdKind tiles : Nat) : Nat :=
  let b22 := if e.kind = .permute then 0 else e.dest
  ((((((cmdKind * 256 + e.code) * 2 + (if e.w128 then 1 else 0)) * 65536 + e.b20) * 256 + b22) * 256 + e.b23) * 2 ^ 32 +
    e.count) * 2 ^ 64 + (if e.overlap then 2 ^ 63 + tiles else 0)

/-! ## Announcing (R285, R287, R318) -/

/-- Send a message to the Head in force. -/
def Dev.toHead (d : Dev) (m : GrpMsg) : Dev := d.sendMsg d.grp.head m

def isCollKind (k : Nat) : Bool := k = 0x10 || k = 0x11 || k = 0x12

/-- Every collective that was dispatched or issued before a RESHARD has its CSN (R318). -/
def Dev.earlierAssigned (d : Dev) (id : Nat) : Bool :=
  (d.cmds.filter fun y => isCollKind y.kind && decide (y.id < id)).all fun y =>
    match d.coll? y.id with
    | some k => k.phase ≠ .announced
    | none => false

/-- The bound command of an OVERLAP collective has met its waits (R287). -/
def Dev.boundReady (d : Dev) (x : Cmd) (e : CollE) : Bool :=
  match e.overlap, x.bound with
  | true, some t => (d.cmd? t.cmd).all fun y => y.phase ≠ .waiting
  | _, _ => true

/-- A collective whose waits are met, and those of its bound command, announces itself to the Head (R287), or ends when its
member bit is clear (R285). A misconfigured member announces nothing (R305), nor does one whose group has not formed or which
has not joined it (R304). -/
def Dev.announce (d : Dev) (x : Cmd) : Dev :=
  let e := CollE.of x
  let poisoned := d.waitPoisoned x
  if !e.members.getLsbD d.grp.module.val then d.endCmd x.id stExceeds
  else if d.grp.role = .misconfigured ∨ !d.grp.formed ∨ (d.coll? x.id).isSome ∨
      (e.reshard ∧ !d.earlierAssigned x.id) ∨ !d.boundReady x e then d
  else
    let bad := !d.collFieldsOk x e || !d.resvOk x e || (e.overlap && x.launch.isNone) || poisoned
    let tiles := match x.bound with | some t => t.finalTiles.length | none => 0
    let a : Announce :=
      { members := e.members, tag := e.tag, digest := e.digest x.kind tiles, dest := e.dest, isPermute := e.kind = .permute
        isReshard := e.reshard, withdrawn := bad, poisoned := poisoned }
    let d := { d with cjn := { d.cjn with colls := d.cjn.colls ++ [({ cmd := x.id, ann := a } : Coll)] } }
    d.toHead (.announce d.grp.module a)

/-- Announce every ready collective that has not announced: a RESHARD whose turn has come (R318). -/
def Dev.announceReady (d : Dev) : Dev :=
  (d.cmds.filter fun x => isCollKind x.kind && x.phase = .ready).foldl (fun d x => d.announce x) d

/-! ## Trees (R292) -/

/-- The positions of `n` places from `lo`, each with its parent. -/
def buildTree : Nat → Nat → Nat → Option Nat → List (Nat × Option Nat)
  | 0, _, _, _ => []
  | f + 1, lo, n, par =>
    if n = 0 then []
    else
      let mid := (2 * lo + n - 1) / 2
      (mid, par) :: (buildTree f lo (mid - lo) (some mid) ++ buildTree f (mid + 1) (lo + n - 1 - mid) (some mid))

/-- Tree T0, or T1 over the reversed list: each member with its parent. -/
def treeOf (m : BitVec 64) (t1 : Bool) : List (ModId × Option ModId) :=
  let ms := membersOf m
  let n := ms.length
  let at_ (q : Nat) : ModId := ms.getD (if t1 then n - 1 - q else q) 0
  (buildTree n 0 n none).map fun p => (at_ p.1, p.2.map at_)

def treeParent (m : BitVec 64) (t1 : Bool) (i : ModId) : Option ModId :=
  ((treeOf m t1).find? (·.1 = i)).bind (·.2)
def treeChildren (m : BitVec 64) (t1 : Bool) (i : ModId) : List ModId :=
  ((treeOf m t1).filter (·.2 = some i)).map (·.1)

/-! ## Segments (R291, R298) -/

/-- Segments of a byte range or element range, by length. -/
def cutSegs (per : Nat) (total : Nat) : List Seg :=
  (List.range (cdiv total per)).map fun i => { first := i * per, len := min per (total - i * per) }

/-- The segments of a collective. -/
def Dev.segsOf (d : Dev) (x : Cmd) (e : CollE) : List Seg :=
  match e.kind with
  | .reduce =>
    match e.overlap, x.bound with
    | true, some t => (t.finalTiles.foldl (fun (acc : Nat × List Seg) p =>
        let n := t.rows p * t.outCols (d.gateOf x.c t) p
        (acc.1 + n, acc.2 ++ [({ first := acc.1, len := n } : Seg)])) (0, [])).2
    | _, _ => cutSegs (65536 / e.wire.bytes) e.count
  | _ => cutSegs 65536 e.count

/-- The peers to which this member's part of a segment goes and those from which parts come: for ALL_REDUCE the children
by tree; for byte kinds the destinations and the sources. -/
def CollE.dests (e : CollE) (own : ModId) : List ModId :=
  match e.kind with
  | .gather => (membersOf e.members).filter (· ≠ own)
  | .permute => (membersOf e.members).filter fun m => m ≠ own && m.val = e.dest
  | .reduce => []

def segTree (e : CollE) (s : Nat) : Bool := e.kind = .reduce && s % 2 = 1

/-- Wire bytes of a segment. -/
def CollE.segBytes (e : CollE) (s : Seg) : Nat := if e.kind = .reduce then s.len * e.wire.bytes else s.len

/-- A peer's part has arrived whole. -/
def Seg.whole (s : Seg) (peer : ModId) (n : Nat) : Bool :=
  s.ins.any fun p => p.1 = peer && decide (n ≤ p.2.length)

/-- The sources of a byte kind whose parts are expected: every other member, or the one that has sent. A member whose DEST
is its own module has no other source (R316). -/
def CollE.sourcesDone (e : CollE) (own : ModId) (s : Seg) : Bool :=
  match e.kind with
  | .reduce => true
  | .gather => ((membersOf e.members).filter (· ≠ own)).all fun m => s.whole m s.len
  | .permute => e.dest = own.val || s.ins.any fun p => decide (s.len ≤ p.2.length)

/-- The segment is over at this member (R295, R297). -/
def Seg.over (e : CollE) (own : ModId) (i : Nat) (s : Seg) : Bool :=
  match e.kind with
  | .reduce => s.w.isSome && (treeChildren e.members (segTree e i) own).all fun m => s.doneFrom.contains m
  | _ => s.sentUp && (e.dests own).all (fun m => s.doneFrom.contains m) && e.sourcesDone own s

/-- The segment holds a slot of the reservation (R295). -/
def Seg.holds (e : CollE) (own : ModId) (i : Nat) (s : Seg) : Bool :=
  (s.own.isSome || s.ins != []) && !s.over e own i

/-- A slot is there for segment `i`: it holds one, or one is free. -/
def Dev.slotFree (d : Dev) (x : Cmd) (e : CollE) (k : Coll) (i : Nat) : Bool :=
  let own := d.grp.module
  match k.segs[i]? with
  | none => false
  | some s => s.holds e own i ||
      decide (((k.segs.zipIdx.filter fun p => p.1.holds e own p.2).length + 1) * d.slotBytes x e ≤ k.resv * 262144)

/-! ## Own contribution (R72, R294, R296, R300) -/

def Wire.enc (k : Wire) (i : Int) : List Byte := leBytes (BitVec.ofInt (8 * k.bytes) i).toNat k.bytes
def Wire.dec (k : Wire) (bs : List Byte) : Int := sext (8 * k.bytes) (leNat bs)
def Wire.ints (k : Wire) (n : Nat) (bs : List Byte) : List Int := (chunksOf k.bytes n bs).map k.dec

/-- The rows of an OVERLAP segment's tile in the layout of C over a base: address, first index in the output tensor, and
columns. -/
def Tensor.tileRows (t : Tensor) (gate : Bool) (base : Nat) (p : TilePos) : List (Nat × Nat × Nat) :=
  (List.range (t.rows p)).map fun row =>
    let (p0, m) := t.rowAt p row
    let c0 := outLen gate (p.s * t.x.tn)
    ((base + t.x.c.elemOff (fmtWidth t.x.fc) p0 p.p1 p.p2 m c0) % 2 ^ 52, t.rho p row * outLen gate t.n + c0,
      t.outCols gate p)

/-- The tile of an OVERLAP segment. -/
def Cmd.tileOf (x : Cmd) (i : Nat) : Option (Tensor × TilePos) :=
  x.bound.bind fun t => (t.finalTiles[i]?).map fun p => (t, p)

/-- A tile's contribution is to be had: it has been released (R296). Where its command has ended without releasing it (it
was abandoned or failed), its values are open. -/
def Dev.contribution (d : Dev) (x : Cmd) (e : CollE) (i : Nat) : Option Bool :=
  if e.overlap then
    match x.tileOf i with
    | some (t, p) => if t.fin.contains p then some true else if (d.cmd? t.cmd).isNone then some false else none
    | none => none
  else some true

/-- Draw `n` free codes of `w` bits. -/
def Dev.drawCodes (d : Dev) (w : Nat) : Nat → List (Nat × Bool) × Dev
  | 0 => ([], d)
  | n + 1 =>
    let (v, d) := d.draw w
    let (l, d) := d.drawCodes w n
    ((v.toNat, false) :: l, d)

/-- The element codes of the own contribution to a segment, with the mark of poison. -/
def Dev.sourceCodes (d : Dev) (x : Cmd) (e : CollE) (i : Nat) (s : Seg) : List (Nat × Bool) × Dev :=
  let who : Actor := .cmd x.id
  if e.overlap then
    match x.tileOf i with
    | none => ([], d)
    | some (t, p) =>
      let w := fmtWidth t.x.fc
      if t.fin.contains p then
        (t.tileRows (d.gateOf x.c t) t.x.c.base p).foldl (fun acc r =>
          let (bs, d) := acc.2.loadSpace who x.c none t.x.c.space r.1 (r.2.2 * (w / 8))
          (acc.1 ++ elemCodes w bs r.2.2, d)) ([], d)
      else d.drawCodes w s.len
  else
    let w := fmtWidth e.srcFmt
    let (bs, d) := d.loadSpace who x.c none (addrSpace e.src) ((addrOf e.src + s.first * (w / 8)) % 2 ^ 52) (s.len * (w / 8))
    (elemCodes w bs s.len, d)

/-- Change segment `i` of a collective. -/
def Dev.modSeg (d : Dev) (id i : Nat) (f : Seg → Seg) : Dev :=
  d.modColl id fun k => { k with segs := k.segs.modify i f }

/-- Read the own contribution to a segment, once: a value v enters the wire under R72 and R73, a poisoned one as NaN
(R300); byte kinds are read as they stand. -/
def Dev.readOwn (d : Dev) (x : Cmd) (e : CollE) (i : Nat) (s : Seg) : Dev :=
  if s.own.isSome then d
  else
    match e.kind with
    | .reduce =>
      let (cs, d) := d.sourceCodes x e i s
      let f := (Fmt.ofCode (if e.overlap then e.dstFmt else e.srcFmt)).getD .fp32
      let ws := cs.map fun c => e.wire.conv e.L (if c.2 then .nan else f.value c.1)
      d.modSeg x.id i fun y => { y with own := some (ws.flatMap fun w => e.wire.enc w.w), limited := y.limited || ws.any (·.sat) }
    | _ =>
      let (bs, d) := d.loadSpace (.cmd x.id) x.c none (addrSpace e.src) ((addrOf e.src + s.first) % 2 ^ 52) s.len
      d.modSeg x.id i fun y => { y with own := some (bytesOf bs) }

/-! ## Writing a segment (R72, R75, R296, R298, R319) -/

/-- Convert one W and gather the flags of the destination. -/
def CollE.convW (e : CollE) (w : Int) (idx : Nat) : Conv :=
  let m := (RMode.ofCode e.rnd).getD .rne
  (if e.dstFmt = 5 then ffBf16 else ffFp32).conv m (if m = .sr then (srWord e.seed e.tid idx).toNat else 0)
    (e.wire.value e.L w)

/-- Write a run of converted elements, the first with output index `idx`. -/
def Dev.writeRun (d : Dev) (x : Cmd) (e : CollE) (addr idx : Nat) (ws : List Int) : Dev :=
  let cs := ws.zipIdx.map fun p => e.convW p.1 (idx + p.2)
  let d := d.storeSpace (.cmd x.id) x.c none (addrSpace e.dst) addr (cs.flatMap fun c => leBytes c.code (fmtWidth e.dstFmt / 8))
  let fl := (if cs.any (·.sat) then flSat else 0) ||| (if cs.any (·.nan) then flNan else 0)
  d.modColl x.id fun k => { k with flags := k.flags ||| fl }

/-- A member that holds W writes the segment to DST (R294); W tells whether it is NaN and whether a contribution to it was
limited (R297). -/
def Dev.writeW (d : Dev) (x : Cmd) (e : CollE) (i : Nat) (s : Seg) (w : List Byte) : Dev :=
  let ints := e.wire.ints s.len w
  let d := d.modSeg x.id i fun y => { y with w := some w }
  let fl := (if s.limited then flSat else 0) ||| (if ints.any (· = e.wire.nanInt) then flNan else 0)
  let d := d.modColl x.id fun k => { k with flags := k.flags ||| fl }
  if e.overlap then
    match x.tileOf i with
    | none => d
    | some (t, p) =>
      ((t.tileRows (d.gateOf x.c t) (addrOf e.dst) p).foldl (fun (acc : Dev × List Int) r =>
        (acc.1.writeRun x e r.1 r.2.1 (acc.2.take r.2.2), acc.2.drop r.2.2)) (d, ints)).1
  else d.writeRun x e ((addrOf e.dst + s.first * (fmtWidth e.dstFmt / 8)) % 2 ^ 52) s.first ints

/-- Write a source's bytes of a segment (R298). A RESHARD in place first reads its own segment (R319). -/
def Dev.writeBytes (d : Dev) (x : Cmd) (e : CollE) (i : Nat) (s : Seg) (src : ModId) (bs : List Byte) : Dev :=
  let d := if e.src = e.dst then d.readOwn x e i s else d
  let o := match e.kind with | .gather => e.count * rankOf e.members src | _ => 0
  d.storeSpace (.cmd x.id) x.c none (addrSpace e.dst) ((addrOf e.dst + o + s.first) % 2 ^ 52) bs

/-! ## The end of a collective (R289, R297) -/

/-- End a collective: it leaves the store, its completion is reported to the Head (R318) and its command ends. -/
def Dev.endColl (d : Dev) (k : Coll) (st : BitVec 8) (fl : BitVec 4) : Dev :=
  let d := { d with cjn := { d.cjn with
    colls := d.cjn.colls.filter (·.cmd ≠ k.cmd)
    saturated := if fl &&& flSat ≠ 0 then satInc d.cjn.saturated else d.cjn.saturated
    nan := if fl &&& flNan ≠ 0 then satInc d.cjn.nan else d.cjn.nan } }
  let d := if k.phase = .announced then d else d.toHead (.complete d.grp.module k.csn)
  d.endCmd k.cmd st fl

/-- A granted collective completes when every segment is over (R297); one with COUNT 0 at once, under OVERLAP when its
bound command has completed (R286). -/
def Dev.settleColl (d : Dev) (id : Nat) : Dev :=
  match d.coll? id, d.cmd? id with
  | some k, some x =>
    let e := CollE.of x
    if k.phase ≠ .granted then d
    else if e.count = 0 then
      let boundDone := match e.overlap, x.bound with | true, some t => (d.cmd? t.cmd).isNone | _, _ => true
      if boundDone then d.endColl k stEmpty 0 else d
    else if k.segs.zipIdx.all fun p => p.1.over e d.grp.module p.2 then d.endColl k stOk k.flags
    else d
  | _, _ => d

/-- Collectives that wait for nothing but the end of their bound command. -/
def Dev.settleColls (d : Dev) : Dev := d.cjn.colls.foldl (fun d k => d.settleColl k.cmd) d

/-- A tensor command has met its waits or ended: an OVERLAP collective bound to it may announce itself, and one of no elements
may complete (R286, R287). -/
def Dev.boundMoves (d : Dev) (x : Cmd) : Dev := if x.kind = 0x40 then d.announceReady.settleColls else d

/-! ## Flits of a collective (R275, R283, R293, R294) -/

/-- The port of a stream toward a peer: the one it has opened on; else the lowest port that joins the two directly and that
no other edge of the collective uses, else the lowest such, else the route's (R293). -/
def Dev.edgePort (d : Dev) (k : Coll) (peer : ModId) (tree : Bool) : Option PortId :=
  match k.edges.find? fun g => g.peer = peer && g.tree = tree with
  | some g => some g.port
  | none =>
    let direct := (List.finRange 18).filter fun p => d.port[p].joined && d.port[p].nbrModule = peer
    match direct.find? fun p => !k.edges.any (·.port = p) with
    | some p => some p
    | none => match direct with | p :: _ => some p | [] => d.routePort peer

/-- Open the edge toward a peer. -/
def Dev.openEdge (d : Dev) (id : Nat) (peer : ModId) (tree route : Bool) : Dev :=
  match d.coll? id with
  | none => d
  | some k =>
    if k.edges.any fun g => g.peer = peer && g.tree = tree then d
    else
      match (if route then d.routePort peer else d.edgePort k peer tree) with
      | some p => d.modColl id fun k => { k with edges := k.edges ++ [({ peer := peer, tree := tree, port := p } : Edge)] }
      | none => d

/-- STREAM of a DATA flit (Table 12-3). -/
def streamOf (csn : Nat) (tree : Bool) : BitVec 12 := BitVec.ofNat 12 (csn % 2048 * 2 + (if tree then 1 else 0))

/-- Open the edges of a collective that is assigned, on the routes then in force (R283, R293): to its parent and its children on
both trees, or to its destinations. -/
def Dev.openEdges (d : Dev) (id : Nat) (e : CollE) : Dev :=
  let own := d.grp.module
  let d := if e.kind ≠ .reduce then d else
    [false, true].foldl (fun d t =>
      ((treeParent e.members t own).toList ++ treeChildren e.members t own).foldl (fun d m => d.openEdge id m t false) d) d
  (e.dests own).foldl (fun d m => d.openEdge id m false true) d

/-- Send bytes to a peer as flits of 64 bytes on the port that the stream has opened on. -/
def Dev.sendBytes (d : Dev) (k : Coll) (peer : ModId) (tree : Bool) (cls : BitVec 3) (bs : List Byte)
    (limited : Bool := false) : Dev :=
  match (k.edges.find? fun g => g.peer = peer && g.tree = tree) with
  | none => d
  | some g =>
    (chunksOf 64 (cdiv bs.length 64) bs).foldl (fun d c => d.pushFlit g.port
      { f := flitPlain 1 cls peer d.grp.module (streamOf k.csn tree) (Line.ofBytes c), limited := limited }) d

/-- The partial sum of a segment: the own contribution and the children's sums, exactly (R294). -/
def CollE.partialSum (e : CollE) (s : Seg) (own : List Byte) : List Byte :=
  let parts := s.ins.map fun p => e.wire.ints s.len p.2
  ((e.wire.ints s.len own).zipIdx.map fun (v, j) =>
    e.wire.enc (parts.foldl (fun a l => e.wire.add a (l.getD j 0)) v)).flatten

/-- Sums that lie in a granule of the store with a double-bit error are NaN (R255, R300). -/
def CollE.spoil (e : CollE) (bad : List Nat) (bs : List Byte) : List Byte :=
  ((e.wire.ints (bs.length / e.wire.bytes) bs).zipIdx.map fun (v, j) =>
    e.wire.enc (if bad.any fun g => 8 * g / e.wire.bytes = j then e.wire.nanInt else v)).flatten

/-- A read of the store meets double-bit errors (R255, R259): each is an event, and counted. The word's place in the store is
open (log entry 103). -/
def Dev.storeErrors (d : Dev) (bad : List Nat) : Dev :=
  bad.foldl (fun d _ =>
    let (w, d) := d.draw 23
    (d.event .fault 0x0301 (w.setWidth 64) 0x100).count 26) d

/-- The partial sum of a segment goes to the parent; the root holds W (R294). -/
def Dev.sendUp (d : Dev) (x : Cmd) (e : CollE) (k : Coll) (i : Nat) (s : Seg) (bad : List Nat) : Dev :=
  let own := d.grp.module
  let t := segTree e i
  let kids := treeChildren e.members t own
  let lower := k.segs.zipIdx.all fun p => decide (i ≤ p.2) || segTree e p.2 ≠ t || p.1.sentUp
  if s.sentUp ∨ !lower ∨ !d.slotFree x e k i ∨ (d.contribution x e i).isNone ∨
      !kids.all (fun m => s.whole m (e.segBytes s)) then d
  else
    let par := treeParent e.members t own
    let d := match par with | some m => d.openEdge x.id m t false | none => d
    let d := d.readOwn x e i s
    match d.coll? x.id with
    | none => d
    | some k =>
      match k.segs[i]? with
      | none => d
      | some s =>
        let d := d.storeErrors bad
        let sum := e.spoil bad (e.partialSum s (s.own.getD []))
        match par with
        | none => ((d.modSeg x.id i fun y => { y with sentUp := true }).writeW x e i s sum).settleColl x.id
        | some m =>
          if k.edges.any fun g => g.peer = m && g.tree = t then
            (d.modSeg x.id i fun y => { y with sentUp := true }).sendBytes k m t 1 sum s.limited
          else d

/-- W goes to the children that have not been sent it and have been sent the lower segments of its tree (R294). -/
def Dev.sendDown (d : Dev) (x : Cmd) (e : CollE) (k : Coll) (i : Nat) (s : Seg) (bad : List Nat) : Dev :=
  match s.w with
  | none => d
  | some w0 =>
    let t := segTree e i
    let lower (m : ModId) : Bool := k.segs.zipIdx.all fun p =>
      decide (i ≤ p.2) || segTree e p.2 ≠ t || p.1.sentTo.contains m || p.1.doneFrom.contains m
    let w := e.spoil bad w0
    let d := if bad = [] then d else
      ((d.storeErrors bad).modSeg x.id i fun y => { y with w := some w }).modColl x.id fun k => { k with flags := k.flags ||| flNan }
    ((treeChildren e.members t d.grp.module).filter fun m => !s.sentTo.contains m && lower m).foldl (fun d m =>
      let d := d.openEdge x.id m t false
      match d.coll? x.id with
      | some k =>
        if k.edges.any fun g => g.peer = m && g.tree = t then
          (d.modSeg x.id i fun y => { y with sentTo := y.sentTo ++ [m] }).sendBytes k m t 2 w s.limited
        else d
      | none => d) d

/-- The own bytes of a segment go to their destinations along routes; a part for this member itself is copied (R298, R316). -/
def Dev.sendOwn (d : Dev) (x : Cmd) (e : CollE) (k : Coll) (i : Nat) (s : Seg) : Dev :=
  let own := d.grp.module
  let lower := k.segs.zipIdx.all fun p => decide (i ≤ p.2) || p.1.sentUp
  if !lower ∨ !d.slotFree x e k i then d
  else
    let d := d.readOwn x e i s
    let bs := ((d.coll? x.id).bind fun k => (k.segs[i]?).bind (·.own)).getD []
    let toSelf : Bool := e.kind = .gather || e.dest = own.val
    let d := if toSelf && !s.sentUp then d.writeBytes x e i { s with own := some bs } own bs else d
    let d := d.modSeg x.id i fun y => { y with sentUp := true }
    let d := ((e.dests own).filter fun m => !s.sentTo.contains m).foldl (fun d m =>
      let d := d.openEdge x.id m false true
      match d.coll? x.id with
      | some k =>
        if k.edges.any fun g => g.peer = m && !g.tree then
          (d.modSeg x.id i fun y => { y with sentTo := y.sentTo ++ [m] }).sendBytes k m false 3 bs
        else d
      | none => d) d
    d.settleColl x.id

/-- SEGMENT_SEND: a segment's partial sum goes up or its W goes down; a byte kind sends its own segment. `bad` lists the granules
of its slot in which the read meets a double-bit error; only sums are marked by one (R255). -/
def Dev.segmentSend (d : Dev) (csn seg : Nat) (down : Bool) (bad : List Nat) : Dev :=
  match d.cjn.colls.find? fun k => k.phase = .granted && k.csn = csn with
  | none => d
  | some k =>
    match d.cmd? k.cmd, k.segs[seg]? with
    | some x, some s =>
      let e := CollE.of x
      match e.kind, down with
      | .reduce, false => d.sendUp x e k seg s (bad.eraseDups.filter fun g => decide (8 * g < e.segBytes s))
      | .reduce, true => d.sendDown x e k seg s (bad.eraseDups.filter fun g => decide (8 * g < e.segBytes s))
      | _, false => (d.storeErrors bad.eraseDups).sendOwn x e k seg s
      | _, true => d
    | _, _ => d

/-! ## Data that arrives (R276, R283, R294, R295) -/

/-- The streams of a granted collective: from each child and from the parent by tree; from each source of a gather. The
source of a PERMUTE opens its stream with its first flit. -/
def CollE.streams (e : CollE) (own : ModId) (n : Nat) : List Stream :=
  let segs (t : Bool) : List Nat := (List.range n).filter fun i => segTree e i = t
  match e.kind with
  | .reduce => [false, true].flatMap fun t =>
      ((treeChildren e.members t own).map fun m => ({ peer := m, tree := t, down := false, todo := segs t } : Stream)) ++
        (match treeParent e.members t own with
         | some m => [({ peer := m, tree := t, down := true, todo := segs t } : Stream)]
         | none => [])
  | .gather => ((membersOf e.members).filter (· ≠ own)).map fun m =>
      { peer := m, tree := false, down := false, todo := List.range n }
  | .permute => []

def Dev.modStream (d : Dev) (id : Nat) (peer : ModId) (tree down : Bool) (f : Stream → Stream) : Dev :=
  d.modColl id fun k => { k with
    streams := k.streams.map fun y => if y.peer = peer ∧ y.tree = tree ∧ y.down = down then f y else y }

/-- The segments that a reopened stream starts with (R299): of its tree, those for which this member has sent or has had no
SEG_DONE. -/
def Coll.resume (k : Coll) (e : CollE) (y : Stream) : List Nat :=
  ((List.range k.segs.length).filter fun i => segTree e i = y.tree).filter fun i =>
    match k.segs[i]? with
    | none => false
    | some s => if e.kind ≠ .reduce then !s.whole y.peer s.len else if y.down then s.w.isNone else !s.doneFrom.contains y.peer

/-- Take one DATA flit of a granted collective; none when it must wait for a slot (R295). -/
def Dev.takeData (d : Dev) (p : PortId) (f : Flit) (limited : Bool) (k : Coll) (x : Cmd) : Option Dev :=
  let e := CollE.of x
  let own := d.grp.module
  let peer : ModId := ⟨f.src.toNat, f.src.isLt⟩
  let tree := f.stream.getLsbD 0
  let down := decide (f.cls = 2)
  let d := if e.kind = .permute ∧ k.streams = [] ∧ f.cls = 3 ∧ e.members.getLsbD peer.val then
      d.modColl k.cmd fun k => { k with
        streams := [({ peer := peer, tree := tree, down := false, todo := List.range k.segs.length } : Stream)] }
    else d
  match d.coll? k.cmd with
  | none => some d
  | some k =>
    match k.streams.find? fun y => y.peer = peer && y.tree = tree && y.down = down with
    | none => some d
    | some y =>
      let y := if y.reopened then { y with todo := k.resume e y, off := 0, reopened := false } else y
      match y.todo with
      | [] => some d
      | i :: rest =>
        match k.segs[i]? with
        | none => some d
        | some s =>
          if !down && !d.slotFree x e k i then none
          else
            let n := e.segBytes s
            let have_ := if down then s.inW.length else ((s.ins.find? (·.1 = peer)).map (·.2.length)).getD 0
            let new := (f.payload.bytes.take (n - y.off)).drop (have_ - y.off)
            let off := y.off + 64
            let y' := { y with
              todo := if n ≤ off then rest else y.todo, off := if n ≤ off then 0 else off, port := some p, reopened := false }
            let d := d.modStream k.cmd peer tree down fun _ => y'
            let d := d.modSeg k.cmd i fun s =>
              let s := { s with limited := s.limited || limited }
              if down then { s with inW := s.inW ++ new }
              else { s with ins := match s.ins.find? (·.1 = peer) with
                | some _ => s.ins.map fun q => if q.1 = peer then (q.1, q.2 ++ new) else q
                | none => s.ins ++ [(peer, new)] }
            let done := decide (have_ < n ∧ n ≤ have_ + new.length)
            if !done then some d
            else
              match (d.coll? k.cmd).bind fun k => k.segs[i]? with
              | none => some d
              | some s =>
                if down then
                  let d := d.writeW x e i s s.inW
                  let d := match treeParent e.members tree own with
                    | some m => d.sendMsg m (.segDone k.csn i)
                    | none => d
                  some (d.settleColl k.cmd)
                else if e.kind = .reduce then some d
                else
                  let bs := ((s.ins.find? (·.1 = peer)).map (·.2)).getD []
                  let d := (d.writeBytes x e i s peer bs).sendMsg peer (.segDone k.csn i)
                  some (d.settleColl k.cmd)

/-- The DATA flit is of a collective that this member has been or may yet be assigned. -/
def Dev.mayCome (d : Dev) (f : Flit) : Bool :=
  let n := f.stream.toNat / 2
  d.cjn.colls.any (fun k => k.phase = .assigned && k.csn % 2048 = n) ||
    decide ((n + 2048 - ((d.cjn.last.map (· + 1)).getD 0) % 2048) % 2048 < 1024)

/-- Deliver one DATA flit addressed to this module: taken, kept in its buffer until a slot or a line that it needs is at
hand, or dropped when it is of no collective. -/
def Dev.deliver (d : Dev) (p : PortId) (f : Flit) (limited : Bool) : Dev :=
  let keep (d : Dev) : Dev := { d with cjn := { d.cjn with held := d.cjn.held ++ [(p, f, limited)] } }
  if d.cjn.held.any fun h => h.2.1.src = f.src && h.2.1.cls = f.cls && h.2.1.stream = f.stream then keep d
  else
    match d.cjn.colls.find? fun k => k.phase = .granted && k.csn % 2048 = f.stream.toNat / 2 with
    | none => if d.mayCome f then keep d else d.freeBuffer p f.cls
    | some k =>
      match d.cmd? k.cmd with
      | none => d.freeBuffer p f.cls
      | some x =>
        match ({ d with rcl := { d.rcl with missed := false } } : Dev).takeData p f limited k x with
        | some r =>
          if r.rcl.missed then keep (d.wantOf r)
          else Dev.freeBuffer { r with rcl := { r.rcl with missed := d.rcl.missed } } p f.cls
        | none => keep d

/-- Try the held flits again, in order. -/
def Dev.redeliver (d : Dev) : Dev :=
  let held := d.cjn.held
  held.foldl (fun d h => d.deliver h.1 h.2.1 h.2.2) { d with cjn := { d.cjn with held := [] } }

/-! ## Ports that change state (R278 to R280, R299) -/

/-- Streams reopen (R299): the edges that `out` names are dropped, and what the far ends may lack is to be sent again; the
streams that `inn` names start again. -/
def Dev.reopen (d : Dev) (out : Edge → Bool) (inn : Stream → Bool) : Dev :=
  d.cjn.colls.foldl (fun (d : Dev) (k : Coll) =>
    match d.cmd? k.cmd with
    | none => d
    | some x =>
      let e := CollE.of x
      let lost := k.edges.filter out
      let ins := k.streams.filter inn
      let n : Nat := lost.length + ins.length
      if n = 0 then d
      else
        let seg (i : Nat) (s : Seg) : Seg :=
          lost.foldl (fun (s : Seg) g =>
            if segTree e i ≠ g.tree then s
            else
              let up := e.kind = .reduce && treeParent e.members g.tree d.grp.module = some g.peer
              { s with
                sentUp := if up && s.w.isNone then false else s.sentUp
                sentTo := if s.doneFrom.contains g.peer then s.sentTo else s.sentTo.filter (· ≠ g.peer) }) s
        let d := d.modColl k.cmd fun k => { k with
          edges := k.edges.filter fun g => !out g
          streams := k.streams.map fun y => if inn y then { y with reopened := true, port := none } else y
          segs := k.segs.zipIdx.map fun q => seg q.2 q.1 }
        { d with cjn := { d.cjn with restarts := satAdd d.cjn.restarts n } }.count 21 n) d

/-- Tell the Head this member's neighbour table (R304). -/
def Dev.sendNeighbours (d : Dev) : Dev := d.toHead (.neighbours d.neighbours)

/-- A port leaves service for a state: its streams reopen, those it passed on take their new routes, and what it had not yet
sent leaves it: messages go on their new routes, and the buffers of flits that were passed on are free. -/
def Dev.portLeaves (d : Dev) (p : PortId) (st : LnkState) : Dev :=
  let x := d.port[p]
  if x.st = st then d
  else
    let d := (d.portState p st).modPort p fun x => { x.cleared with nbrPort := none, dropped := 0 }
    if !x.joined then d
    else
      let d := { d with cjn := { d.cjn with through := d.cjn.through.filter (·.port ≠ p) } }
      let d := x.txq.foldl (fun d t => match t.inPort with | some i => d.freeBuffer i t.f.cls | none => d) d
      let d := d.reopen (fun g => g.port = p) (fun y => y.port = some p)
      (x.txq.filterMap (·.msg)).foldl (fun d m => d.sendMsg m.1 m.2) d.sendNeighbours

/-- ROUTE_UPDATE tells that a route this member used has lost a port beyond its own (R299): the streams on such routes reopen, and
those it passes on take the new routes. A stream on a cable that joins the two modules is not on a route. -/
def Dev.routesLost (d : Dev) (lost : BitVec 64) : Dev :=
  let far (m : ModId) (p : PortId) : Bool := lost.getLsbD m.val && !(d.port[p].joined && d.port[p].nbrModule = m)
  let d := { d with cjn := { d.cjn with through := d.cjn.through.filter fun y => !lost.getLsbD y.dest.toNat } }
  d.reopen (fun g => far g.peer g.port) (fun y => match y.port with | some p => far y.peer p | none => false)

/-- A lane fails (R278): a 12-lane port drops its group and enters UP8, a port in UP8 goes DOWN; the Head is told (R304). -/
def Dev.laneFails (d : Dev) (p : PortId) (l : Fin 12) : Dev :=
  let x := d.port[p]
  if x.lanes[l] ≠ .active ∨ (x.st ≠ .up12 ∧ x.st ≠ .up8) then d
  else
    let d := (d.event (.port p) 0x0201 0 (BitVec.ofNat 32 l.val)).countPort 1 p
    let d := if x.st = .up12 then (d.dropGroup p l).sendNeighbours
      else ((d.modPort p fun x => { x with lanes := x.lanes.set l .failed }).portLeaves p .down).recovered
    d.noteReplace

/-! ## A flit that arrives (R274 to R277) -/

/-- The port on which a flit is passed on: a stream keeps the one it was first passed on while that is in UP12 or UP8 (R276,
R283), any other flit takes the route (R282). -/
def Dev.passPort (d : Dev) (f : Flit) : Option PortId :=
  let dest : ModId := ⟨f.dest.toNat, f.dest.isLt⟩
  match d.cjn.through.find? fun y => y.src = f.src && y.dest = f.dest && y.cls = f.cls && y.stream = f.stream with
  | some y => if f.type = 1 && d.port[y.port].joined then some y.port else d.routePort dest
  | none => d.routePort dest

/-- Pass a flit on toward its destination (R276). With no port that leads there it is dropped (DESIGN CHOICE, log entry 104). -/
def Dev.forward (d : Dev) (p : PortId) (f : Flit) (limited held : Bool) : Dev :=
  match d.passPort f with
  | some o =>
    let d := if f.type ≠ 1 then d else { d with cjn := { d.cjn with
      through := (d.cjn.through.filter fun y => !(y.src = f.src && y.dest = f.dest && y.cls = f.cls && y.stream = f.stream)) ++
        [({ src := f.src, dest := f.dest, cls := f.cls, stream := f.stream, port := o } : Through)] } }
    d.pushFlit o { f := f, limited := limited, inPort := if held then some p else none }
  | none => if held then d.freeBuffer p f.cls else d

/-- What a flit's header brings for the other direction: ACK, 8 buffers of CRCLS, and a replay that NAK asks for. -/
def Dev.takeHeader (d : Dev) (p : PortId) (f : Flit) : Dev :=
  let d := d.modPort p fun x =>
    let x := x.acked f.ack
    if f.crv then { x with credits := classMod x.credits f.crcls.toNat (· + 8) } else x
  let d := if f.nak then d.replayFrom p f.ack else d
  d.pump p (d.port[p].txq.length)

/-- A flit arrives with a CRC that fails: it is not taken, and NAK asks for a replay from the last good SEQ; a copy that was
being passed on ends with STOMP (R276, R277). -/
def Dev.badFlit (d : Dev) (p : PortId) (f : Flit) : Dev :=
  let d := d.modPort p fun x => { x with crcFail := satInc x.crcFail, asking := true }
  let d := if f.type ≠ 0 && f.seq = d.port[p].ack + 1 && f.dest.toNat ≠ d.grp.module.val then
      d.forward p { f with stomp := true } false false else d
  d.sendNull p true

/-- A flit arrives whose CRC holds (R275 to R277). -/
def Dev.goodFlit (d : Dev) (p : PortId) (f : Flit) (limited : Bool) : Dev :=
  let d := d.takeHeader p f
  if f.type = 0 ∨ f.seq ≠ d.port[p].ack + 1 then d
  else
    let d := if d.port[p].asking then d.recovered else d
    let d := d.modPort p fun x => { x with ack := f.seq, asking := false }
    let d :=
      if f.stomp then d.freeBuffer p f.cls
      else if f.dest.toNat ≠ d.grp.module.val then d.forward p f limited true
      else if f.type = 1 then (d.deliver p f limited).redeliver
      else d.freeBuffer p f.cls
    d.sendNull p false

/-- A flit arrives; `fixed` are the lanes on which the FEC has corrected a symbol of it (R274 to R278). A lane with more of
them in 1 ms than its limit fails. -/
def Dev.flitArrives (d : Dev) (p : PortId) (w : BitVec 640) (fixed : List (Fin 12)) (limited : Bool) : Dev :=
  if !d.port[p].up then d
  else
    let d := d.countFixes p fixed
    let f := flitOfWire w
    let d := if flitOk w then d.goodFlit p f limited else d.badFlit p f
    fixed.foldl (fun d l =>
      if d.lexVal (0x2440 + p.val) 2 < d.port[p].fixedMs d.per.now l.val then d.laneFails p l else d) d

/-- The lanes of a port that has trained, on 12 lanes or without one lane group (Table 12-5). -/
def Port.trained (x : Port) (idle : Option (Fin 3)) : Port :=
  { x with
    lanes := (Vector.range 12).map fun i => if idle.any fun g => g.val = i / 4 then .idle else .active
    dropped := match idle with | some g => BitVec.ofNat 2 (g.val + 1) | none => 0 }

/-- The far end agrees: its group and its release line are this module's (R280, R2). -/
def Dev.farAgrees (d : Dev) (far : FarIdent) : Bool :=
  far.group.toNat = d.lexVal 0x2400 1 && far.release.toNat = d.revision / 256

/-- IDENT (Table 12-5): the port enters UP12, or UP8 with a lane group dropped, and grants its receive buffers (R275). A far end
with this module's number that the Head has admitted holds it first (R305). -/
def Dev.ident (d : Dev) (p : PortId) (far : FarIdent) : Dev :=
  if d.port[p].st ≠ .ident then d
  else
    let d := d.modPort p fun x => { x with nbrPort := some far.port, nbrModule := far.module }
    let d := if far.group.toNat = d.lexVal 0x2400 1 ∧ far.module = d.grp.module ∧ far.admitted ∧ !d.grp.formed then
        { d with grp := { d.grp with numberClash := true } }
      else d
    if d.farAgrees far then
      let d := (d.modPort p Port.opened).portState p (if d.port[p].dropped = 0 then .up12 else .up8)
      (d.sendNull p false).sendNeighbours.noteReplace
    else d

/-! ## Commands of the links -/

/-- LANE_FAILED (R278). -/
def execLaneFailed (p : PortId) (lane : Fin 12) (s : State) : Host.Outcome State Fault Refusal :=
  s.run fun d => d.inBoot fun d => d.laneFails p lane

/-- LANE_GROUP_RETRAINED (R278): the 8 lanes carry traffic again; what waited is sent. -/
def execLaneGroupRetrained (p : PortId) (s : State) : Host.Outcome State Fault Refusal :=
  s.run fun d => d.inBoot fun d =>
    if d.port[p].busy then
      let d := (d.modPort p fun x => { x with busy := false }).recovered
      let d := if d.port[p].replay = [] then d else d.replayFrom p (d.port[p].replay.head?.elim 0 (·.f.seq - 1))
      d.pump p (d.port[p].txq.length)
    else d

/-- PORT_DETECT (R279): a port that is DOWN looks for a far end; one that answers is trained. -/
def execPortDetect (p : PortId) (answered : Bool) (s : State) : Host.Outcome State Fault Refusal :=
  s.run fun d => d.inBoot fun d =>
    if d.lexVal (0x2440 + p.val) 1 = 0 ∨ d.port[p].absent then d
    else
      let d := if d.port[p].st = .down then d.portState p .detect else d
      if answered ∧ d.port[p].st = .detect then d.portState p .train else d

/-- PORT_TRAINED (R279): a port in TRAIN, or in RETRAIN, which leaves to TRAIN, ends its training. -/
def execPortTrained (p : PortId) (ok : Bool) (s : State) (idle : Option (Fin 3) := none) : Host.Outcome State Fault Refusal :=
  s.run fun d => d.inBoot fun d =>
    let d := if d.port[p].st = .retrain then d.portState p .train else d
    if d.port[p].st ≠ .train then d
    else if ok then (d.modPort p (·.trained idle)).portState p .ident
    else d.portLeaves p .down

/-- IDENT_EXCHANGE (R279, R280). -/
def execIdentExchange (p : PortId) (far : FarIdent) (s : State) : Host.Outcome State Fault Refusal :=
  s.run fun d => d.inBoot fun d => d.ident p far

/-- PORT_DOWN (R279, R299): a port in use is lost. -/
def execPortDown (p : PortId) (s : State) : Host.Outcome State Fault Refusal :=
  s.run fun d => d.inBoot fun d =>
    if d.port[p].joined then d.portLeaves p .down else d

/-- PRSNT_N_CHANGE (R467): with no cable a port leaves its link and stays DOWN; a cable lets it look for a far end. -/
def execPrsntNChange (p : PortId) (high : Bool) (s : State) : Host.Outcome State Fault Refusal :=
  s.run fun d => d.inBoot fun d =>
    let d := d.modPort p fun x => { x with absent := high }
    if high then (if d.port[p].st = .disabled then d else d.portLeaves p .down)
    else if d.port[p].st = .down ∧ d.lexVal (0x2440 + p.val) 1 = 1 then d.portState p .detect else d

/-! ## Commands of the collectives -/

/-- The conditions under which a member grants the next reservation (R289, R318). -/
def Dev.grantable (d : Dev) (k : Coll) (x : Cmd) (e : CollE) : Bool :=
  let busy := d.cjn.colls.filter (·.phase = .granted)
  let need := if e.count = 0 then 0 else e.resv
  let _ := x
  decide (d.storeUnits + need ≤ 256) && decide (busy.length < 64) && busy.all (fun y => decide (k.csn < y.csn + 2048)) &&
    busy.all fun y =>
      match d.cmd? y.cmd with
      | some z => !(CollE.of z).reshard || (e.named.all fun s => !(CollE.of z).named.contains s)
      | none => true

/-- The generation of a shard (R320). -/
def Dev.shardGen (d : Dev) (s : Nat) : Nat := alGet 0 d.grp.shardGen s
def Dev.bumpShard (d : Dev) (s : Nat) : Dev :=
  { d with grp := { d.grp with shardGen := alPut 0 s ((d.shardGen s + 1) % 65536) d.grp.shardGen } }

/-- What the grant does to shard generations (R320, R321): a RESHARD bumps, a forward SGATHER records, a backward one
compares and answers whether both match. -/
def Dev.grantShards (d : Dev) (x : Cmd) (e : CollE) : Bool × Dev :=
  if e.reshard then (true, e.named.foldl Dev.bumpShard d)
  else if e.sgather then
    let key := 256 * x.c.val + e.b23
    if e.dest = 0 then
      (true, { d with grp := { d.grp with
        genSlots := alPut (0, 0) key (e.b20, d.shardGen e.b20) d.grp.genSlots } })
    else (decide (alGet (0, 0) d.grp.genSlots key = (e.b20, d.shardGen e.b20)), d)
  else (true, d)

/-- The lowest waiting CSN is granted (R289, R286, R320, R321). -/
def Dev.grantNext (d : Dev) : Dev :=
  match d.csnWait with
  | none => d
  | some n =>
    match d.cjn.colls.find? fun k => k.phase = .assigned && k.csn = n with
    | none => d
    | some k =>
      match d.cmd? k.cmd with
      | none => d
      | some x =>
        let e := CollE.of x
        if !d.grantable k x e then d
        else
          let (same, d) := d.grantShards x e
          if !same then d.endColl k stShard 0
          else
            let segs := d.segsOf x e
            let own := d.grp.module
            let d := d.modColl k.cmd fun k => { k with
              phase := .granted, resv := if e.count = 0 then 0 else e.resv, segs := segs
              streams := e.streams own segs.length }
            let d := d.modCmd x.id fun y => { y with phase := .running }
            (d.settleColl k.cmd).redeliver

/-- A CSN arrives for the oldest announced collective of the key; a failed set ends (R288, R289). -/
def Dev.assignCsn (d : Dev) (members : BitVec 64) (tag : Word) (csn : Nat) (failed : Option Bool) : Dev :=
  match d.cjn.colls.find? fun k => k.phase = .announced && k.ann.members = members && k.ann.tag = tag with
  | none => d
  | some k =>
    let d := { d with cjn := { d.cjn with last := some (max csn (d.cjn.last.getD 0)) } }
    let d := d.modCmd k.cmd fun y => { y with arg0 := BitVec.ofNat 32 csn }
    let k := { k with phase := .assigned, csn := csn }
    let d := d.modColl k.cmd fun _ => k
    let d := match failed with
      | none => match d.cmd? k.cmd with | some x => d.openEdges k.cmd (CollE.of x) | none => d
      | some poison =>
        ({ d with cjn := { d.cjn with withdrawn := satInc d.cjn.withdrawn } }).endColl k
          (if poison then stDepFailed else stExceeds) 0
    d.announceReady

/-- SEG_DONE from a child, or from a destination of bytes (R295). -/
def Dev.segDone (d : Dev) (csn seg : Nat) (child : ModId) : Dev :=
  match d.cjn.colls.find? fun k => k.phase = .granted && k.csn = csn with
  | none => d
  | some k =>
    let d := d.modSeg k.cmd seg fun s =>
      if s.doneFrom.contains child then s else { s with doneFrom := s.doneFrom ++ [child] }
    (d.settleColl k.cmd).redeliver

/-- A collective command whose waits are met announces itself. -/
def Dev.runColl (d : Dev) (id : Nat) (sel : CollE → Bool) (kind : Nat) : Dev :=
  match d.cmd? id with
  | some x =>
    if x.kind ≠ kind ∨ !sel (CollE.of x) then d
    else if x.phase = .ready ∨ (x.phase = .waiting ∧ d.waitsMet x) then
      let d := d.modCmd id fun y => { y with phase := .ready }
      d.announce { x with phase := .ready }
    else d
  | none => d

/-- ALL_REDUCE (R284 to R287). -/
def execAllReduce (id : Nat) (s : State) : Host.Outcome State Fault Refusal :=
  s.run fun d => d.inService fun d => d.runColl id (·.kind = .reduce) 0x10

/-- ALL_GATHER (R298). -/
def execAllGather (id : Nat) (s : State) : Host.Outcome State Fault Refusal :=
  s.run fun d => d.inService fun d => d.runColl id (·.kind = .gather) 0x10

/-- PERMUTE (R298, R316). -/
def execPermute (id : Nat) (s : State) : Host.Outcome State Fault Refusal :=
  s.run fun d => d.inService fun d => d.runColl id (·.kind = .permute) 0x10

/-- RESHARD (R317, R318). -/
def execReshard (id : Nat) (s : State) : Host.Outcome State Fault Refusal :=
  s.run fun d => d.inService fun d => d.runColl id (·.reshard) 0x11

/-- SGATHER (R317, R321). -/
def execSgather (id : Nat) (s : State) : Host.Outcome State Fault Refusal :=
  s.run fun d => d.inService fun d => d.runColl id (·.sgather) 0x12

/-- RESERVATION_GRANT (R289). -/
def execReservationGrant (s : State) : Host.Outcome State Fault Refusal :=
  s.run fun d => d.inService fun d => d.grantNext

/-- SEGMENT_SEND (R294). -/
def execSegmentSend (csn seg : Nat) (down : Bool) (s : State) (bad : List Nat := []) : Host.Outcome State Fault Refusal :=
  s.run fun d => d.inService fun d => d.segmentSend csn seg down bad

/-- SEG_DONE (R295, R297). -/
def execSegDone (csn seg : Nat) (child : ModId) (s : State) : Host.Outcome State Fault Refusal :=
  s.run fun d => d.inService fun d => d.segDone csn seg child

end Sys2Proof.Machine
end

