-- ==== Sys2Proof/Machine/Repair.lean ====
section
/-!
DEFINITION. Machine/Repair.lean: faults, recovery and repair in service (R400 to R417): arrays and slots, Clause processor and
Supervisor pairs, memory channels, scrubbing (R254, R266), write-combining ages (R264), engines that go out of service, and
the service commands of Table 17-4.
-/
namespace Sys2Proof.Machine

/-- Nanoseconds of 24 hours and of one hour. -/
def dayNs : Nat := 86400000000000
def hourNs : Nat := 3600000000000

/-- Times within a window before now. -/
def recent (now window : Nat) (ts : List Nat) : Nat := (ts.filter fun t => decide (now < t + window)).length

/-! ## Work taken back -/

/-- The tiles of some commands, and the commands' own state, are discarded uncommitted (R37, R408). -/
def Dev.dropWork (d : Dev) (ids : List Nat) : Dev :=
  let gone := (d.tiles.filter fun t => ids.contains t.cmd).map (·.uid)
  let mcs : Vector Mcast 8 := d.mc.map fun (m : Mcast) =>
    { m with
      group := m.group.filter fun g => !ids.contains g.cmd
      waiting := m.waiting.filter fun g => !ids.contains g.cmd
      buf := if m.group.any fun g => ids.contains g.cmd then [] else m.buf }
  { d with
    tensors := d.tensors.filter fun t => !ids.contains t.cmd
    attns := d.attns.filter fun t => !ids.contains t.cmd
    tiles := d.tiles.filter fun t => !ids.contains t.cmd
    inject := d.inject.map fun i => if i.tile.any gone.contains then { i with tile := none } else i
    arr := d.arr.map fun (a : Arr) => match a.tile with
      | some u => if gone.contains u then { a with tile := none, mcast := false } else a
      | none => a
    mc := mcs }

/-! ## Arrays and slots (R402 to R406, R415) -/

def Dev.lowestSpare (d : Dev) : Option ArrId := (List.finRange 208).find? fun a => d.arr[a].st = .spare

/-- The scratchpad of array `b` takes the bytes and the poison of that of array `a`. -/
def Dev.copyPad (d : Dev) (a b : ArrId) : Dev :=
  let inPad (x : ArrId) (k : Nat) : Bool := decide (padKey x.val 0 ≤ k ∧ k < padKey x.val 0 + padSize)
  let move (k : Nat) : Nat := k - padKey a.val 0 + padKey b.val 0
  let rest := d.mem.cells.filter fun c => !inPad b c.1
  let cells := (d.mem.cells.filter fun c => inPad a c.1).foldl (fun m c => memPut m (move c.1) c.2) rest
  let pois := (d.mem.poison.filter fun k => inPad a k).foldl (fun l k => keyPut (move k) l)
    (d.mem.poison.filter fun k => !inPad b k)
  let moved := (d.mem.poison.filter fun k => inPad a k).length
  let d := { d with mem := { d.mem with cells := cells, poison := pois } }
  d.modArr b fun x => { x with ue := (List.range (min moved 255)).foldl (fun u _ => satInc u) x.ue }

/-- The scratchpad of an array holds zeros. -/
def Dev.zeroPad (d : Dev) (a : ArrId) : Dev :=
  let inPad (k : Nat) : Bool := decide (padKey a.val 0 ≤ k ∧ k < padKey a.val 0 + padSize)
  { d with mem := { d.mem with
    cells := d.mem.cells.filter fun c => !inPad c.1, poison := d.mem.poison.filter fun k => !inPad k } }

/-- Copying of slot `s` from array `a` to array `b` starts: reads go to `a`, writes to both (R405). -/
def Dev.startCopy (d : Dev) (s : Fin 192) (a b : ArrId) : Dev :=
  (d.copyPad a b).modSlot s fun x => { x with copyTo := some b, written := [] }

/-- The spare array `b` takes over the slot of array `a`, which enters TEST (R405 case 1). -/
def Dev.takeOver (d : Dev) (a b : ArrId) : Dev :=
  match d.arr[a].slot with
  | none => d
  | some s =>
    let d := d.modArr a fun x => { x with st := .test }
    let d := d.modArr b fun x => { x with st := .inService, zeroing := false, zeroed := false }
    d.startCopy s a b

/-- The highest slot leaves service; `a` is the array that shrank the pool (R406). -/
def Dev.vacate (d : Dev) (h : Fin 192) (a : ArrId) : Dev :=
  let pool := d.flt.pool - 1
  let d := d.modSlot h fun _ => {}
  let d := { d with flt := { d.flt with pool := pool } }
  (d.event .fault 0x0315 (BitVec.ofNat 64 a.val) (BitVec.ofNat 32 pool)).noteReplace

/-- The array that moves to another slot. -/
def Dev.mover (d : Dev) : Option (ArrId × Fin 192) :=
  (List.finRange 208).findSome? fun a => (d.arr[a].moveTo).map fun s => (a, s)

/-- An array out of service that still holds a slot which is not being copied. -/
def Dev.leaver (d : Dev) : Option (ArrId × Fin 192) :=
  (List.finRange 208).findSome? fun a =>
    match d.arr[a].slot with
    | some s => if d.arr[a].st ≠ .inService ∧ d.flt.slot[s].copyTo.isNone then some (a, s) else none
    | none => none

/-- The move goes on: the copy starts when the mover's running tile has ended. -/
def Dev.goMove (d : Dev) : Dev :=
  match d.mover with
  | none => d
  | some (t, s) =>
    if d.arr[t].tile.isSome ∨ d.flt.slot[s].copyTo.isSome then d
    else match d.flt.slot[s].arr with
      | some a => d.startCopy s a t
      | none => d

/-- One array that left service with no spare: the array of the highest slot takes its slot; the highest slot itself leaves when
its array has no running tile (R406, R414). -/
def Dev.kickMoves (d : Dev) : Dev :=
  if d.mover.isSome then d.goMove
  else
    match d.leaver with
    | none => d
    | some (a, s) =>
      if h : 0 < d.flt.pool ∧ d.flt.pool ≤ 192 then
        let top : Fin 192 := ⟨d.flt.pool - 1, by omega⟩
        if s = top then (if d.arr[a].tile.isSome then d else (d.modArr a fun x => { x with slot := none }).vacate top a)
        else match d.flt.slot[top].arr with
          | some t => (d.modArr t fun x => { x with moveTo := some s }).goMove
          | none => d
      else d

/-- Firmware zeroes the lowest-numbered spare array for the pool to grow (R415). -/
def Dev.startZeroing (d : Dev) : Dev :=
  if 192 ≤ d.flt.pool ∨ d.mover.isSome ∨ d.arr.toList.any (fun (x : Arr) => x.zeroing || x.zeroed) then d
  else match d.lowestSpare with
    | some a => d.modArr a fun x => { x with zeroing := true }
    | none => d

/-- SLOT_ZEROED (R415). -/
def Dev.slotZeroed (d : Dev) (a : ArrId) : Dev :=
  if d.arr[a].zeroing ∧ d.arr[a].st = .spare then
    (d.zeroPad a).modArr a fun x => { x with zeroing := false, zeroed := true }
  else d

/-- Step 4: a zeroed array joins the pool at its lowest vacant slot (R415). -/
def Dev.growPool (d : Dev) : Dev :=
  let d := match (List.finRange 208).find? fun a => d.arr[a].zeroed && decide (d.arr[a].st = .spare) with
    | none => d
    | some a =>
      if h : d.flt.pool < 192 then
        if d.mover.isSome then d
        else
          let s : Fin 192 := ⟨d.flt.pool, h⟩
          let d := d.modArr a fun x => { x with st := .inService, zeroed := false, slot := some s }
          let d := d.modSlot s fun _ => { arr := some a }
          { d with flt := { d.flt with pool := d.flt.pool + 1 } }
      else d.modArr a fun x => { x with zeroed := false }
  d.startZeroing

/-- An array retires (R405). -/
def Dev.retireArr (d : Dev) (a : ArrId) : Dev :=
  let d := (d.modArr a fun x => { x with st := .retired, testing := false, returning := false }).count 11
  (d.event .fault 0x0312 (BitVec.ofNat 64 a.val) (BitVec.ofNat 32 (d.arrCount .retired)))

/-- A non-injected attempt has failed on array `a` (R405). -/
def Dev.arrayFailed (d : Dev) (a : ArrId) : Dev :=
  let d := d.modArr a fun x => { x with fails := d.per.now :: x.fails }
  match d.arr[a].slot with
  | none => d
  | some s =>
    if d.arr[a].st ≠ .inService ∨ d.flt.slot[s].copyTo.isSome then d
    else match d.lowestSpare with
      | some b => d.takeOver a b
      | none =>
        if d.lexVal 0x2701 1 ≤ recent d.per.now dayNs d.arr[a].fails then (d.retireArr a).kickMoves else d

/-- ARRAY_TEST_DONE (R405, R414, R415). -/
def Dev.arrayTestDone (d : Dev) (a : ArrId) (ok : Bool) : Dev :=
  let x := d.arr[a]
  if x.st ≠ .test ∨ !x.testing then d
  else if !ok ∨ (!x.returning ∧ d.lexVal 0x2701 1 ≤ recent d.per.now dayNs x.fails) then d.retireArr a
  else (d.modArr a fun y => { y with st := .spare, testing := false, returning := false }).startZeroing

/-! ## Pairs (R408, R409) -/

/-- A pair's test ends (R408, R409). -/
def Pair.tested (x : Pair) (now : Nat) (ok : Bool) : Pair :=
  if x.st ≠ .test ∨ !x.testing then x
  else
    let bad : Bool := !ok || (!x.returning && decide (2 ≤ recent now dayNs x.failTimes))
    { x with st := if bad then .retired else .spare, testing := false, returning := false }

/-- PAIR_TEST_DONE: pairs 0 to 17 are Clause processor pairs, 18 and 19 the Supervisor pairs. -/
def Dev.pairTestDone (d : Dev) (k : Fin 20) (ok : Bool) : Dev :=
  let d := if h : k.val < 18 then d.modPair ⟨k.val, h⟩ fun x => x.tested d.per.now ok
    else d.modSup ⟨k.val - 18, by omega⟩ fun x => x.tested d.per.now ok
  d.noteReplace

def Dev.activeSup (d : Dev) : Option (Fin 2) := (List.finRange 2).find? fun k => d.flt.sup[k].st = .active
def Dev.spareSup (d : Dev) : Option (Fin 2) := (List.finRange 2).find? fun k => d.flt.sup[k].st = .spare

/-- The spare pair is taken: an image that it held or loaded for a swap is to be loaded again by the next spare (R456). -/
def Dev.spareTaken (d : Dev) : Dev :=
  { d with sec := { d.sec with spareReady := false, spareLoads := d.sec.spareLoads || d.sec.spareReady } }

/-- SUP_FAILOVER (R409, R412). -/
def Dev.supFailover (d : Dev) : Dev :=
  match d.activeSup with
  | none => d
  | some k =>
    let d := d.modSup k fun x => { x with fails := satInc x.fails, failTimes := d.per.now :: x.failTimes }
    match d.spareSup with
    | none => d.fatalDue 2 (BitVec.ofNat 32 k.val)
    | some j =>
      let d := d.modSup k fun x => { x with st := .test, testing := true }
      let d := (d.modSup j fun x => { x with st := .active }).spareTaken
      let d := ((d.event .fault 0x0311 (BitVec.ofNat 64 k.val) (BitVec.ofNat 32 j.val)).count 10)
      d.recovered.noteReplace

/-! ## Channels (R254, R264, R266, R268, R410) -/

/-- A channel is spared, or asks for replacement where the reserve allows no more. Answers whether it was spared. -/
def Dev.spareChannel (d : Dev) (ch : Fin 192) : Bool × Dev :=
  let n := d.mem.spares.length
  if d.mem.ch[ch].st ≠ .inService then (false, d)
  else if d.reserveK ≤ n then
    (false, ((d.event .fault 0x0313 (BitVec.ofNat 64 ch.val) 0xFF)).replaceBit 3)
  else
    let d := d.modCh ch fun x => { x with st := .sparing }
    let u : SpareUnit := { channel := ch, reserve := d.reserveK, since := d.per.now
                           lines := (relocOf d.mem.relocs ch.val d.reserveK).lines }
    let d := { d with mem := { d.mem with spares := d.mem.spares ++ [u] } }
    (true, (d.event .fault 0x0313 (BitVec.ofNat 64 ch.val) (BitVec.ofNat 32 n)).count 13)

/-- The thresholds of a channel are reached (R410). -/
def Dev.overThreshold (d : Dev) (ch : Fin 192) : Bool :=
  decide (d.lexVal 0x2701 2 ≤ recent d.per.now hourNs d.mem.ch[ch].ceTimes) ||
    decide (d.lexVal 0x2701 3 ≤ recent d.per.now dayNs d.mem.ch[ch].ueTimes)

/-- CHANNEL_SPARED (R410). A channel that stops answering loses its lines; the address that its event names is open. -/
def Dev.channelSpared (d : Dev) (ch : Fin 192) (cause : SpareCause) : Dev :=
  match cause with
  | .thresholds => if d.overThreshold ch then (d.spareChannel ch).2 else d
  | .tracking => (d.spareChannel ch).2
  | .silent =>
    let (a, d) := d.draw 64
    let d := { d with mem := { d.mem with
      lost := keep (ch, d.mem.spares) d.mem.lost
      fresh := d.mem.fresh.filter fun l => d.mem.channel (l / 64) ≠ ch } }
    ((d.event .fault 0x0301 a 0).spareChannel ch).2
where keep (x : Fin 192 × List SpareUnit) (l : List (Fin 192 × List SpareUnit)) := if l.contains x then l else l ++ [x]

/-- A migration goes on: how many lines have been copied by now is a free value, no less than the minimum rate gives (R261,
R268; log entry 101). -/
def Dev.migrate (d : Dev) : Dev :=
  d.mem.spares.zipIdx.foldl (fun (d : Dev) x =>
    let (u, i) := x
    if u.lines ≤ u.copied then d
    else
      let (v, d) := d.draw 27
      let least := (d.per.now - u.since) * d.lexVal 0x2302 3 / 64000
      let n := min (u.lines - 1) (max (u.copied + v.toNat) least)
      { d with mem := { d.mem with spares := d.mem.spares.set i { u with copied := n } } }) d

/-- MIGRATION_DONE (R268). -/
def Dev.migrationDone (d : Dev) (ch : Fin 192) : Dev :=
  if d.mem.ch[ch].st ≠ .sparing then d
  else
    let d := d.modCh ch fun x => { x with st := .spared }
    Dev.recovered { d with mem := { d.mem with spares := d.mem.spares.map fun (s : SpareUnit) =>
      if s.channel = ch then { s with copied := s.lines } else s } }

/-- The ECC line of a group (R258): four check symbols a slot, which the code over the line and its address gives, and a CRC-32
of them. The spec gives no generator of the code: the symbols are a free value. -/
def eccLine (slots : List (Nat × Line)) : List Byte :=
  let sym := (slots.take 15).flatMap fun s => leBytes (Config.checkSymbols s.1 s.2.toNat).toNat 4
  sym ++ leBytes (crc32 sym).toNat 4

/-- Words of all scratchpads, and ECC groups of a channel (R254, R257). -/
def padWords : Nat := 208 * 2 ^ 22
def channelGroups : Nat := 8388608

/-- SCRATCHPAD_SCRUB (R254): one 64-bit word of the scratchpad of array `a`. -/
def Dev.padScrub (d : Dev) (a : ArrId) (word : Nat) (f : EccFinding) : Dev :=
  if 2 ^ 22 ≤ word then d
  else
    let k := padKey a.val (8 * word)
    let d := match f with
      | .clean => if d.mem.bad k then d.poisonedRead k else d
      | .corrected => d.wordCorrected a
      | .uncorrectable => (d.padPoison a k).poisonedRead k
    let done := keyPut (2 ^ 22 * a.val + word) d.mem.spScrubbed
    { d with mem := if done.length < padWords then { d.mem with spScrubbed := done }
                    else { d.mem with spScrubbed := [], spPasses := satInc d.mem.spPasses } }

/-- LPDDR_SCRUB (R266): the group that holds line `line`, which channel `ch` holds now. A pass ends when every group of every
channel in service has been read. -/
def Dev.lpddrScrub (d : Dev) (ch : Fin 192) (line : Nat) (f : EccFinding) : Dev :=
  if d.mem.channel line ≠ ch ∨ apertureLines ≤ line ∨ d.mem.ch[ch].st = .held then d
  else
    let d := match f with
      | .clean => if d.mem.bad (64 * line) then d.poisonedRead (64 * line) else d
      | .corrected => d.lineCorrected line
      | .uncorrectable => Dev.poisonedRead { d with mem := d.mem.setPoison (64 * line) } (64 * line)
    let d := d.modCh ch fun x => { x with scrubbed := keyPut (eccGroup (d.mem.home line).2) x.scrubbed }
    if d.mem.ch.toList.all fun x => decide (channelGroups ≤ x.scrubbed.length ∨ x.st = .spared) then
      { d with mem := { d.mem with
        ch := d.mem.ch.map fun (x : Channel) => { x with scrubbed := [] }
        lpddrPasses := satInc d.mem.lpddrPasses } }
    else d
where apertureLines : Nat := 0x16800000000 / 64

/-- WCB_AGE_EVICT (R264): the oldest entry of controller `k` that has not been written for the age limit. -/
def Dev.ageEvict (d : Dev) (k : Fin 48) : Dev :=
  let w := d.mem.wcb[k]
  match w.entries.find? fun e => decide (e.time + d.lexVal 0x2303 1 ≤ d.per.now) with
  | none => d
  | some e =>
    let d := { d with mem := { d.mem with wcb := d.mem.wcb.set k (w.drop e) } }
    if e.mask = BitVec.allOnes 128 then d else d.countCh 2 (d.mem.channel e.line)

/-! ## Codec engines out of service (R411) -/

def sameWay (e f : EngId) : Bool := decide (e.val / 4 = f.val / 4)

/-- Where a session of engine `e` moves: the lowest engine in service of its direction whose live load fits, else the
lowest in service. -/
def Dev.moveTarget (d : Dev) (e : EngId) (x : Sess) : Option EngId :=
  let up := (List.finRange 8).filter fun f => f ≠ e && sameWay e f && decide (d.cod.eng[f].st = .inService)
  let fits := up.find? fun f => !x.d.live ||
    decide ((d.liveSamples f.val + x.d.width * x.d.height) * d.per.num ≤ engineRate * d.per.den)
  match fits with
  | some f => some f
  | none => up.head?

/-- A session goes to another engine: at once where no picture of it is under way, else at its next boundary. -/
def Dev.moveSession (d : Dev) (i : SessId) : Dev :=
  let x := d.cod.sess[i]
  if !x.moving then d
  else
    let busy : Bool := x.midPic || match x.queue with | p :: _ => p.nextRow ≠ 0 | [] => false
    if busy then d
    else if h : x.engine < 8 then
      match d.moveTarget ⟨x.engine, h⟩ x with
      | some f => d.modSess i fun y => { y with moving := false, d := { y.d with engine := f.val % 4 } }
      | none => d
    else d

/-- The sessions of an engine move, each at its next picture boundary. -/
def Dev.moveAll (d : Dev) (e : EngId) : Dev :=
  (List.finRange 256).foldl (fun (d : Dev) (i : SessId) =>
    let x := d.cod.sess[i]
    if x.st ≠ .free ∧ x.engine = e.val then (d.modSess i fun y => { y with moving := true }).moveSession i else d) d

/-- An engine is out of service, and its sessions move. -/
def Dev.engineOut (d : Dev) (e : EngId) : Dev :=
  let d := d.modEng e fun x => { x with st := .outOfService, leaving := false }
  ((d.event .fault 0x0314 (BitVec.ofNat 64 e.val) (BitVec.ofNat 32 (d.enginesIn (e.val / 4 * 4)))).count 15).moveAll e

/-- An engine that is leaving goes when it has no unit. -/
def Dev.engineLeave (d : Dev) (e : EngId) : Dev :=
  let x := d.cod.eng[e]
  if x.leaving ∧ x.unit.isNone ∧ x.recode = [] then d.engineOut e else d

/-- ENGINE_TEST_DONE (R414): an update whose image fails its check answers SHAPE_EXCEEDS_PLAN (R453). -/
def Dev.engineTestDone (d : Dev) (e : EngId) (ok : Bool) : Dev :=
  if !d.cod.eng[e].testing then d
  else
    let d := if !ok ∧ d.cod.eng[e].st = .updating then { d with flt := { d.flt with svcResult := stExceeds } } else d
    d.modEng e fun x => { x with testing := false, st := if ok then .inService else .outOfService }

/-! ## Service commands (R414) -/

/-- KIND 1. -/
def Dev.serviceArray (d : Dev) (a : ArrId) (action : Nat) : BitVec 8 × Dev :=
  let x := d.arr[a]
  match action, x.st with
  | 1, .inService =>
    match x.slot with
    | none => (stHeld, d)
    | some s =>
      if d.flt.slot[s].copyTo.isSome ∨ x.moveTo.isSome then (stHeld, d)
      else match d.lowestSpare with
        | some b => (stOk, d.takeOver a b)
        | none => (stOk, (d.modArr a fun y => { y with st := .test }).kickMoves)
  | 1, .spare => (stOk, d.modArr a fun y => { y with st := .test, zeroing := false, zeroed := false })
  | 2, .test => if x.slot.isSome then (stHeld, d) else (stOk, d.modArr a fun y => { y with testing := true, returning := true })
  | 2, .retired =>
    if x.slot.isSome then (stHeld, d)
    else (stOk, d.modArr a fun y => { y with st := .test, testing := true, returning := true })
  | _, _ => (stHeld, d)

/-- A pair out of use is tested and returned (KIND 2 and 6, ACTION 2). -/
def Pair.startReturn (x : Pair) : Option Pair :=
  match x.st with
  | .test | .retired => some { x with st := .test, testing := true, returning := true }
  | _ => none

/-- KIND 2. -/
def Dev.servicePair (d : Dev) (k : Fin 18) (action : Nat) : BitVec 8 × Dev :=
  let x := d.flt.pair[k]
  match action, x.st with
  | 1, .active =>
    match x.logical, d.sparePair with
    | some c, some _ => (stOk, { d with flt := { d.flt with planned := d.flt.planned ++ [c] } })
    | _, _ => (stHeld, d)
  | 1, .spare => (stOk, d.modPair k fun y => { y with st := .test })
  | 2, _ => match x.startReturn with | some y => (stOk, d.modPair k fun _ => y) | none => (stHeld, d)
  | _, _ => (stHeld, d)

/-- KIND 3 and 4. -/
def Dev.serviceEngine (d : Dev) (e : EngId) (action : Nat) : BitVec 8 × Dev :=
  let x := d.cod.eng[e]
  match action, x.st with
  | 1, .inService => (stOk, ((d.modEng e fun y => { y with leaving := true }).moveAll e).engineLeave e)
  | 2, .outOfService => (stOk, d.modEng e fun y => { y with testing := true })
  | 3, .outOfService => (stOk, d.modEng e fun y => { y with st := .updating, testing := true })
  | _, _ => (stHeld, d)

/-- KIND 6: the swap is made at this Period edge. -/
def Dev.serviceSup (d : Dev) (k : Fin 2) (action : Nat) : BitVec 8 × Dev :=
  let x := d.flt.sup[k]
  match action, x.st with
  | 1, .active =>
    match d.spareSup with
    | some j => (stOk, ((d.modSup j fun y => { y with st := .active }).modSup k fun y => { y with st := .test }).spareTaken)
    | none => (stHeld, d)
  | 2, _ => match x.startReturn with | some y => (stOk, d.modSup k fun _ => y) | none => (stHeld, d)
  | _, _ => (stHeld, d)

/-- What the command of KIND, UNIT and ACTION does, with its status (Table 17-4). -/
def Dev.serviceRun (d : Dev) (kind unit action : Nat) : BitVec 8 × Dev :=
  match kind with
  | 1 => if h : unit < 208 then (if action ≤ 2 then d.serviceArray ⟨unit, h⟩ action else (stExceeds, d)) else (stExceeds, d)
  | 2 => if h : unit < 18 then (if action ≤ 2 then d.servicePair ⟨unit, h⟩ action else (stExceeds, d)) else (stExceeds, d)
  | 3 => if h : unit < 4 then d.serviceEngine ⟨unit, by omega⟩ action else (stExceeds, d)
  | 4 => if h : unit < 4 then d.serviceEngine ⟨unit + 4, by omega⟩ action else (stExceeds, d)
  | 5 =>
    if h : unit < 192 then
      if action = 1 ∧ d.reserveK ≤ d.mem.spares.length then (stHeld, d)
      else if action = 1 then
        let (ok, d) := d.spareChannel ⟨unit, h⟩
        (if ok then stOk else stHeld, d)
      else (stExceeds, d)
    else (stExceeds, d)
  | 6 => if h : unit < 2 then (if action ≤ 2 then d.serviceSup ⟨unit, h⟩ action else (stExceeds, d)) else (stExceeds, d)
  | _ => (stExceeds, d)

/-- Step 4: the service command in force is carried out once. -/
def Dev.service (d : Dev) : Dev :=
  let kind := d.lexVal 0x2702 1
  let unit := d.lexVal 0x2702 2
  let action := d.lexVal 0x2702 3
  if action = 0 then d
  else
    let (st, d) := d.serviceRun kind unit action
    let d := { d with flt := { d.flt with
      svcKind := BitVec.ofNat 8 kind, svcUnit := BitVec.ofNat 8 unit, svcAction := BitVec.ofNat 8 action, svcResult := st } }
    ((d.lexSet 0x2702 3 0).count 16).noteReplace

/-- Step 4: quotas are reduced one array at a time until their sum fits the pool (R407). -/
def Dev.quotaVictim (d : Dev) (atMin : Bool) : Option CtxId :=
  let thr := d.lexVal 0x2700 7
  let ok (c : CtxId) : Bool := d.ctx[c].resident &&
    (if atMin then decide (0 < d.ctx[c].g.quota) else decide (d.ctx[c].g.minQuota < d.ctx[c].g.quota))
  let order := (List.range 8).flatMap fun p => (List.finRange 16).reverse.filter fun c => d.ctx[c].g.prio = p
  (order.filter fun c => ok c && decide (d.ctx[c].g.prio < thr)).head?.or
    (order.filter fun c => ok c && decide (thr ≤ d.ctx[c].g.prio)).head?

def Dev.setQuota (d : Dev) (c : CtxId) (q : Nat) : Dev :=
  (d.modCtx c fun x => { x with g := { x.g with quota := q } }).lexSet (0x2110 + c.val) 7 q

def Dev.reduceQuotas (d : Dev) : Nat → Dev
  | 0 => d
  | fuel + 1 =>
    if d.quotaUsed ≤ d.flt.pool then d
    else match d.quotaVictim false with
      | some c => (d.setQuota c (d.ctx[c].g.quota - 1)).reduceQuotas fuel
      | none => match d.quotaVictim true with
        | some c => (d.setQuota c 0).reduceQuotas fuel
        | none => d

/-! ## Commands -/

/-- PAIR_TEST_DONE (R408). -/
def execPairTestDone (pair : Fin 20) (ok : Bool) (s : State) : Host.Outcome State Fault Refusal :=
  s.run fun d => d.inService fun d => d.pairTestDone pair ok

/-- SUP_FAILOVER (R409). -/
def execSupFailover (s : State) : Host.Outcome State Fault Refusal := s.runFatal fun d => d.inService Dev.supFailover

/-- ARRAY_TEST_DONE (R405). -/
def execArrayTestDone (a : ArrId) (ok : Bool) (s : State) : Host.Outcome State Fault Refusal :=
  s.run fun d => d.inService fun d => d.arrayTestDone a ok

/-- SLOT_ZEROED (R415). -/
def execSlotZeroed (a : ArrId) (s : State) : Host.Outcome State Fault Refusal :=
  s.run fun d => d.inService fun d => d.slotZeroed a

/-- ENGINE_TEST_DONE (R414). -/
def execEngineTestDone (e : EngId) (ok : Bool) (s : State) : Host.Outcome State Fault Refusal :=
  s.run fun d => d.inService fun d => d.engineTestDone e ok

/-- SCRATCHPAD_SCRUB (R254). -/
def execScratchpadScrub (a : ArrId) (word : Nat) (f : EccFinding) (s : State) : Host.Outcome State Fault Refusal :=
  s.run fun d => d.inService fun d => d.padScrub a word f

/-- LPDDR_SCRUB (R266). -/
def execLpddrScrub (ch : Fin 192) (line : Nat) (f : EccFinding) (s : State) : Host.Outcome State Fault Refusal :=
  s.run fun d => d.inService fun d => d.lpddrScrub ch line f

/-- WCB_AGE_EVICT (R264). -/
def execWcbAgeEvict (k : Fin 48) (s : State) : Host.Outcome State Fault Refusal :=
  s.run fun d => d.inService fun d => d.ageEvict k

/-- CHANNEL_SPARED (R410). -/
def execChannelSpared (ch : Fin 192) (cause : SpareCause) (s : State) : Host.Outcome State Fault Refusal :=
  s.run fun d => d.inService fun d => d.channelSpared ch cause

/-- MIGRATION_DONE (R268). -/
def execMigrationDone (ch : Fin 192) (s : State) : Host.Outcome State Fault Refusal :=
  s.run fun d => d.inService fun d => d.migrationDone ch

end Sys2Proof.Machine
end

