-- ==== Sys2Proof/Machine/Span.lean ====
section
/-!
DEFINITION. Machine/Span.lean: what a key-value span tile computes (R232 to R240): its operands from pages and fresh tensors,
rotary codes, scores, the running softmax, and the rows that an attention command writes when their spans are merged
(R234 to R236).
-/
namespace Sys2Proof.Machine

/-- The format of P (R228). -/
def pFmt (fk : Nat) : Nat := if fk = 3 then 2 else fk

/-- Column halves of P·V. -/
def AttnE.halves (x : AttnE) : Nat := if x.dim ≤ 128 then 1 else 2
/-- B passes of one key block: Q·Kᵀ, then P·V by halves. -/
def AttnE.blockPasses (x : AttnE) : Nat := 1 + x.halves

/-- The key blocks a span tile runs: none where its sequence is refused. -/
def Attn.runBlocks (a : Attn) (p : SpanPos) : List Nat :=
  match a.entries[p.entry]? with
  | some y => if y.refused then [] else a.blocksOf y p
  | none => []

def Attn.tilePasses (a : Attn) (p : SpanPos) : Nat := (a.runBlocks p).length * a.x.blockPasses

/-- Nominal issue time of a span tile (R232). -/
def Attn.issueTime (a : Attn) (p : SpanPos) (m : Nat) : Nat :=
  (a.runBlocks p).length * (m * slotFactor a.x.fk + a.x.halves * m * slotFactor (pFmt a.x.fk) + 48)

/-! ## Elements of a run -/

/-- A way to read `n` bytes at a byte offset. -/
abbrev Reader := Dev → Nat → Nat → List RByte × Dev

/-- The elements of a run, and whether a block exponent of it is out of range (R56). -/
structure Run where
  vals : List Num := []
  out : Bool := false

def Run.append (a b : Run) : Run := ⟨a.vals ++ b.vals, a.out || b.out⟩

/-- Read elements `i0` to `i0 + n − 1` of a row that starts at byte offset `e0`, in units of the tensor scale, with block
exponents clamped (R56) and poison as NaN (Table 11-4). -/
def Dev.readRun (d : Dev) (le ls : Reader) (f : Fmt) (e0 i0 n : Nat) : Run × Dev :=
  let w := f.width
  let lo := e0 + i0 * w / 8
  let skip := if w = 4 then i0 % 2 else 0
  let (bs, d) := le d lo (cdiv ((n + skip) * w) 8)
  let cs := (elemCodes w bs (n + skip)).drop skip
  if f.blocked then
    let bb := if w = 4 then 16 else 32
    let at_ (j : Nat) : Nat := (e0 + (i0 + j) * w / 8) / bb
    let (sc, d) := ls d (at_ 0) (at_ (n - 1) + 1 - at_ 0)
    ({ vals := cs.zipIdx.map fun (c, j) =>
        let s := sc.getD (at_ j - at_ 0) (0, false)
        if c.2 || s.2 then .nan else operandValue f c.1 ((blockExp s.1.toNat).map clampExp)
       out := sc.any fun s => !s.2 && (blockExp s.1.toNat).any fun e => !expInRange e }, d)
  else ({ vals := cs.map fun c => if c.2 then .nan else f.value c.1 }, d)

def descElems (who : Actor) (c : CtxId) (loc : Option ArrId) (t : TDesc) : Reader :=
  fun d o n => d.loadSpace who c loc t.space ((t.base + o) % 2 ^ 52) n
def descScales (who : Actor) (c : CtxId) (loc : Option ArrId) (t : TDesc) : Reader :=
  fun d o n => d.loadSpace who c loc t.space ((t.scale + o) % 2 ^ 52) n
def pageBytes (who : Actor) (c : CtxId) (pool : Bool) (page base : Nat) : Reader :=
  fun d o n => d.loadPage who c pool page (base + o) n

/-! ## Rotary codes (R239) -/

/-- The pairs of a row of D elements as their index pairs. -/
def rotPair (x : AttnE) (i : Nat) : Nat × Nat := if x.rotHalf then (i, i + x.dim / 2) else (2 * i, 2 * i + 1)

/-- The frequency table; a poisoned entry is a free value (assumption log 21). -/
def Dev.freqs (d : Dev) (who : Actor) (x : AttnE) : List Word × Dev :=
  if x.rotEn then
    let (bs, d) := d.readOpen who x.freqAddr (4 * (x.dt + x.dh + x.dw))
    ((List.range (x.dt + x.dh + x.dw)).map fun i => BitVec.ofNat 32 (natAt bs (4 * i) 4), d)
  else ([], d)

/-- One of the FP32 values within 1 ulp of a real number (R239). -/
def withinUlp (f : Int) (pick : Nat) : Word :=
  let w := ulpWindow f 1
  ofOrd (w.1 + (pick % ((w.2 - w.1).toNat + 1) : Nat))

/-- Cosine and sine of an FP32 angle; an angle that is not finite gives the generated NaN (DEDUCED, log entry 6). -/
def cosF32 (phi : Word) : Word :=
  if (f32 phi).isFin then withinUlp (fixSinCos (f32 phi).fix).2 (Config.cosPick phi) else f32NaN
def sinF32 (phi : Word) : Word :=
  if (f32 phi).isFin then withinUlp (fixSinCos (f32 phi).fix).1 (Config.sinPick phi) else f32NaN

/-- The rotated FP32 values of a row at a position. -/
def rotate (x : AttnE) (freq : List Word) (pos : Nat × Nat × Nat) (v : List Word) : List Word :=
  (List.range (x.dt + x.dh + x.dw)).foldl (fun v i =>
    let c := if i < x.dt then pos.1 else if i < x.dt + x.dh then pos.2.1 else pos.2.2
    let phi := fmul32 (natToF32 c) (freq.getD i 0)
    let cs := cosF32 phi
    let sn := sinF32 phi
    let (i0, i1) := rotPair x i
    let a := v.getD i0 0
    let b := v.getD i1 0
    (v.set i0 (fma32 a cs (fneg32 (fmul32 b sn)))).set i1 (fma32 b cs (fmul32 a sn))) v

/-- What the load path reports while it requantizes: saturated blocks and flushed blocks of a sensitive tensor, other flushed
blocks, NaN, and exponents out of range (R56, R66, R71, R237). -/
structure Requant where
  vals : List Num
  sat : Bool := false
  nan : Bool := false
  out : Bool := false
  blocks : Nat := 0
  flushes : Nat := 0

/-- A rotated row requantized under R65 with its tensor scale and RNE, in units of that scale (R237). -/
def requantize (f : Fmt) (s : Word) (sensitive : Bool) (v : List Word) : Requant :=
  let q := v.map fun w => (f32 w).div (f32 s)
  if f.blocked then
    (chunksOf 32 (cdiv q.length 32) q).foldl (fun (r : Requant) b =>
      let o := blockConv f .rne (b.map fun v => (v, 0))
      let hit := o.satBlock || (o.flushed && sensitive)
      { vals := r.vals ++ o.codes.map fun c => operandValue f c (blockExp o.scale)
        sat := r.sat || hit, nan := r.nan || o.nan, out := r.out || o.scaleOut, blocks := r.blocks + (if hit then 1 else 0)
        flushes := r.flushes + (if o.flushed && !sensitive then 1 else 0) }) { vals := [] }
  else
    let cs := q.map (toBf16 .rne 0)
    { vals := cs.map fun c => numBf16 c.code, sat := cs.any (·.sat), nan := cs.any (·.nan) }

/-- A row of Q or K as it enters: rotated where the entry asks for it (R239). -/
def rotateRow (x : AttnE) (freq : List Word) (f : Fmt) (s : Word) (sensitive : Bool) (pos : Nat × Nat × Nat)
    (v : List Num) : Requant :=
  if x.rotEn && tscaleOk s then requantize f s sensitive (rotate x freq pos (v.map fun n => toF32 (n.mul (f32 s))))
  else { vals := v }

/-! ## Keys and values -/

/-- What a span tile works on. -/
structure SpanCtx where
  who : Actor
  c : CtxId
  loc : Option ArrId
  a : Attn
  y : StepEntry
  s : SeqSnap
  p : SpanPos

def SpanCtx.x (k : SpanCtx) : AttnE := k.a.x
def SpanCtx.keys (k : SpanCtx) : Nat := k.s.len + k.y.f
def SpanCtx.fmt (k : SpanCtx) : Fmt := (Fmt.ofCode k.x.fk).getD .bf16
def SpanCtx.layout (k : SpanCtx) : PageLayout := pageLayout k.x.fk k.x.dim k.a.tpp

/-- The walker meets an entry that fails R226 after the issue: every row of the sequence in the step will be NaN. -/
def Dev.refuseLate (d : Dev) (k : SpanCtx) : Dev :=
  if (d.attn? k.a.cmd).any fun a => a.entries.any fun y => y.slot = k.y.slot && y.refused then d
  else
    let q := match d.cmd? k.a.cmd with | some y => y.q | none => 0
    let hit (e : Nat) : Bool := (k.a.entries[e]?).any fun y => y.slot = k.y.slot
    let d := d.modAttn k.a.cmd fun a =>
      let a := a.refuse k.y.slot true
      { a with merges := a.merges.map fun (m : Merge) => if hit m.entry then { m with nan := m.nan.map fun _ => true } else m }
    ({ d with tiles := d.tiles.map fun (t : Tile) => match t.work with
        | .span p => if t.cmd = k.a.cmd ∧ hit p.entry then { t with smNan := t.smNan.map fun _ => true } else t
        | .matrix _ => t }).pageRefused k.c q k.a.header k.y.slot

/-- Read `n` elements of the run that holds key `j` (cached) in its page. -/
def Dev.readCache (d : Dev) (k : SpanCtx) (j base sbase e0 i0 n : Nat) : Run × Dev :=
  let (pe, d) := d.pageEntry k.who k.s.table k.a.hkv k.s.pmax k.x.layer k.p.g (j / k.a.tpp)
  if d.ctx[k.c].acceptsPage k.s.gen pe then
    d.readRun (pageBytes k.who k.c pe.pool pe.page base) (pageBytes k.who k.c pe.pool pe.page sbase) k.fmt e0 i0 n
  else ({ vals := List.replicate n .nan }, d.refuseLate k)

/-- Key `j` before rotation, with its tensor scale and its sensitive mark (R216). -/
def Dev.readKey (d : Dev) (k : SpanCtx) (j : Nat) : (Run × Word × Bool) × Dev :=
  if j < k.s.len then
    let (v, d) := d.readCache k j 0 k.layout.ks (j % k.a.tpp * k.x.dim * k.fmt.width / 8) 0 k.x.dim
    ((v, k.x.kscale, false), d)
  else
    let t := k.x.k
    let (v, d) := d.readRun (descElems k.who k.c k.loc t) (descScales k.who k.c k.loc t) k.fmt
      (t.rowOff k.p.g 0 0 (k.y.frow + (j - k.s.len))) 0 k.x.dim
    ((v, t.tscale, t.sensitive), d)

/-- The tensor scale of V in use: the cache's, or that of the fresh tensor where nothing is cached. -/
def SpanCtx.vScale (k : SpanCtx) : Word := if k.s.len = 0 then k.x.vt.tscale else k.x.vscale

/-- Dimension `dm` of V for `n` keys from `j`, all cached in one page or all fresh, in units of the scale in use. -/
def Dev.readVal (d : Dev) (k : SpanCtx) (dm j n : Nat) : Run × Dev :=
  if j < k.s.len then
    d.readCache k j k.layout.ve k.layout.vs (dm * k.a.tpp * k.fmt.width / 8) (j % k.a.tpp) n
  else
    let t := k.x.vt
    let (v, d) := d.readRun (descElems k.who k.c k.loc t) (descScales k.who k.c k.loc t) k.fmt (t.rowOff k.p.g 0 0 dm)
      (k.y.frow + (j - k.s.len)) n
    (if t.tscale = k.vScale ∨ !tscaleOk t.tscale ∨ !tscaleOk k.vScale then v
     else { v with vals := v.vals.map fun u => (u.mul (f32 t.tscale)).div (f32 k.vScale) }, d)

/-- Keys of a key block. -/
def SpanCtx.blockKeys (k : SpanCtx) (b : Nat) : List Nat := (List.range 128).map (128 * b + ·) |>.filter (· < k.keys)

/-- Dimension `dm` of V over a key block, in runs of at most 32 keys. -/
def Dev.readValRow (d : Dev) (k : SpanCtx) (b dm : Nat) : Run × Dev :=
  (List.range 4).foldl (fun acc q =>
    let j := 128 * b + 32 * q
    if k.keys ≤ j then acc
    else
      let (v, d) := acc.2.readVal k dm j (min 32 (k.keys - j))
      (acc.1.append v, d)) ({}, d)

/-- The scales in use by a tile are usable (R57). -/
def SpanCtx.scalesOk (k : SpanCtx) : Bool :=
  tscaleOk k.x.q.tscale && (k.s.len = 0 || (tscaleOk k.x.kscale && tscaleOk k.x.vscale)) &&
    (k.y.f = 0 || (tscaleOk k.x.k.tscale && tscaleOk k.x.vt.tscale))

/-! ## Products -/

/-- What the load path reports of an operand it has read (Table 04-1, R84, R237). -/
structure LoadRep where
  trouble : Bool := false
  nan : Bool := false
  sat : Bool := false
  unrep : Bool := false
  folded : Bool := false
  flushes : Nat := 0
  blocks : Nat := 0

def LoadRep.append (a b : LoadRep) : LoadRep :=
  { trouble := a.trouble || b.trouble, nan := a.nan || b.nan, sat := a.sat || b.sat, unrep := a.unrep || b.unrep
    folded := a.folded || b.folded, flushes := a.flushes + b.flushes, blocks := a.blocks + b.blocks }

def OpBlock.rep (b : OpBlock) : LoadRep :=
  { trouble := b.trouble, nan := b.nan, sat := b.sat, unrep := b.unrep, folded := b.folded, flushes := b.flushes }

/-- Of a run and what requantizing it made (R56, R237). -/
def Requant.rep (q : Requant) (out : Bool) : LoadRep :=
  { trouble := q.out || out, nan := q.nan || q.vals.any Num.isNan, sat := q.sat, flushes := q.flushes, blocks := q.blocks }

/-- Rows of A as they enter the cells; an element that takes no part is none. -/
abbrev ARows := List (List (Option Num))

/-- The rows of Q for S = Q·Kᵀ (R232, R239). -/
def Dev.qRows (d : Dev) (k : SpanCtx) (rows : Nat) : ARows × LoadRep × Dev :=
  let x := k.x
  let (freq, d) := d.freqs k.who x
  let fq := (Fmt.ofCode x.fq).getD .bf16
  (List.range rows).foldl (fun (acc : ARows × LoadRep × Dev) row =>
    let (h, i) := k.a.queryOf k.y k.p row
    let (v, d) := acc.2.2.readRun (descElems k.who k.c k.loc x.q) (descScales k.who k.c k.loc x.q) fq
      (x.q.rowOff h 0 0 (k.y.qrow + i)) 0 x.dim
    let q := rotateRow x freq fq x.q.tscale x.q.sensitive (k.s.pos x.grid (k.y.queryIx k.s.len i)) v.vals
    (acc.1 ++ [q.vals.map some], acc.2.1.append (q.rep v.out), d)) ([], {}, d)

/-- The columns of key block `b` for S = Q·Kᵀ. -/
def Dev.kCols (d : Dev) (k : SpanCtx) (b : Nat) : List (List Num) × LoadRep × Dev :=
  let x := k.x
  let (freq, d) := d.freqs k.who x
  (k.blockKeys b).foldl (fun (acc : List (List Num) × LoadRep × Dev) j =>
    let (v, d) := acc.2.2.readKey k j
    let q := rotateRow x freq k.fmt v.2.1 v.2.2 (k.s.pos x.grid (k.y.keyIx k.s.len j)) v.1.vals
    (acc.1 ++ [q.vals], acc.2.1.append (q.rep v.1.out), d)) ([], {}, d)

/-- The columns of half `h` of the V block `b` for P·V. -/
def Dev.vCols (d : Dev) (k : SpanCtx) (b h : Nat) : List (List Num) × LoadRep × Dev :=
  (List.range (min 128 (k.x.dim - 128 * h))).foldl (fun (acc : List (List Num) × LoadRep × Dev) i =>
    let (v, d) := acc.2.2.readValRow k b (128 * h + i)
    (acc.1 ++ [v.vals], acc.2.1.append { trouble := v.out, nan := v.vals.any Num.isNan }, d)) ([], {}, d)

/-- The rows of P for P·V. -/
def SpanCtx.pRows (k : SpanCtx) (b : Nat) (probs : List (Option (List (Option Num)))) : ARows :=
  probs.map fun p => p.getD (List.replicate (k.blockKeys b).length none)

/-! ## Scores and softmax (R233, R234) -/

/-- The distance bias of a query and a key position; a poisoned entry is a free value. -/
def Dev.biasOf (d : Dev) (who : Actor) (x : AttnE) (tq tk : Nat) : Word × Dev :=
  let i := min ((tq - tk) + (tk - tq)) 4095
  let (bs, d) := d.readOpen who (x.biasAddr + 4 * i) 4
  (BitVec.ofNat 32 (leNat bs), d)

/-- The tensor scale of key `j`. -/
def SpanCtx.keyScale (k : SpanCtx) (j : Nat) : Word := if j < k.s.len then k.x.kscale else k.x.k.tscale

/-- Some key of the block is allowed for the row. -/
def SpanCtx.anyKey (k : SpanCtx) (b row : Nat) : Bool :=
  (k.blockKeys b).any fun j => allowedKey k.x k.s k.y (k.a.queryOf k.y k.p row).2 j

/-- Some conversion of the allowed keys' sums is beyond the largest finite FP32 value (R71, R233). -/
def SpanCtx.scoresSat (k : SpanCtx) (b row : Nat) (accs : List Acc) : Bool :=
  ((k.blockKeys b).zip accs).any fun ja => allowedKey k.x k.s k.y (k.a.queryOf k.y k.p row).2 ja.1 &&
    overflowed (ja.2.value k.x.q.tscale (k.keyScale ja.1))

/-- The scores of row `row` against a key block: none where the mask excludes the key (R233, R241). -/
def Dev.scores (d : Dev) (k : SpanCtx) (b row : Nat) (accs : List Acc) : List (Option Word) × Dev :=
  let i := (k.a.queryOf k.y k.p row).2
  ((k.blockKeys b).zip accs).foldl (fun (acc : List (Option Word) × Dev) ja =>
    let j := ja.1
    if allowedKey k.x k.s k.y i j then
      let s := fmul32 (toF32 (ja.2.value k.x.q.tscale (k.keyScale j))) k.x.scale
      if k.x.biasEn then
        let (bias, d) := acc.2.biasOf k.who k.x (k.s.pos k.x.grid (k.y.queryIx k.s.len i)).1
          (k.s.pos k.x.grid (k.y.keyIx k.s.len j)).1
        (acc.1 ++ [some (fadd32 s bias)], d)
      else (acc.1 ++ [some s], acc.2)
    else (acc.1 ++ [none], acc.2)) ([], d)

/-- ceiling of a finite FP32 value, held in FP32. -/
def ceilF32 (w : Word) : Word :=
  match f32 w with
  | .fin s n e => intToF32 (if s then -((n / e : Nat) : Int) else ((cdiv n e : Nat) : Int))
  | _ => w

/-- The larger of two FP32 values. -/
def maxF32 (a b : Word) : Word := if (f32 a).lt (f32 b) then b else a

/-- x × 2^(m − m'), m and m' integers held in FP32. -/
def rescale (x m m' : Word) : Word :=
  match (f32 m).sub (f32 m') with
  | .fin s n e => toF32 ((f32 x).scale (if s then -((n / e : Nat) : Int) else ((n / e : Nat) : Int)))
  | _ => f32NaN

/-- P quantized: blocks of 32 keys, tensor scale 1.0, RNE (R234). -/
def quantP (f : Fmt) (ps : List Num) : List Num :=
  if f.blocked then (chunksOf 32 4 ps).flatMap fun b => (narrowBlock f false b).vals
  else ps.map fun v => numBf16 (toBf16 .rne 0 v).code

/-- What the scores of one row make of its state: the state, whether it holds a NaN, and its quantized p (R234). A fresh
state has no O yet. -/
def softRow (f : Fmt) (st : Option SmRow) (sc : List (Option Word)) :
    Option SmRow × Bool × Option (List (Option Num)) :=
  match sc.filterMap id with
  | [] => (st, false, none)
  | s0 :: ss =>
    if (s0 :: ss).any fun s => !(f32 s).isFin then (st, true, none)
    else
      let mb := ceilF32 (ss.foldl maxF32 s0)
      let m := match st with | some r => maxF32 r.m mb | none => mb
      let p := quantP f (sc.map fun s => match s with
        | some s => f32 (Fn.exp2.eval false (fsub32 s m))
        | none => .fin false 0 1)
      let lb := toF32 (p.foldl Num.add (.fin false 0 1))
      let p := (sc.zip p).map fun q => q.1.map fun _ => q.2
      match st with
      | some r =>
        let up := (f32 r.m).lt (f32 m)
        let l := if up then rescale r.l r.m m else r.l
        let o := if up then r.o.map (rescale · r.m m) else r.o
        (some { m := m, l := fadd32 l lb, o := o }, false, some p)
      | none => (some { m := m, l := lb, o := [] }, false, some p)

/-- O + o_b over the columns of half `h` (R234). -/
def addO (o : List Word) (h : Nat) (ob : List Word) : List Word :=
  if o.length ≤ 128 * h then o ++ ob
  else o.zipIdx.map fun (v, i) => if 128 * h ≤ i ∧ i < 128 * h + ob.length then fadd32 v (ob.getD (i - 128 * h) 0) else v

/-- Two span states merged, `a` the lower (R234). -/
def mergeSm (a b : Option SmRow) : Option SmRow :=
  match a, b with
  | a, none => a
  | none, b => b
  | some a, some b =>
    let m := maxF32 a.m b.m
    let sc (r : SmRow) : Word × List Word := if (f32 r.m).lt (f32 m) then (rescale r.l r.m m, r.o.map (rescale · r.m m))
      else (r.l, r.o)
    let (la, oa) := sc a
    let (lb, ob) := sc b
    some { m := m, l := fadd32 la lb, o := (oa.zip ob).map fun p => fadd32 p.1 p.2 }

/-! ## Rows of the output (R235, R236) -/

/-- Rows of an attention command that are computed: entry, head group and rows stacked. -/
def Attn.rowGroups (a : Attn) : List (Nat × Nat × Nat) :=
  a.entries.zipIdx.flatMap fun (y, e) => if y.status = stOk then a.groups.map fun g => (e, g, a.rowsOf y g) else []
def Attn.totalRows (a : Attn) : Nat := a.rowGroups.foldl (fun n r => n + r.2.2) 0

/-- The place of flat row `r`: entry, head group, stacked row. -/
def rowPlace : List (Nat × Nat × Nat) → Nat → Option (Nat × Nat × Nat)
  | [], _ => none
  | (e, g, n) :: l, r => if r < n then some (e, g, r) else rowPlace l (r - n)

/-- The values of an output row and its log-sum-exp: NaN, empty, or O ÷ ℓ (R235, R236). -/
def outRow (dim : Nat) (nan : Bool) (st : Option SmRow) : List Word × Word :=
  if nan then (List.replicate dim f32NaN, f32NaN)
  else match st with
    | none => (List.replicate dim 0, 0xFF7FFFFF#32)
    | some r => (r.o.map (fdiv32 · r.l), fadd32 r.m (Fn.log2.eval false r.l))

/-- Write one output row of an attention command (R235, R236); an empty row is +0 whatever the tensor scale of O. -/
def Dev.writeO (d : Dev) (who : Actor) (c : CtxId) (a : Attn) (y : StepEntry) (h i : Nat) (nan : Bool) (st : Option SmRow) :
    StagedRow × Dev :=
  let x := a.x
  let (vals, lse) := outRow x.dim nan st
  match Fmt.ofCode x.fo with
  | none => ({ row := i, accs := [] }, d)
  | some f =>
    let m := (RMode.ofCode x.xo.rnd).getD .rne
    let word (n : Nat) : Nat := if m = .sr then (srWord a.seed x.xo.tid ((h * y.nq + i) * x.dim + n)).toNat else 0
    let s := if !nan && st.isNone then f32One else x.o.tscale
    let r := convertRow f m s x.o.sensitive (vals.zipIdx.map fun (v, n) => (f32 v, false, word n))
      { row := i, accs := [] }
    let off (n : Nat) : Nat := x.o.elemOff f.width h 0 0 (y.qrow + i) n
    let d := d.storeSpace who c none x.o.space ((x.o.base + off 0) % 2 ^ 52) (packCodes f.width r.codes)
    let d := r.scales.zipIdx.foldl (fun d (s, b) =>
      d.storeSpace who c none x.o.space (x.o.scaleAddr x.fo (off (32 * b))) [BitVec.ofNat 8 s]) d
    let d := if x.lseEn then
        d.storeAddr who (x.lseAddr + 4 * (h * x.lseStride + y.qrow + i)) (leBytes lse.toNat 4) else d
    (r, d)

end Sys2Proof.Machine
end

