-- ==== Sys2Proof/Machine/Tiles.lean ====
section
/-!
DEFINITION. Machine/Tiles.lean: tiles from expansion to commit (R45, R86, R104 to R121, R140 to R143, R402 to R404), Rephrase
decisions (R85 to R90), and the merging of span tiles (R231 to R236).
-/
namespace Sys2Proof.Machine

/-! ## What a tile is -/

def Dev.spanCtx (d : Dev) (t : Tile) (p : SpanPos) : Option SpanCtx :=
  match d.attn? t.cmd with
  | none => none
  | some a =>
    match a.entries[p.entry]? with
    | none => none
    | some y => (a.snapOf y.slot).map fun s => { who := .cmd t.cmd, c := t.c, loc := t.arr, a := a, y := y, s := s, p := p }

/-- Passes of a tile (R102, R232). -/
def Dev.passCount (d : Dev) (t : Tile) : Nat :=
  match t.work with
  | .matrix _ => passesOf t.kLen
  | .span p => match d.attn? t.cmd with | some a => a.tilePasses p | none => 0

/-- A tile placed now would join its group's channel (R119). -/
def Dev.wouldJoin (d : Dev) (t : Tile) : Bool :=
  match t.member with
  | some ch => (d.mc[ch].group).any fun g => g.members.contains t.uid && g.pass = 0 && !t.retry && t.step = 0
  | none => false

/-- The nominal issue time of a tile as it would run now; an operand counts as channel bytes where the tile would join its
group (R103, R121, R232). -/
def Dev.planLength (d : Dev) (t : Tile) : Nat :=
  match t.work with
  | .matrix _ =>
    match d.tensor? t.cmd with
    | some tn => tn.x.issueTime t.rows t.cols t.kLen t.step (!d.wouldJoin t)
    | none => 0
  | .span p => match d.attn? t.cmd with | some a => a.issueTime p t.rows | none => 0

/-- The command has dropped its tiles that are not placed (R44). -/
def Dev.isCut (d : Dev) (id : Nat) : Bool :=
  d.tensors.any (fun x => x.cmd = id && x.cut) || d.attns.any fun x => x.cmd = id && x.cut

/-- An attempt starts from nothing: the tile is held again. -/
def Tile.restart (t : Tile) : Tile :=
  { uid := t.uid, n := t.n, c := t.c, cmd := t.cmd, period := t.period, layer := t.layer, work := t.work, rows := t.rows
    cols := t.cols, kLen := t.kLen, step := t.step, failedOn := t.failedOn, retry := t.retry, retryNo := t.retryNo
    faulty := t.faulty, cpFailed := t.cpFailed, firstRows := t.firstRows, firstArr := t.firstArr, member := t.member
    prev := if t.step = 0 then [] else t.prev }

/-- The array that a tile runs on is free. -/
def Dev.unrun (d : Dev) (t : Tile) : Dev :=
  match t.arr with
  | some a => if d.arr[a].tile = some t.uid then d.modArr a fun (x : Arr) => { x with tile := none, mcast := false } else d
  | none => d

/-! ## Multicast (R118 to R121, R143) -/

/-- The channel that an expanded tile takes an operand by (R118). -/
def Dev.mcOf (d : Dev) (t : Tile) : Option (Fin 8 × Tensor × TilePos) :=
  match t.work, d.tensor? t.cmd with
  | .matrix p, some tn =>
    if tn.x.mcEn && d.holdsMc t.c tn.x.mcCh then
      if h : tn.x.mcCh < 8 then some (⟨tn.x.mcCh, h⟩, tn, p) else none
    else none
  | _, _ => none

/-- The key of a tile's group within its command: problem and chunk, grid block, and tile row or column. -/
def mcKey (tn : Tensor) (p : TilePos) : Nat × Nat × Nat × Nat :=
  (problemIx false tn.p0 tn.p1 p.p0 p.p1 p.p2 * tn.x.chunks tn.shape + p.ch, p.r / tn.x.gm, p.s / tn.x.gn,
    if tn.x.mcB then p.s else p.r)

def McGroup.is (g : McGroup) (cmd : Nat) (key : Nat × Nat × Nat × Nat) : Bool := g.cmd = cmd && decide (g.key = key)

/-- A waiting group starts on a channel that is idle (R143). -/
def Mcast.start (m : Mcast) : Mcast :=
  match m.group, m.waiting with
  | none, g :: rest => { m with group := some g, waiting := rest, operandB := g.operandB, buf := [] }
  | _, _ => m

/-- An expanded tile enters its group; the first tile of a block's row or column forms it. -/
def Dev.enterGroup (d : Dev) (t : Tile) : Dev :=
  match d.mcOf t with
  | none => d
  | some (ch, tn, p) =>
    let key := mcKey tn p
    let add (g : McGroup) : McGroup := if g.is t.cmd key then { g with members := g.members ++ [t.uid] } else g
    let first := if tn.x.mcB then decide (p.r % tn.x.gm = 0) else decide (p.s % tn.x.gn = 0)
    (d.modTile t.uid fun y => { y with member := some ch }).modMc ch fun m =>
      if first then
        Mcast.start { m with waiting := m.waiting ++
          [({ cmd := t.cmd, operandB := tn.x.mcB, key := key, members := [t.uid] } : McGroup)] }
      else { m with group := m.group.map add, waiting := m.waiting.map add }

/-- The second buffer of the tile's array holds the B pass that the tile runs next. -/
def Dev.secondHolds (d : Dev) (t : Tile) : Bool :=
  match t.arr with
  | some a => d.arr[a].second.tile = some t.uid && d.arr[a].second.pass = t.passes
  | none => false

/-- The pass of its multicast operand that a member needs next. -/
def Dev.mcNeed (d : Dev) (g : McGroup) (t : Tile) : Nat :=
  if g.operandB && d.secondHolds t then t.passes + 1 else t.passes

/-- A member whose next pass is the channel's current one joins; a retry or a repeat never does (R119, R120). -/
def Dev.joinGroup (d : Dev) (uid : Nat) : Dev :=
  match d.tile? uid with
  | none => d
  | some t =>
    match t.member, t.arr with
    | some ch, some a =>
      match d.mc[ch].group with
      | some g =>
        let n := d.mcNeed g t
        if g.members.contains uid ∧ !g.joined.contains uid ∧ g.pass = n ∧ !t.retry ∧ t.step = 0 ∧ n < passesOf t.kLen
        then (d.modMc ch fun m => { m with group := some { g with joined := g.joined ++ [uid] } }).modArr a
          fun (x : Arr) => { x with mcast := true }
        else d
      | none => d
    | _, _ => d

/-- How a tile reads pass `pass` of an operand: through its channel (true), directly (false), or not before the channel has
come to it (none). The channel's buffer holds its current pass and, of B, the next (R101, R119). -/
def Dev.mcSource (d : Dev) (t : Tile) (isB : Bool) (pass : Nat) : Option Bool :=
  match t.member with
  | none => some false
  | some ch =>
    match d.mc[ch].group with
    | some g =>
      if g.joined.contains t.uid && g.operandB == isB then
        if pass = g.pass ∨ (isB ∧ pass = g.pass + 1) then some true else none
      else some false
    | none => some false

/-- A tile leaves its channel's group: it has ended or its attempt is gone. -/
def Dev.leaveGroup (d : Dev) (uid : Nat) : Dev :=
  { d with mc := d.mc.map fun (m : Mcast) =>
      { m with group := m.group.map fun g => { g with joined := g.joined.filter (· ≠ uid) } } }

/-- MULTICAST_ADVANCE (R119): the channel goes to the next pass, or to the next group. -/
def Dev.mcAdvance (d : Dev) (ch : Fin 8) : Dev :=
  match d.mc[ch].group with
  | none => d.modMc ch Mcast.start
  | some g =>
    let tile (u : Nat) : Option Tile := d.tile? u
    let past (u : Nat) : Bool := match tile u with
      | some t => decide (g.pass < d.mcNeed g t) || t.retry || t.step ≠ 0
      | none => true
    let passes := match g.members.findSome? tile with | some t => passesOf t.kLen | none => 0
    let move : Bool := if g.joined = [] then g.members.all past else g.joined.all past
    if !move then d
    else if passes ≤ g.pass + 1 ∨ g.joined = [] then
      let d := { d with arr := d.arr.map fun (a : Arr) => match a.tile with
        | some u => if g.joined.contains u then { a with mcast := false } else a
        | none => a }
      d.modMc ch fun m => Mcast.start { m with group := none, buf := [] }
    else d.modMc ch fun m => { m with
      group := some { g with pass := g.pass + 1 }, buf := m.buf.filter fun b => decide (g.pass < b.pass) }

/-! ## Placement (R45, R402) -/

/-- The waits of a tile's command have been met. -/
def Dev.cmdRuns (d : Dev) (id : Nat) : Bool := (d.cmd? id).any fun x => x.phase = .running

/-- A tile is ready: expanded, the waits of its command met, and the K chunk before it has its final values (R142). -/
def Dev.tileReady (d : Dev) (t : Tile) : Bool :=
  t.phase = .held && d.cmdRuns t.cmd && (t.retry || !d.isCut t.cmd) &&
    match t.work with
    | .span _ => true
    | .matrix p => p.ch = 0 || (match d.tensor? t.cmd with
        | some tn => tn.fin.contains { p with ch := p.ch - 1 }
        | none => false)

/-- The order of ready tiles: retries as they came, then by Period and tile number. -/
def Tile.before (t u : Tile) : Bool :=
  if t.retry ≠ u.retry then t.retry
  else if t.retry then decide (t.retryNo < u.retryNo)
  else decide (t.period < u.period) || (t.period = u.period && decide (t.n < u.n))

/-- The tiles of a list in that order. -/
def insertTile (t : Tile) : List Tile → List Tile
  | [] => [t]
  | u :: l => if t.before u then t :: u :: l else u :: insertTile t l
def sortTiles (l : List Tile) : List Tile := l.foldr insertTile []

def Dev.readyTiles (d : Dev) (c : CtxId) : List Tile := sortTiles (d.tiles.filter fun t => t.c = c && d.tileReady t)

/-- Tiles of a context that run. -/
def Dev.runningTiles (d : Dev) (c : CtxId) : Nat :=
  (d.arr.toList.filter fun (a : Arr) => match a.tile with
    | some u => (d.tile? u).any fun t => t.c = c
    | none => false).length

def Arr.free (a : Arr) : Bool := a.st = .inService && a.tile.isNone && a.slot.isSome && a.moveTo.isNone

/-- The lowest free array that a tile may run on: a retry not where an attempt of it has failed, a second run not where the
first ran (R112, R402); a repeat on any (Table 04-8). -/
def Dev.arrayFor (d : Dev) (t : Tile) : Option ArrId :=
  (List.finRange 208).find? fun a => d.arr[a].free && !(t.retry && t.failedOn.contains a) && t.firstArr ≠ some a

/-- Contexts by priority, highest first, then by number. -/
def Dev.byPrio (d : Dev) : List CtxId :=
  (List.range 8).reverse.flatMap fun p => (List.finRange 16).filter fun c => d.ctx[c].g.prio = p && d.ctx[c].resident

/-- The choice of R45: the tile, its array, and whether the array is borrowed. A borrowed array goes to the first ready tile
whose plan length fits, past longer ones before it (DESIGN CHOICE, log entry 87). -/
def Dev.choose (d : Dev) : Option (Tile × ArrId × Bool) :=
  let pick (ts : List Tile) : Option (Tile × ArrId) := ts.findSome? fun t => (d.arrayFor t).map fun a => (t, a)
  let own (c : CtxId) : Option (Tile × ArrId × Bool) :=
    let ts := d.readyTiles c
    let ts := if d.ctx[c].g.quota = 0 then ts.filter (·.retry)
      else if d.runningTiles c < d.ctx[c].g.quota then ts else []
    (pick ts).map fun x => (x.1, x.2, false)
  let borrow (c : CtxId) : Option (Tile × ArrId × Bool) :=
    if d.ctx[c].g.borrow && d.ctx[c].g.quota ≠ 0 then
      (pick ((d.readyTiles c).filter fun t => decide (d.planLength t ≤ d.lexVal 0x2100 4))).map fun x => (x.1, x.2, true)
    else none
  match d.byPrio.findSome? own with
  | some x => some x
  | none => d.byPrio.findSome? borrow

/-- Place a tile on an array: its accumulators are zero; with no pass to run the array is free at once (R105, R116). -/
def Dev.putTile (d : Dev) (t : Tile) (a : ArrId) (borrowed : Bool) : Dev :=
  let p := d.passCount t
  let refused : Bool := match t.work with
    | .span q => ((d.attn? t.cmd).bind fun x => x.entries[q.entry]?).any (·.refused)
    | .matrix _ => false
  let t' := { t with
    phase := .placed, arr := some a, freed := p = 0, passes := 0, acc := List.replicate t.rows (List.replicate t.cols {})
    chk := List.replicate t.rows 0, sm := List.replicate t.rows none, smNan := List.replicate t.rows refused
    probs := List.replicate t.rows none }
  let (t', inj) : Tile × Option Inject := match d.inject with
    | some i =>
      if i.arr = a ∧ i.row < t.rows ∧ i.col < t.cols ∧ 0 < p ∧ !(i.tile.any fun u => d.arr[a].tile = some u) then
        ({ t' with injectAt := some (i.row, i.col) }, some { i with tile := some t.uid })
      else (t', some i)
    | none => (t', none)
  let d := { d.modTile t.uid fun _ => t' with inject := inj }
  let d := if borrowed then d.countCtx 1 t.c else d
  if p = 0 then d
  else (d.modArr a fun (x : Arr) => { x with tile := some t.uid, mcast := false, cells := {}, second := {} }).joinGroup t.uid

def Dev.placeN (d : Dev) : Nat → Dev
  | 0 => d
  | fuel + 1 =>
    match d.choose with
    | some (t, a, b) => (d.putTile t a b).placeN fuel
    | none => d

/-- The placement procedure (R45); an injection aimed at an array that is not in service is dropped (R124). -/
def Dev.place (d : Dev) : Dev :=
  let d := match d.inject with
    | some i => if d.arr[i.arr].st = ArrState.inService then d else d.dropInject
    | none => d
  d.placeN (d.tiles.length + 1)

/-! ## Expansion (R86, R140, R141, R232) -/

/-- The command whose tiles a context expands: the first issued that has tiles left. -/
def Dev.expanding (d : Dev) (c : CtxId) : Option Cmd :=
  d.cmds.find? fun x => x.c = c && x.status.isNone &&
    (d.tensors.any (fun t => t.cmd = x.id && (t.nextTile t.candidates t.next).isSome) ||
      d.attns.any fun a => a.cmd = x.id && decide (a.next < a.spanTiles.length))

/-- Make the next tile of a command's Period work: it takes the next number. -/
def Dev.newTile (d : Dev) (x : Cmd) (layer rows cols kLen : Nat) (w : TileWork) : Tile × Dev :=
  let n := if d.ctx[x.c].tilePeriod = x.period then d.ctx[x.c].nextTile else 0
  let t : Tile := { uid := d.nextUid, n := n, c := x.c, cmd := x.id, period := x.period, layer := layer, work := w, rows := rows
                    cols := cols, kLen := kLen, cpFailed := d.ctx[x.c].cp.failed }
  (t, { d.modCtx x.c (fun y => { y with
          nextTile := n + 1, tilePeriod := x.period, ldt := { y.ldt with tiles := satInc y.ldt.tiles } }) with
        tiles := d.tiles ++ [t], nextUid := d.nextUid + 1 })

/-- Change a tensor command wherever its copy stands: the command, the collectives bound to it and its program (R296). -/
def Dev.mapTensor (d : Dev) (id : Nat) (c : CtxId) (f : Tensor → Tensor) : Dev :=
  let mine (x : Option Tensor) : Option Tensor := x.map fun y => if y.cmd = id then f y else y
  let d := d.modTensor id f
  let d := { d with cmds := d.cmds.map fun (x : Cmd) => { x with bound := mine x.bound } }
  d.modCp c fun cp => { cp with
    prog := cp.prog.map fun (g : Program) => { g with lastT := mine g.lastT }
    ended := cp.ended.map fun (g : Program) => { g with lastT := mine g.lastT } }

/-- A command that the entry settled at its first tile ends instead: at once where its waits are met. -/
def Dev.endUnexpanded (d : Dev) (c : CtxId) (id : Nat) (st : BitVec 8) : Dev :=
  let d := { d with tensors := d.tensors.filter fun t => t.cmd ≠ id }
  let d := d.endAtIssue id c st
  match d.cmd? id with
  | some x => if x.phase = .running then (d.endCmd id st x.flags).settleColls else d
  | none => d

/-- The entry of a command whose first tile is to be expanded, as its layer stands promoted or not (R92, R138): none where
steps 4 and 5 of Table 06-7 end the command under that entry. -/
def Dev.settleVariant (d : Dev) (c : CtxId) (tn : Tensor) : Option Tensor × Dev :=
  let v := d.variantOf c tn
  if tn.next ≠ 0 ∨ v.2 = tn.e then (some tn, d)
  else
    match d.entryStatus c (.of v.2) tn.shape with
    | some st => (none, d.endUnexpanded c tn.cmd st)
    | none => (some { tn with e := v.2 },
        (d.mapTensor tn.cmd c fun t => { t with e := v.2 }).modLdt c fun l => { l with selected := v.1 })

/-- The lowest tile of a list, by Period and number. -/
def lowestTile : List Tile → Option Tile
  | [] => none
  | t :: l => match lowestTile l with
    | some u => if u.period < t.period ∨ (u.period = t.period ∧ u.n < t.n) then some u else some t
    | none => some t

/-- TILE_EXPAND (R141): one tile of the command whose turn it is; after a failover those that were expanded and not committed
come again first, with their own numbers (R147). -/
def Dev.expand (d : Dev) (c : CtxId) : Dev :=
  let k := d.ctx[c]
  if k.g.quota = 0 ∨ k.cp.failed ∨ k.noPair ∨ 64 ≤ d.heldTiles c then d
  else
    match lowestTile (d.tiles.filter fun t => t.c = c && t.phase = .lost) with
    | some t => (d.modTile t.uid fun y => { y with phase := .held, cpFailed := false }).place
    | none =>
    match d.expanding c with
    | none => d
    | some x =>
      match d.tensor? x.id with
      | some tn =>
        let (settled, d) := d.settleVariant c tn
        match settled with
        | none => d
        | some tn =>
        match tn.nextTile tn.candidates tn.next with
        | none => d
        | some (p, i) =>
          let d := d.modTensor x.id fun y => { y with next := i }
          let (t, d) := d.newTile x tn.x.layer (tn.rows p) (tn.cols p) (tn.kLen p) (.matrix p)
          (d.enterGroup t).place
      | none =>
        match d.attn? x.id with
        | none => d
        | some a =>
          match a.spanTiles[a.next]? with
          | none => d
          | some p =>
            let d := d.modAttn x.id fun y => { y with next := y.next + 1 }
            let rows := match a.entries[p.entry]? with | some y => a.chunkRows y p.g p.chunk | none => 0
            let (_, d) := d.newTile x a.x.layer rows 128 0 (.span p)
            d.place

/-! ## One pass (R99, R110 to R113, R124) -/

/-- A row of A enters against the columns of a pass. -/
def passRow (cols : List (List Num)) (accs : List Acc) (as : List (Option Num)) : List Acc :=
  (accs.zip cols).map fun q => (as.zip q.2).foldl (fun (x : Acc) p => match p.1 with
    | some a => x.addProduct (a.mul p.2)
    | none => x) q.1

/-- The pass: every row's accumulators and check accumulator, against the B pass and the check entries of the cells. -/
def runPass (x : Cells) (rows : ARows) (acc : List (List Acc)) (chk : List Int) : List (List Acc) × List Int :=
  ((acc.zip rows).map fun q => passRow x.cols q.1 q.2,
    (chk.zip rows).map fun q => checkAdd q.1 (q.2.map fun a => a.getD (.fin false 0 1)) x.check)

/-- A B pass as the load path writes it, with its check entries (R98, R110). -/
def cellsOf (uid pass : Nat) (cols : List (List Num)) : Cells :=
  { tile := some uid, pass := pass, cols := cols
    check := (List.range (cols.foldl (fun m c => max m c.length) 0)).map (checkEntry cols) }

/-- Elements along K of pass `pass` of a matrix tile (R116). -/
def Tile.passLen (t : Tile) (pass : Nat) : Nat := min 256 (t.kLen - 256 * pass)

/-- Where a matrix tile's operand lies: its descriptor and its map (R129 to R132, R145). -/
def Tensor.opSrc (tn : Tensor) (p : TilePos) (isB : Bool) : OpSrc :=
  let x := tn.x
  let s := tn.shape
  if isB then
    { t := x.b, x := x.xb, fmt := x.fb, q := problemIx false (if x.fold then 1 else s.p0) s.p1 p.p0 p.p1 p.p2, rows := s.n
      inner := s.k }
  else
    { t := x.a, x := x.xa, fmt := x.fa, q := problemIx x.fold s.p0 s.p1 p.p0 p.p1 p.p2, rows := x.rowsOf s, inner := s.k }

/-- The bytes of one pass of a matrix tile's operand, row by row of A or column by column of B (R114 to R116). -/
def Dev.rawPass (d : Dev) (t : Tile) (tn : Tensor) (p : TilePos) (isB : Bool) (pass : Nat) : List (List RawBlock) × Dev :=
  let x := tn.x
  (List.range (if isB then t.cols else t.rows)).foldl (fun (acc : List (List RawBlock) × Dev) i =>
    let (p0, prow) := if isB then (p.p0, p.s * x.tn + i) else tn.rowAt p i
    let (b, d) := acc.2.fetchRow (.cmd t.cmd) t.c t.arr (tn.opSrc p isB) (p0, p.p1, p.p2)
      (if isB then p.s * x.tn + i else p.r * x.tm + i) prow (p.ch * x.kch + 256 * pass) (t.passLen pass)
    (acc.1 ++ [b], d)) ([], d)

/-- The same as the tile reads it: from its channel, which reads each pass from the source once, or directly, which the
channel of a member counts (R119 to R121). -/
def Dev.takePass (d : Dev) (t : Tile) (tn : Tensor) (p : TilePos) (isB : Bool) (pass : Nat) : List (List RawBlock) × Dev :=
  match t.member with
  | none => d.rawPass t tn p isB pass
  | some ch =>
    if d.mcSource t isB pass = some true then
      match d.mc[ch].buf.find? (·.pass = pass) with
      | some b => (b.rows, d)
      | none =>
        let (rows, d) := d.rawPass t tn p isB pass
        (rows, d.modMc ch fun m => { m with buf := m.buf ++ [{ pass := pass, rows := rows }] })
    else
      let d := if tn.x.mcB == isB then d.modMc ch fun m => { m with direct := satInc m.direct } else d
      d.rawPass t tn p isB pass

/-- The issue format of an operand of a tile. -/
def Tile.issueFmt (t : Tile) (x : LdtE) (isB : Bool) : Nat := stepFmt (if isB then x.fb else x.fa) t.step

/-- One pass of an operand at the issue format, with what the load path reports (R84). -/
def Dev.matrixOp (d : Dev) (t : Tile) (tn : Tensor) (p : TilePos) (isB : Bool) (pass : Nat) : List (List Num) × LoadRep × Dev :=
  let (raw, d) := d.takePass t tn p isB pass
  let ops := raw.map (rowToOp (tn.opSrc p isB) (t.issueFmt tn.x isB) (t.passLen pass))
  (ops.map (·.vals), ops.foldl (fun r b => r.append b.rep) {}, d)

/-- The key block and product of the pass of a span tile that number `i` names: 0 is Q·Kᵀ, 1 and 2 the halves of P·V. -/
def Attn.passAt (a : Attn) (p : SpanPos) (i : Nat) : Nat × Nat :=
  ((a.runBlocks p).getD (i / a.x.blockPasses) 0, i % a.x.blockPasses)

/-- The injected fault: 2^-120 in one accumulator during the first pass (R124). -/
def Tile.inject (t : Tile) : Tile :=
  match t.injectAt with
  | some (r, c) => { t with injected := true, injectAt := none, acc := t.acc.modify r fun row => row.modify c fun x => { x with a := x.a + 1 } }
  | none => t

/-- Note what the load path reports. -/
def Tile.report (t : Tile) (r : LoadRep) : Tile :=
  { t with
    ldTrouble := t.ldTrouble || r.trouble, ldNan := t.ldNan || r.nan, ldSat := t.ldSat || r.sat
    ldFlushes := t.ldFlushes + r.flushes, requant := t.requant + r.blocks
    readUnrep := t.readUnrep || r.unrep, folded := t.folded || r.folded }

/-- The columns of pass `pass` of a tile, with what the load path reports (R99, R232). -/
def Dev.passCols (d : Dev) (t : Tile) (pass : Nat) : List (List Num) × LoadRep × Dev :=
  match t.work with
  | .matrix p =>
    match d.tensor? t.cmd with
    | some tn => d.matrixOp t tn p true pass
    | none => ([], {}, d)
  | .span p =>
    match d.spanCtx t p with
    | some k =>
      let (b, sub) := k.a.passAt p pass
      if sub = 0 then d.kCols k b else d.vCols k b (sub - 1)
    | none => ([], {}, d)

/-- The load path writes pass `pass` of an array's tile into the second buffer of its cells and check cells (R101). -/
def Dev.loadSecond (d : Dev) (a : ArrId) (t : Tile) (pass : Nat) : Dev :=
  let (cols, r, d) := d.passCols t pass
  (d.modTile t.uid (·.report r)).modArr a fun (x : Arr) => { x with second := cellsOf t.uid pass cols }

/-- The buffers of an array swap (R101). -/
def Arr.swap (x : Arr) : Arr := { x with cells := x.second, second := {} }

/-- The rows of A of a tile's next pass, with what the load path reports. -/
def Dev.passRows (d : Dev) (t : Tile) : ARows × LoadRep × Dev :=
  match t.work with
  | .matrix p =>
    match d.tensor? t.cmd with
    | some tn => let (v, r, d) := d.matrixOp t tn p false t.passes; (v.map (·.map some), r, d)
    | none => ([], {}, d)
  | .span p =>
    match d.spanCtx t p with
    | some k =>
      let (b, sub) := k.a.passAt p t.passes
      if sub = 0 then d.qRows k t.rows else (k.pRows b t.probs, {}, d)
    | none => ([], {}, d)

/-- The rows of a pass enter the cells of an array: what it computes and reports. Each product of a span tile starts at
zero (R232). -/
def Dev.streamPass (d : Dev) (a : ArrId) (t : Tile) : Dev :=
  let x := d.arr[a].cells
  let fresh : Bool := match t.work with | .span _ => true | .matrix _ => false
  let (rows, r, d) := d.passRows t
  let acc := if fresh then List.replicate t.rows (List.replicate x.cols.length {}) else t.acc
  let (acc, chk) := runPass x rows acc (if fresh then List.replicate t.rows 0 else t.chk)
  let d := if t.injectAt.isSome then { d with inject := none } else d
  d.modTile t.uid fun y => Tile.inject { y.report r with
    acc := acc, chk := chk, passes := t.passes + 1, clamped := t.clamped || acc.any fun r => r.any (·.clamped)
    released := if fresh then 0 else t.released }

/-- The tile on whose rows the array's collector still waits (R105): an earlier tile of the array not wholly released. -/
def Dev.collectorBusy (d : Dev) (t : Tile) : Bool :=
  d.tiles.any fun u => u.uid ≠ t.uid && u.arr = t.arr && u.phase = .placed && u.freed && decide (u.released < u.rows) &&
    decide (0 < d.passCount u)

/-- The operands of a tile's next pass can enter: B stands in the second buffer or can be read, and so can A (R119). -/
def Dev.passReady (d : Dev) (t : Tile) : Bool :=
  (d.secondHolds t || (d.mcSource t true t.passes).isSome) && (d.mcSource t false t.passes).isSome

/-- The next B pass of an array's tile is read while the current one computes (R101). -/
def Dev.prefetch (d : Dev) (a : ArrId) (uid : Nat) : Dev :=
  match d.tile? uid with
  | some t =>
    if t.passes < d.passCount t ∧ (d.mcSource t true t.passes).isSome then (d.loadSecond a t t.passes).joinGroup uid else d
  | none => d

/-- B_PASS_LOADED (R99, R101, R119): the next pass of the array's tile is complete in the second buffer, the buffers swap, its
rows enter, and the pass after it is read. The row-unit table is read with the first (R200). -/
def Dev.loadPass (d : Dev) (a : ArrId) (parity : Bool) : Dev :=
  match d.arr[a].tile.bind d.tile? with
  | none => d
  | some t =>
    if d.passCount t ≤ t.passes ∨ d.collectorBusy t ∨ (t.isSpan ∧ 0 < t.passes ∧ t.released < t.rows) then d
    else
      let d := d.joinGroup t.uid
      if !d.passReady t then d
      else
        let d := if parity then d.modTile t.uid fun y => { y with parity := true } else d
        let d := match t.work, d.tensor? t.cmd with
          | .matrix p, some tn => if t.epiRead then d else d.readEpi t tn p
          | _, _ => d
        let d := if d.secondHolds t then d else d.loadSecond a t t.passes
        let d := d.modArr a Arr.swap
        ((d.streamPass a ((d.tile? t.uid).getD t)).prefetch a t.uid)

/-- ARRAY_FREE (R104): the last A row of the running tile has entered; the array takes another. -/
def Dev.arrayFree (d : Dev) (a : ArrId) : Dev :=
  match d.arr[a].tile.bind d.tile? with
  | none => d
  | some t =>
    if t.passes < d.passCount t then d
    else
      let d := ((d.modTile t.uid fun x => { x with freed := true }).unrun t).leaveGroup t.uid
      d.kickMoves.place

/-! ## Attempts that fail (R402 to R404) -/

/-- An attempt fails on some arrays; the tile becomes a retry. The first attempt of a tile that runs a second time keeps its
staging buffer until the two are compared (R112). -/
def Dev.failAttempt (d : Dev) (t : Tile) (arrs : List ArrId) : Dev :=
  let d := if t.injected then { d with injectDetected := satInc d.injectDetected } else d
  let d := (d.unrun t).leaveGroup t.uid
  let d := arrs.foldl (fun d a =>
    let d := if t.injected then d
      else (d.modArr a fun (x : Arr) => { x with mismatch := satInc x.mismatch }).countArr 0 a
    let d := d.event .fault 0x0300 (BitVec.ofNat 64 t.n) (BitVec.ofNat 32 a.val) t.injected
    if t.injected then d else d.arrayFailed a) d
  let failed := (t.failedOn ++ arrs).eraseDups
  let keep : Bool := match t.firstArr with | some f => !arrs.contains f | none => false
  let t' := { t with failedOn := failed, retry := true, retryNo := d.flt.retrySeq, faulty := true
                     firstRows := if keep then t.firstRows else [], firstArr := if keep then t.firstArr else none }
  let d := { d.modTile t.uid fun _ => t'.restart with flt := { d.flt with retrySeq := d.flt.retrySeq + 1 } }
  let d := d.count 8
  if 4 ≤ failed.length then d.fatalDue 1 (BitVec.ofNat 32 (t.n % 2 ^ 28 + 2 ^ 28 * t.c.val))
  else d.kickMoves.place

/-- The tile's two BF16 operands (R112). -/
def Dev.bf16Pair (d : Dev) (t : Tile) : Bool :=
  match t.work with
  | .matrix _ =>
    match d.tensor? t.cmd with
    | some tn => stepFmt tn.x.fa t.step = 5 && stepFmt tn.x.fb t.step = 5
    | none => false
  | .span p =>
    match d.attn? t.cmd with
    | some a => if (a.passAt p (t.passes - 1)).2 = 0 then a.x.fq = 5 && a.x.fk = 5 else a.x.fk = 5
    | none => false

/-- Elements of K that the row's check has summed. -/
def Dev.checkLen (d : Dev) (t : Tile) : Nat :=
  match t.work with
  | .matrix _ => t.kLen
  | .span p =>
    match d.spanCtx t p with
    | some k => let (b, sub) := k.a.passAt p (t.passes - 1)
                if sub = 0 then k.x.dim else (k.blockKeys b).length
    | none => 0

/-! ## Rows (R105, R109, R113, R213, R233, R234) -/

/-- The flaw of a hardware fault in a row's accumulators and check. -/
def flawed (f : RowFlaw) (accs : List Acc) (chk : Int) : List Acc × Int :=
  match f with
  | .wrongSum col delta => (accs.modify col fun x => { x with a := x.a + delta }, chk)
  | .checkColumn delta => (accs, chk + delta)
  | _ => (accs, chk)

/-- The staging buffer of the tile's array has room for it: fewer than two other tiles stage there, a first attempt that
awaits its second run among them (R109, R112). -/
def Dev.stagingRoom (d : Dev) (t : Tile) : Bool :=
  decide ((d.tiles.filter fun u => u.uid ≠ t.uid && ((u.phase = .placed && u.arr = t.arr && u.stagedRows != []) ||
    (u.firstRows != [] && u.firstArr = t.arr))).length < 2)

/-- What a released row of a span tile does to its running state (R233, R234). -/
def Dev.spanRow (d : Dev) (k : SpanCtx) (t : Tile) (row : Nat) (accs : List Acc) : Dev :=
  let (b, sub) := k.a.passAt k.p (t.passes - 1)
  let pf := (Fmt.ofCode (pFmt k.x.fk)).getD .bf16
  let st := (t.sm[row]?).getD none
  if sub = 0 then
    if !k.scalesOk then d.modTile t.uid fun x => { x with
      smNan := if k.anyKey b row then x.smNan.set row true else x.smNan, probs := x.probs.set row none }
    else
      let (sc, d) := d.scores k b row accs
      let (st', bad, p) := softRow pf st sc
      d.modTile t.uid fun x => { x with
        ldSat := x.ldSat || k.scoresSat b row accs
        sm := x.sm.set row st', smNan := if bad then x.smNan.set row true else x.smNan, probs := x.probs.set row p }
  else
    match (t.probs[row]?).getD none, st with
    | some _, some r =>
      let vs := accs.map fun a => a.value f32One k.vScale
      let ob := vs.map toF32
      d.modTile t.uid fun x => { x with
        ldSat := x.ldSat || vs.any overflowed, sm := x.sm.set row (some { r with o := addO r.o (sub - 1) ob }) }
    | _, _ => d

/-- Keep a released row: a matrix row goes to the row unit; of a span row the products are kept for R112. -/
def Tile.keepRow (t : Tile) (span : Bool) (row : Nat) (accs : List Acc) : Tile :=
  if span ∧ t.stagedRows.any (·.row = row) then
    { t with stagedRows := t.stagedRows.map fun r => if r.row = row then { r with accs := r.accs ++ accs } else r }
  else { t with stagedRows := t.stagedRows ++ [({ row := row, accs := accs, staged := span } : StagedRow)] }

/-- Every row has been released after the last pass, and staged. -/
def Dev.allStaged (d : Dev) (t : Tile) : Bool :=
  decide (d.passCount t ≤ t.passes) && (decide (t.rows ≤ t.released) || (match t.work with
    | .span _ => decide (d.passCount t = 0)
    | .matrix _ => false)) && t.stagedRows.all (·.staged)

/-- A tile with a clamped product runs a second time when its first attempt is wholly staged (R112). -/
def Dev.secondRun (d : Dev) (uid : Nat) : Dev :=
  match d.tile? uid with
  | none => d
  | some t =>
    if d.allStaged t ∧ t.clamped ∧ t.firstArr.isNone then
      let t' := { t with firstRows := t.stagedRows, firstArr := t.arr, retry := true, retryNo := d.flt.retrySeq }
      let keep := { t'.restart with injected := t.injected }
      ({ (d.unrun t).leaveGroup uid with flt := { d.flt with retrySeq := d.flt.retrySeq + 1 } }.modTile uid
        fun _ => keep).place
    else d

/-- ROW_RELEASE (R105, R107, R111 to R113): a row is checked and goes to the row unit; its accumulators are zero again. -/
def Dev.releaseRow (d : Dev) (uid row : Nat) (flaw : RowFlaw) : Dev :=
  match d.tile? uid with
  | none => d
  | some t =>
    let span : Bool := match t.work with | .span _ => true | .matrix _ => false
    let ready := t.phase = .placed ∧ row = t.released ∧ row < t.rows ∧
      (if span then 0 < t.passes else d.passCount t ≤ t.passes)
    if !decide ready ∨ !d.stagingRoom t then d
    else
      match t.arr with
      | none => d
      | some a =>
        let (accs, chk) := flawed flaw (t.acc.getD row []) (t.chk.getD row 0)
        let bad := t.parity || flaw = RowFlaw.specialState ||
          (!t.clamped && !rowPasses (d.bf16Pair t) (d.checkLen t) accs chk)
        if bad then d.failAttempt t [a]
        else
          let d := d.modTile uid fun x =>
            ({ x with released := row + 1, acc := x.acc.set row (accs.map fun _ => {}), chk := x.chk.set row 0 }).keepRow
              span row accs
          match t.work with
          | .span p =>
            match d.spanCtx t p with
            | some k => (d.spanRow k t row accs).secondRun uid
            | none => d
          | .matrix p =>
            -- The whole entry is read as the first row reaches the row unit (R188).
            match d.tensor? t.cmd with
            | some tn => if row = 0 then d.needEpi t tn p else d
            | none => d

/-- ROW_STAGED (R106, R213): the row unit has finished a row, or its two copies differ. -/
def Dev.stageRow (d : Dev) (uid row : Nat) (compareFailure : Bool) : Dev :=
  match d.tile? uid with
  | none => d
  | some t =>
    match t.stagedRows.find? fun r => !r.staged || (compareFailure && t.isSpan && r.row = row), t.work, t.arr with
    | some _, .span _, some a => if compareFailure ∧ t.phase = .placed then d.failAttempt t [a] else d
    | some r, .matrix p, some a =>
      if r.row ≠ row ∨ t.phase ≠ .placed then d
      else if compareFailure then d.failAttempt t [a]
      else
        match d.tensor? t.cmd with
        | none => d
        | some tn =>
          let (r', d) := d.finishRow t tn p r
          (d.modTile uid fun x => { x with stagedRows := x.stagedRows.map fun y => if y.row = row then r' else y }).secondRun
            uid
    | _, _, _ => d

/-- BF16_COMPARE (R112, R403): the two attempts agree in every accumulator, or both arrays have failed. -/
def Dev.bf16Compare (d : Dev) (uid : Nat) : Dev :=
  match d.tile? uid with
  | none => d
  | some t =>
    match t.firstArr, t.arr with
    | some f, some a =>
      if t.phase ≠ .placed ∨ t.agreed ∨ !d.allStaged t then d
      else if t.stagedRows.map (fun r => (r.row, r.accs)) = t.firstRows.map (fun r => (r.row, r.accs)) then
        d.modTile uid fun x => { x with agreed := true }
      else d.failAttempt t [f, a]
    | _, _ => d

/-! ## The end of a tile's work -/

/-- The status of a command whose tiles are done: cut short, with a tile unrepaired, or OK (R44, R90). -/
def tensorStatus (cut : Bool) (fl : BitVec 4) : BitVec 8 :=
  if cut then stArrays else if fl &&& flUnrep ≠ 0 then stDegraded else stOk

/-- A tensor command whose tiles all have their final values completes; one that was cut short when no tile is left. -/
def Dev.settleTensor (d : Dev) (id : Nat) : Dev :=
  match d.tensor? id, d.cmd? id with
  | some tn, some x =>
    if tn.total ≤ tn.fin.length ∨ (tn.cut ∧ !d.tiles.any fun t => t.cmd = id) then
      let short := tn.cut && decide (tn.fin.length < tn.total)
      let d := { d with tensors := d.tensors.filter fun t => t.cmd ≠ id }
      (d.endCmd id (tensorStatus short x.flags) x.flags).settleColls
    else d
  | _, _ => d

/-- A tile has its final values (R86): they are released to a collective that takes the output tile by tile (R296), and
the tile counts toward its command. -/
def Dev.finalTile (d : Dev) (t : Tile) (p : TilePos) : Dev :=
  let d := d.mapTensor t.cmd t.c fun x => { x with fin := x.fin ++ [p] }
  let d := if t.faulty then d.recovered else d
  let d := d.modCmd t.cmd fun x => { x with flags := x.flags ||| t.flags }
  let d := { d with tiles := d.tiles.filter fun u => u.uid ≠ t.uid }
  (d.leaveGroup t.uid).settleTensor t.cmd

/-- A tile is finished unrepaired (R90): its map byte is marked and it is counted. -/
def Dev.unrepaired (d : Dev) (t : Tile) (p : TilePos) (mapToo : Bool) : Dev :=
  let d := match mapToo, d.tensor? t.cmd with | true, some tn => d.writeMap t tn p true | _, _ => d
  let d := (d.modRph t.c fun r => { r with unrep := satInc r.unrep }).countCtx 4 t.c
  d.finalTile { t with flags := t.flags ||| flUnrep } p

/-- Count a troubled tile of a layer in the Period of its work (R91). -/
def Rph.troubled (r : Rph) (layer period : Nat) : Rph :=
  match r.counts.find? fun x => x.1 = layer && x.2.1 = period with
  | some _ => { r with counts := r.counts.map fun x => if x.1 = layer ∧ x.2.1 = period then (layer, period, x.2.2 + 1) else x }
  | none => { r with counts := r.counts ++ [(layer, period, 1)] }

/-- Commit of a matrix tile (R83, R96, R106, R117). -/
def Dev.commitMatrix (d : Dev) (t : Tile) (tn : Tensor) (p : TilePos) : Dev :=
  let d := t.stagedRows.foldl (fun d r => d.writeRow t tn p r) d
  let unrep := t.readUnrep || t.folded
  let d := d.writeMap t tn p unrep
  let d := d.count 6 (t.stagedRows.foldl (fun n r => n + r.flushes) t.ldFlushes)
  let sat := t.ldSat || t.clamped || t.stagedRows.any (·.sat)
  let nan := t.ldNan || t.stagedRows.any (·.nan)
  let fl : BitVec 4 := (if sat then flSat else 0) ||| (if nan then flNan else 0) ||| (if unrep then flUnrep else 0)
  let trouble := t.ldTrouble || t.stagedRows.any (·.trouble)
  let t := { t with flags := fl, infOnly := !t.ldTrouble && !t.stagedRows.any (·.other) }
  let d := if trouble && t.step = 0 then d.modRph t.c fun r => r.troubled t.layer t.period else d
  if t.folded then d.unrepaired t p false
  else if trouble then d.modTile t.uid fun _ => { t with phase := .troubled, stagedRows := [], firstRows := [] }
  else d.finalTile t p

/-- Bytes that the merge store of a context holds at most (Table 10-1). -/
def mergeStore : Nat := 2097152

/-- Commit of a span tile: its states go to the merge store (R234). Where the store has no room they wait, but for the
span that is merged next. -/
def Dev.commitSpan (d : Dev) (t : Tile) (p : SpanPos) : Dev :=
  match d.attn? t.cmd with
  | none => d
  | some a =>
    let m : Merge := (a.merges.find? fun m => m.entry = p.entry && m.g = p.g && m.chunk = p.chunk).getD
      { entry := p.entry, g := p.g, chunk := p.chunk, next := List.replicate t.rows 0, rows := List.replicate t.rows none
        nan := List.replicate t.rows false }
    let isNext := m.next.all (· = p.span)
    let bytes := ({ m with waiting := [(p.span, t.sm, t.smNan)], rows := [] } : Merge).bytes
    if !isNext ∧ mergeStore < d.mergeBytes t.c + bytes then d
    else
      let m := { m with waiting := m.waiting ++ [(p.span, t.sm, t.smNan)] }
      let d := d.modAttn t.cmd fun a => { a with
        merges := (a.merges.filter fun y => !(y.entry = p.entry && y.g = p.g && y.chunk = p.chunk)) ++ [m] }
      let fl : BitVec 4 := (if t.ldSat || t.requant ≠ 0 || t.ldFlushes ≠ 0 || t.clamped then flSat else 0) |||
        (if t.ldNan then flNan else 0)
      let d := d.modAttn t.cmd fun a => { a with
        entries := a.entries.modify p.entry fun y => { y with flags := y.flags ||| fl } }
      let d := (d.count 7 t.requant).count 6 t.ldFlushes
      let d := if t.faulty then d.recovered else d
      { d with tiles := d.tiles.filter fun u => u.uid ≠ t.uid }

/-! ## Deferred pages (R218, R224) -/

/-- The bit of a page in its pool's free bitmap: 1 while the page is free. -/
def Dev.setPageBit (d : Dev) (who : Actor) (c : CtxId) (pool : Bool) (page : Nat) (isFree : Bool) : Dev :=
  let i := page / 8
  let (bs, d) := d.loadPage who c pool (i / 65536) (i % 65536) 1
  let b := (bs.headD (0, false)).1
  let b := if isFree then b ||| BitVec.ofNat 8 (2 ^ (page % 8)) else b &&& ~~~(BitVec.ofNat 8 (2 ^ (page % 8)))
  d.storePage who c pool (i / 65536) (i % 65536) [b]

def Dev.modPool (d : Dev) (c : CtxId) (pool : Bool) (f : Pool → Pool) : Dev :=
  d.modAtt c fun a => if pool then { a with pool1 := f a.pool1 } else { a with pool0 := f a.pool0 }

/-- A page returns to the free bitmap. -/
def Dev.freePage (d : Dev) (who : Actor) (c : CtxId) (pool : Bool) (page : Nat) : Dev :=
  (d.setPageBit who c pool page true).modPool c pool fun p => { p with free := p.free + 1 }

/-- A step holds an older generation of the page's sequence. -/
def Dev.heldOlder (d : Dev) (c : CtxId) (f : Deferred) : Bool :=
  d.attns.any fun a => (d.cmd? a.cmd).any (·.c = c) && a.header = f.header &&
    a.snaps.any fun s => s.slot = f.slot && decide (1 ≤ (f.gen + 16 - s.gen) % 16 ∧ (f.gen + 16 - s.gen) % 16 ≤ 8)

/-- Deferred pages that no step holds any longer return (R224). -/
def Dev.returnPages (d : Dev) (who : Actor) (c : CtxId) : Dev :=
  let go := d.ctx[c].att.deferred.filter fun f => !d.heldOlder c f
  let d := d.modAtt c fun a => { a with deferred := a.deferred.filter fun f => !go.contains f }
  go.foldl (fun d f => d.freePage who c f.pool f.page) d

/-! ## The end of an attention command (R224, R230, R231) -/

/-- The status of an attention command (R231). -/
def attnStatus (es : List StepEntry) : BitVec 8 :=
  match es.find? fun y => y.status ≠ stOk && y.status ≠ stEmpty with
  | some y => y.status
  | none => stOk

/-- Every row of a sequence that was refused while the step ran is NaN, those written before too (R226). -/
def Dev.writeRefused (d : Dev) (a : Attn) (c : CtxId) : Dev :=
  a.rowGroups.foldl (fun d x => match a.entries[x.1]? with
    | some y =>
      if y.refused && y.late then
        (List.range x.2.2).foldl (fun d r =>
          (d.writeO (.cmd a.cmd) c a y ((a.headsOf x.2.1).1 + r / y.nq) (r % y.nq) true none).2) d
      else d
    | none => d) d

/-- It completes when every row has been written, or, cut short, when no tile of it is left (R44): it writes the outcome
of each entry and retires. -/
def Dev.settleAttn (d : Dev) (id : Nat) : Dev :=
  match d.attn? id, d.cmd? id with
  | some a, some x =>
    let all := decide (a.totalRows ≤ a.done)
    let gone := a.cut && !d.tiles.any (fun t => t.cmd = id) && a.merges.all (fun m => m.waiting.all fun w =>
      !m.next.contains w.1)
    if !all && !gone then d
    else
      let es := if all then a.entries else a.entries.map fun y => if y.status = stOk then { y with status := stArrays } else y
      let d := es.zipIdx.foldl (fun d (y, i) =>
        d.storeAddr (.cmd id) (a.stepList + 32 * i + 26) [y.status, y.flags.setWidth 8]) d
      let d := d.writeRefused a x.c
      let d := { d with attns := d.attns.filter fun b => b.cmd ≠ id }
      let d := d.returnPages (.cmd id) x.c
      d.endCmd id (attnStatus es) (es.foldl (fun f y => f ||| y.flags) 0)
  | _, _ => d

/-- Write a row whose last span has been merged (R235 to R237). -/
def Dev.finishSpanRow (d : Dev) (a : Attn) (c : CtxId) (entry g row : Nat) (nan : Bool) (st : Option SmRow) : Dev :=
  match a.entries[entry]? with
  | none => d
  | some y =>
    let (h, i) := ((a.headsOf g).1 + row / y.nq, row % y.nq)
    let (r, d) := d.writeO (.cmd a.cmd) c a y h i nan st
    let empty := !nan && st.isNone
    let fl : BitVec 4 := (if r.sat then flSat else 0) ||| (if r.nan then flNan else 0) ||| (if empty then flEmptyRow else 0)
    let d := d.count 6 r.flushes
    let d := if empty then (d.modAtt c fun t => { t with emptyRows := satInc t.emptyRows }).countCtx 12 c else d
    d.modAttn a.cmd fun a => { a with
      done := a.done + 1, entries := a.entries.modify entry fun y => { y with flags := y.flags ||| fl } }

/-- SPAN_MERGE (R234): the next span of one row, by its place among the command's rows, is merged in ascending order. -/
def Dev.spanMerge (d : Dev) (id row : Nat) : Dev :=
  match d.attn? id, d.cmd? id with
  | some a, some x =>
    match rowPlace a.rowGroups row with
    | none => d
    | some (e, g, r) =>
      let i := r % 256
      match a.merges.find? fun m => m.entry = e && m.g = g && m.chunk = r / 256, a.entries[e]? with
      | some m, some y =>
        let nx := m.next.getD i 0
        match m.waiting.find? fun w => w.1 = nx with
        | none => d
        | some w =>
          let st := mergeSm ((m.rows[i]?).getD none) ((w.2.1[i]?).getD none)
          let nan := m.nan.getD i false || w.2.2.getD i false
          let m' : Merge := { m with
            rows := m.rows.set i st, nan := m.nan.set i nan, next := m.next.set i (nx + 1) }
          let last := decide (a.spansOf y ≤ nx + 1)
          let m' := if last then { m' with rows := m'.rows.set i none } else m'
          let m' := { m' with waiting := m'.waiting.filter fun w => m'.next.any fun n => decide (n ≤ w.1) }
          let d := d.modAttn id fun a => { a with merges := a.merges.map fun z =>
            if z.entry = e ∧ z.g = g ∧ z.chunk = r / 256 then m' else z }
          if last then (d.finishSpanRow a x.c e g r nan st).settleAttn id else d
      | _, _ => d
  | _, _ => d

/-! ## Commit (R106) -/

/-- TILE_COMMIT: all four conditions hold. An attempt whose Clause processor has failed is discarded and awaits to be expanded
again (R147, R403). Where outputs and operands of one command overlap, a tile reads what stands in memory as the commands of
the queue have left it (DESIGN CHOICE, log entry 93). -/
def Dev.commit (d : Dev) (uid : Nat) : Dev :=
  match d.tile? uid with
  | none => d
  | some t =>
    if t.phase ≠ .placed ∨ !d.allStaged t ∨ ((t.clamped ∨ t.firstArr.isSome) ∧ !t.agreed) then d
    else if t.cpFailed then
      let t' := { ({ t with retry := false, firstRows := [], firstArr := none } : Tile).restart with phase := .lost }
      (((d.unrun t).leaveGroup uid).modTile uid fun _ => t').place
    else
      match t.work with
      | .matrix p =>
        match d.tensor? t.cmd with
        | some tn => (d.commitMatrix t tn p).place
        | none => d
      | .span p => ((d.commitSpan t p).settleAttn t.cmd).place

/-! ## Rephrase (R78 to R90) -/

/-- The step that a troubled tile goes to (R78, R79). -/
def Tile.nextStep (t : Tile) : Nat := if t.infOnly then 2 else t.step + 1

/-- REPHRASE_DECISION: the lowest-numbered troubled tile of the context, once every lower tile of its Period's work has its
final attempt, and ahead of any tile of later Period work (R86, R88). A budget of 0 grants nothing (R89). With the quota at 0
nothing is granted: the tile is finished unrepaired at no charge (R44; DESIGN CHOICE, log entry 92). -/
def Dev.rephrase (d : Dev) (c : CtxId) : Dev :=
  match lowestTile (d.tiles.filter fun t => t.c = c && t.phase = .troubled) with
  | none => d
  | some t =>
    if d.tiles.any fun u => u.c = c && decide (u.period < t.period ∨ (u.period = t.period ∧ u.n < t.n)) then d
    else
      match t.work, d.tensor? t.cmd with
      | .matrix p, some tn =>
        let x := tn.x
        let s := t.nextStep
        let moves (f : Nat) : Bool := stepFmt f s ≠ stepFmt f t.step
        let charge := x.issueTime t.rows t.cols t.kLen s true
        let r := d.ctx[c].rph
        if 2 < s ∨ !(moves x.fa || moves x.fb || moves x.fc) ∨ (stepFmt x.fc s ≠ x.fc ∧ !x.xc.hasWide) ∨ d.ctx[c].g.quota = 0 then
          (d.unrepaired t p true).place
        else if r.exhausted ∨ r.remain.toNat < charge ∨ d.lexVal (0x2210 + c.val) 1 = 0 then
          let d := if r.exhausted then d
            else
              let q := match d.cmd? t.cmd with | some y => y.q | none => 0
              ((d.modRph c fun r => { r with exhausted := true }).event (.queue c q) 0x0004 0 (BitVec.ofNat 32 t.n)).countCtx 5 c
          (d.unrepaired t p true).place
        else
          let d := (d.modRph c fun r => { r with
            remain := r.remain - BitVec.ofNat 32 charge
            step1 := if s = 1 then satInc r.step1 else r.step1, step2 := if s = 2 then satInc r.step2 else r.step2 }).countCtx
              (if s = 1 then 2 else 3) c
          let t' := { ({ t with step := s, retry := false, firstArr := none } : Tile).restart with
            cpFailed := d.ctx[c].cp.failed }
          (d.modTile t.uid fun _ => t').place
      | _, _ => d

/-! ## Quota 0 (R44) -/

/-- A context whose quota has gone to 0 places no further tile: its tiles not yet placed are dropped, and a command with
none left ends. -/
def Dev.cutWork (d : Dev) (c : CtxId) : Dev :=
  if d.ctx[c].g.quota ≠ 0 ∨ !d.ctx[c].resident then d
  else
    let ids := (d.cmds.filter fun x => x.c = c && x.phase = .running).map (·.id)
    let d := { d with
      tensors := d.tensors.map fun (t : Tensor) => if ids.contains t.cmd then { t with cut := true } else t
      attns := d.attns.map fun (a : Attn) => if ids.contains a.cmd then { a with cut := true } else a
      tiles := d.tiles.filter fun (t : Tile) => !(ids.contains t.cmd && (t.phase = TilePhase.held || t.phase = TilePhase.lost) && !t.retry) }
    ids.foldl (fun d id => (d.settleTensor id).settleAttn id) d

/-! ## COMMAND_READY (R163, R164, R287) -/

/-- Every wait of a command has reached its target: on a poisoned counter it is not run; one that ended at issue
completes; a tensor or attention command runs; a collective announces; any other command may be run by its own row. -/
def Dev.ready (d : Dev) (id : Nat) : Dev :=
  match d.cmd? id with
  | none => d
  | some x =>
    if x.phase ≠ .waiting ∨ !d.waitsMet x then d
    else if isCollKind x.kind then
      (d.modCmd id fun y => { y with phase := .ready }).announce { x with phase := .ready }
    else if d.waitPoisoned x then
      let d := (((d.releaseQueue x).dropWork [id]).endCmd id stDepFailed).boundMoves x
      -- Generations that an attention command held are released (R224).
      if x.kind = 0x41 then d.returnPages .unit x.c else d
    else
      match x.status with
      | some st => (d.endCmd id st).boundMoves x
      | none =>
        if x.kind = 0x40 ∨ x.kind = 0x41 then
          let d := d.modCmd id fun y => { y with phase := .running }
          let d := if d.ctx[x.c].g.quota = 0 then d.cutWork x.c else d
          (((d.settleTensor id).settleAttn id).place).boundMoves x
        else d.modCmd id fun y => { y with phase := .ready }

/-! ## Commands -/

/-- COMMAND_READY (R163). -/
def execCommandReady (id : Nat) (s : State) : Host.Outcome State Fault Refusal :=
  s.run fun d => d.inService fun d => d.ready id

/-- TILE_EXPAND (R141). -/
def execTileExpand (c : CtxId) (s : State) : Host.Outcome State Fault Refusal :=
  s.run fun d => d.inService fun d => d.expand c

/-- ARRAY_FREE (R104). -/
def execArrayFree (a : ArrId) (s : State) : Host.Outcome State Fault Refusal :=
  s.run fun d => d.inService fun d => d.arrayFree a

/-- B_PASS_LOADED (R101). -/
def execBPassLoaded (a : ArrId) (parity : Bool) (s : State) : Host.Outcome State Fault Refusal :=
  s.run fun d => d.inService fun d => d.loadPass a parity

/-- MULTICAST_ADVANCE (R119). -/
def execMulticastAdvance (ch : Fin 8) (s : State) : Host.Outcome State Fault Refusal :=
  s.run fun d => d.inService fun d => d.mcAdvance ch

/-- ROW_RELEASE (R105); four arrays that have failed one tile are fatal (R404). -/
def execRowRelease (tile row : Nat) (flaw : RowFlaw) (s : State) : Host.Outcome State Fault Refusal :=
  s.runFatal fun d => d.inService fun d => d.releaseRow tile row flaw

/-- ROW_STAGED (R213). -/
def execRowStaged (tile row : Nat) (compareFailure : Bool) (s : State) : Host.Outcome State Fault Refusal :=
  s.runFatal fun d => d.inService fun d => d.stageRow tile row compareFailure

/-- BF16_COMPARE (R112). -/
def execBf16Compare (tile : Nat) (s : State) : Host.Outcome State Fault Refusal :=
  s.runFatal fun d => d.inService fun d => d.bf16Compare tile

/-- TILE_COMMIT (R106). -/
def execTileCommit (tile : Nat) (s : State) : Host.Outcome State Fault Refusal :=
  s.run fun d => d.inService fun d => d.commit tile

/-- REPHRASE_DECISION (R86). -/
def execRephraseDecision (c : CtxId) (s : State) : Host.Outcome State Fault Refusal :=
  s.run fun d => d.inService fun d => d.rephrase c

/-- SPAN_MERGE (R234). -/
def execSpanMerge (cmd row : Nat) (s : State) : Host.Outcome State Fault Refusal :=
  s.run fun d => d.inService fun d => d.spanMerge cmd row

end Sys2Proof.Machine
end

