-- ==== Sys2Proof/Machine/Batch.lean ====
section
/-!
DEFINITION. Machine/Batch.lean: page pools and their free bitmaps (R218, R219), SCATTER (R242, R243) and BATCH, the step
boundary of a batch (R220 to R225, R244 to R246).
-/
namespace Sys2Proof.Machine

/-! ## The free bitmap (R218, R219) -/

/-- The bytes of a new free bitmap: the pages that hold the bitmap are never free. -/
def Pool.bitmap (p : Pool) : List Byte :=
  (List.range (cdiv p.pages 8)).map fun i =>
    BitVec.ofNat 8 ((List.range 8).foldl (fun v b =>
      v + if p.bitmapPages ≤ 8 * i + b ∧ 8 * i + b < p.pages then 2 ^ b else 0) 0)

/-- Write bytes from the start of page 0 of a pool over its pages. -/
def Dev.storePages (d : Dev) (who : Actor) (c : CtxId) (pool : Bool) : Nat → Nat → List Byte → Dev
  | 0, _, _ => d
  | fuel + 1, page, bs =>
    if bs = [] then d
    else (d.storePage who c pool page 0 (bs.take 65536)).storePages who c pool fuel (page + 1) (bs.drop 65536)

/-- The writing of a pool's bitmap ends. -/
def Dev.poolWritten (d : Dev) (c : CtxId) (pool : Bool) : Dev :=
  let p := d.ctx[c].poolOf pool
  if p.st = .initializing ∧ !p.written then
    (d.storePages .unit c pool (p.bitmapPages + 1) 0 p.bitmap).modPool c pool fun y =>
      { y with written := true, free := y.pages - y.bitmapPages }
  else d

/-- A page that may be allocated: a page of pool 1 only while its slot is below the number of arrays in service. -/
def Dev.allocatable (d : Dev) (pool : Bool) (page : Nat) : Bool := !pool || decide (page % 192 < d.flt.pool)

/-- The pages that may be allocated now, lowest first. -/
def Dev.freePages (d : Dev) (who : Actor) (c : CtxId) (pool : Bool) : List Nat × Dev :=
  let p := d.ctx[c].poolOf pool
  let r := (List.range (cdiv p.pages 8)).foldl (fun (acc : List (List Nat) × Dev) i =>
    let (bs, d) := acc.2.loadPage who c pool (i / 65536) (i % 65536) 1
    let (b, d) := match bs.headD (0, false) with
      | (_, true) => d.draw 8
      | (b, false) => (b, d)
    let here := (List.range 8).filter fun k =>
      b.getLsbD k && decide (p.bitmapPages ≤ 8 * i + k ∧ 8 * i + k < p.pages) && d.allocatable pool (8 * i + k)
    (here.map (8 * i + ·) :: acc.1, d)) ([], d)
  (r.1.reverse.flatten, r.2)

/-! ## SCATTER (R242) -/

/-- Bytes of a tensor of a direct command: SPACE 2 names no array, and it and poison read as free values (assumption
log 21). -/
def Dev.openSpace (d : Dev) (who : Actor) (c : CtxId) (space a n : Nat) : List Byte × Dev :=
  let (bs, d) := if space = 2 then (List.replicate n ((0, true) : RByte), d) else d.loadSpace who c none space (a % 2 ^ 52) n
  bs.foldl (fun (acc : List Byte × Dev) b =>
    if b.2 then let (v, d) := acc.2.draw 8; (acc.1 ++ [v], d) else (acc.1 ++ [b.1], acc.2)) ([], d)

/-- Some step holds an older generation of the sequence in slot `s` of a batch (R225). -/
def Dev.olderHeld (d : Dev) (c : CtxId) (header s gen : Nat) : Bool :=
  d.attns.any fun a => (d.cmd? a.cmd).any (·.c = c) && a.header = header &&
    a.snaps.any fun y => y.slot = s && decide ((gen + 16 - y.gen) % 16 ≠ 0)

/-- The status of a step-list entry for SCATTER. -/
def scatterStatus (x : AttnE) (h : BatchH) (q : SeqD) (slot f frow sc : Nat) : BitVec 8 :=
  if h.nslots ≤ slot then stExceeds
  else if q.state = 3 then stPages
  else if q.state ≠ 2 then stExceeds
  else if sc ≠ q.step ∨ sc % 32 ≠ 0 ∨ f < sc ∨ frow % 32 ≠ 0 ∨ q.pages * (32 * h.tpb) < q.len + sc then stExceeds
  else if x.k.tscale ≠ x.kscale ∨ x.vt.tscale ≠ x.vscale then stExceeds
  else stOk

/-- Copy a run of elements with their block exponents from a fresh tensor into a page. -/
def Dev.copyRun (d : Dev) (who : Actor) (c : CtxId) (t : TDesc) (f off n : Nat) (pool : Bool) (page eo so : Nat) : Dev :=
  let w := fmtWidth f
  let (bs, d) := d.openSpace who c t.space (t.base + off) (n * w / 8)
  let d := d.storePage who c pool page eo bs
  if fmtBlocked f then
    let (sc, d) := d.openSpace who c t.space (t.scale + off / (4 * w)) (n / 32)
    d.storePage who c pool page so sc
  else d

/-- Copy the fresh tokens of one entry for head `g` into the pages (R216, R242). -/
def Dev.scatterHead (d : Dev) (who : Actor) (c : CtxId) (x : AttnE) (h : BatchH) (q : SeqD) (frow sc g : Nat) : Dev :=
  let tpp := 32 * h.tpb
  let l := pageLayout x.fk x.dim tpp
  let w := fmtWidth x.fk
  (List.range (sc / 32)).foldl (fun d b =>
    let j := q.len + 32 * b
    let (pe, d) := d.pageEntry who q.table h.hkv q.pmax x.layer g (j / tpp)
    let d := (List.range 32).foldl (fun d i =>
      d.copyRun who c x.k x.fk (x.k.rowOff g 0 0 (frow + 32 * b + i)) x.dim pe.pool pe.page
        ((j + i) % tpp * x.dim * w / 8) (l.ks + (j + i) % tpp * x.dim / 32)) d
    (List.range x.dim).foldl (fun d dm =>
      d.copyRun who c x.vt x.fk (x.vt.rowOff g 0 0 dm + (frow + 32 * b) * w / 8) 32 pe.pool pe.page
        (l.ve + dm * tpp * w / 8 + j % tpp * w / 8) (l.vs + (dm * tpp + j % tpp) / 32)) d) d

/-- SCATTER: it waits while a step holds an older generation of one of its sequences. -/
def Dev.runScatter (d : Dev) (x : Cmd) : Dev :=
  let who := Actor.cmd x.id
  let e := x.entry
  let list := ent e 16 8 % 2 ^ 52
  let n := ent e 24 2
  let entry := d.ldtEntry x.c (ent e 26 1)
  let header := ent e 28 8 % 2 ^ 52
  if ldtType entry ≠ 2 then d.endCmd x.id stExceeds
  else
    let a := AttnE.of entry
    let (h, d) := d.batchHeader who header
    let r := (List.range n).foldl (fun (acc : List (StepEntry × Nat × SeqD) × Dev) i =>
      let (bs, d) := acc.2.readOpen who (list + 32 * i) 32
      let y := StepEntry.of bs
      let (q, d) := if h.nslots ≤ y.slot then (SeqD.of [], d) else d.seqDesc who header y.slot
      (acc.1 ++ [(y, natAt bs 24 2, q)], d)) ([], d)
    let d := r.2
    if r.1.any fun (y, _, q) => decide (y.slot < h.nslots) && d.olderHeld x.c header y.slot q.gen then d
    else
      let sts := r.1.map fun (y, sc, q) => scatterStatus a h q y.slot y.f y.frow sc
      let d := (r.1.zip sts).foldl (fun d (ysq, st) =>
        if st = stOk then
          (List.range h.hkv).foldl (fun d g => d.scatterHead who x.c a h ysq.2.2 ysq.1.frow ysq.2.1 g) d
        else d) d
      let d := sts.zipIdx.foldl (fun d (st, i) => d.storeAddr who (list + 32 * i + 28) [st]) d
      d.endCmd x.id ((sts.find? fun st => st ≠ stOk).getD stOk)

/-! ## BATCH (R244, R245) -/

/-- What a boundary works on: the sequences by slot, the pages it may grant, and what it has taken and freed. -/
structure Boundary where
  seqs : List SeqD
  avail : List Nat
  /-- Pages freed: slot and page. -/
  freed : List (Nat × Bool × Nat) := []
  /-- Page-table entries written: address and page. -/
  grants : List (Nat × Nat × Nat) := []
  blocked : Bool := false
  admitNext : Nat
  ignored : Nat := 0
  /-- Sequences that were RUNNING and are held. -/
  newly : Nat := 0
  /-- Sequences held and joins that wait at this boundary. -/
  heldNow : Nat := 0
  joinsWait : Nat := 0

def Boundary.seq (b : Boundary) (s : Nat) : SeqD := b.seqs.getD s (SeqD.of [])
def Boundary.put (b : Boundary) (s : Nat) (q : SeqD) : Boundary := { b with seqs := b.seqs.set s q }

/-- Step 1: close the step just run. -/
def Boundary.close (b : Boundary) : Boundary :=
  { b with seqs := b.seqs.map fun q => if q.state = 2 then { q with len := q.len + q.step, step := 0 } else { q with step := 0 } }

/-- The pages of table positions `lo` and up of a sequence. -/
def Dev.pagesFrom (d : Dev) (who : Actor) (h : BatchH) (q : SeqD) (lo : Nat) : List (Bool × Nat) × Dev :=
  (List.range h.layers).foldl (fun acc l => (List.range h.hkv).foldl (fun acc g =>
    (List.range (q.pages - lo)).foldl (fun (acc : List (Bool × Nat) × Dev) i =>
      let (pe, d) := acc.2.pageEntry who q.table h.hkv q.pmax l g (lo + i)
      (acc.1 ++ [(pe.pool, pe.page)], d)) acc) acc) ([], d)

/-- Step 2: leaves, then truncates; a request that does not fit the state is dropped and counted (R245). A truncate lowers
PAGES before step 3 grants, as R244 has it, so that a grant of the same boundary may rewrite entries that an older holder
still meets, which R226 then refuses (DESIGN CHOICE, log entry 96). -/
def Boundary.leaves (b : Boundary) (who : Actor) (h : BatchH) (d : Dev) : Boundary × Dev :=
  let leave := (List.range b.seqs.length).foldl (fun (acc : Boundary × Dev) s =>
    let q := acc.1.seq s
    if q.req ≠ 2 then acc
    else if q.state = 0 then ({ acc.1.put s { q with req := 0 } with ignored := acc.1.ignored + 1 }, acc.2)
    else
      let (ps, d) := acc.2.pagesFrom who h q 0
      ({ acc.1.put s { q with req := 0, state := 0, pages := 0, step := 0 } with
          freed := acc.1.freed ++ ps.map fun p => (s, p.1, p.2) }, d)) (b, d)
  (List.range b.seqs.length).foldl (fun (acc : Boundary × Dev) s =>
    let q := acc.1.seq s
    if q.req ≠ 3 then acc
    else if q.state ≠ 2 ∧ q.state ≠ 3 then ({ acc.1.put s { q with req := 0 } with ignored := acc.1.ignored + 1 }, acc.2)
    else if q.len ≤ q.trunc then (acc.1.put s { q with req := 0 }, acc.2)
    else
      let keep := cdiv q.trunc (32 * h.tpb)
      let (ps, d) := acc.2.pagesFrom who h q keep
      ({ acc.1.put s { q with req := 0, len := q.trunc, pages := min q.pages keep } with
          freed := acc.1.freed ++ ps.map fun p => (s, p.1, p.2) }, d)) leave

/-- Take `n` positions of every table of a sequence, in table order (R244). -/
def Boundary.allocate (b : Boundary) (h : BatchH) (s : Nat) (q : SeqD) (n : Nat) : Boundary :=
  let places := (List.range h.layers).flatMap fun l => (List.range h.hkv).flatMap fun g =>
    (List.range n).map fun i => pageEntryAddr q.table h.hkv q.pmax l g (q.pages + i)
  { b with grants := b.grants ++ (places.zip b.avail).map fun p => (s, p.1, p.2), avail := b.avail.drop places.length }

/-- Step 3 for one sequence. -/
def Boundary.grant (h : BatchH) (b : Boundary) (s : Nat) : Boundary :=
  let q := b.seq s
  let pages := cdiv (q.len + q.next) (32 * h.tpb)
  let need := h.layers * h.hkv * (pages - q.pages)
  if need = 0 then b.put s { q with state := 2, step := q.next, status := stOk.toNat }
  else if q.pmax < pages then b.put s { q with status := stExceeds.toNat }
  else if !b.blocked ∧ need ≤ b.avail.length then
    (b.allocate h s q (pages - q.pages)).put s { q with state := 2, step := q.next, status := stOk.toNat, pages := pages }
  else
    { b.put s { q with state := 3, status := stPages.toNat } with
      blocked := true, newly := b.newly + (if q.state = 2 then 1 else 0), heldNow := b.heldNow + 1 }

/-- Step 4 for one slot: a request to join, or a join that waits. -/
def Boundary.join (h : BatchH) (b : Boundary) (s : Nat) : Boundary :=
  let q := b.seq s
  let asks := q.req = 1 ∧ q.state = 0
  if q.req = 1 ∧ q.state ≠ 0 ∧ q.state ≠ 1 then { b.put s { q with req := 0 } with ignored := b.ignored + 1 }
  else if ¬asks ∧ q.state ≠ 1 then b
  else
    let extra := if q.req = 1 ∧ q.state = 1 then 1 else 0
    let pages := cdiv q.next (32 * h.tpb)
    let need := h.layers * h.hkv * pages
    if b.blocked ∨ b.avail.length < need ∨ q.pmax < pages then
      { b.put s { q with req := 0, state := 1 } with
        blocked := true, joinsWait := b.joinsWait + 1, ignored := b.ignored + extra }
    else
      let b := b.allocate h s { q with pages := 0 } pages
      { b.put s { q with req := 0, state := 2, len := 0, pages := pages, step := q.next, admNo := b.admitNext,
                         status := stOk.toNat } with
        admitNext := b.admitNext + 1, ignored := b.ignored + extra }

/-- Slots in step 3, by ascending admission number. -/
def insertAdmit (b : Boundary) (s : Nat) : List Nat → List Nat
  | [] => [s]
  | t :: l => if (b.seq s).admNo ≤ (b.seq t).admNo then s :: t :: l else t :: insertAdmit b s l
def Boundary.admitted (b : Boundary) : List Nat :=
  ((List.range b.seqs.length).filter fun s => (b.seq s).state = 2 || (b.seq s).state = 3).foldr (insertAdmit b) []

/-- A request that is no request of Table 10-5 is dropped and counted. -/
def Boundary.strays (b : Boundary) : Boundary :=
  { b with seqs := b.seqs.map fun q => if 3 < q.req then { q with req := 0 } else q
           ignored := b.ignored + (b.seqs.filter fun q => 3 < q.req).length }

/-- The boundary changes a sequence, so that it takes the next generation (R223). -/
def seqChanged (p q : SeqD) : Bool :=
  p.state ≠ q.state || p.len ≠ q.len || p.pages ≠ q.pages || p.step ≠ q.step || p.admNo ≠ q.admNo

/-- Write the fields of a descriptor that the Kraip writes. -/
def Dev.putSeq (d : Dev) (who : Actor) (header s : Nat) (p q : SeqD) (gen : Nat) : Dev :=
  let a := seqAddr header s
  let d := if p.req ≠ q.req then d.storeAddr who a [BitVec.ofNat 8 q.req] else d
  if seqChanged p q || p.status ≠ q.status then
    let d := d.storeAddr who (a + 1) (leBytes q.state 1 ++ leBytes gen 1 ++ leBytes q.status 1 ++ leBytes q.len 4 ++ leBytes q.pages 4)
    (d.storeAddr who (a + 32) (leBytes q.admNo 8)).storeAddr who (a + 48) (leBytes q.step 4)
  else d

/-- Some step holds a generation of the batch that is 8 or more behind (R225). -/
def Dev.farBehind (d : Dev) (c : CtxId) (header : Nat) (seqs : List SeqD) : Bool :=
  d.attns.any fun a => (d.cmd? a.cmd).any (·.c = c) && a.header = header &&
    a.snaps.any fun y => match seqs[y.slot]? with
      | some q => decide (8 ≤ (q.gen + 16 - y.gen) % 16)
      | none => false

/-- A freed page returns at once where no step holds an older generation of its sequence; otherwise it is deferred. -/
def Dev.deferPages (d : Dev) (who : Actor) (c : CtxId) (fs : List Deferred) : Dev :=
  (d.modAtt c fun a => { a with deferred := a.deferred ++ fs }).returnPages who c

/-- BATCH: the boundary of its batch, read, worked and published as one. -/
def Dev.runBatch (d : Dev) (x : Cmd) : Dev :=
  let who := Actor.cmd x.id
  let header := ent x.entry 16 8 % 2 ^ 52
  let (h, d) := d.batchHeader who header
  let pool := decide (h.pool = 1)
  match (d.ctx[x.c].poolOf pool).st with
  | .initializing => d
  | .invalid => d.endCmd x.id stExceeds
  | _ =>
    let r := (List.range h.nslots).foldl (fun (acc : List SeqD × Dev) s =>
      let (q, d) := acc.2.seqDesc who header s
      (acc.1 ++ [q], d)) ([], d)
    let old := r.1
    let d := r.2
    if d.farBehind x.c header old then d
    else
      let (b, d) := (Boundary.close { seqs := old, avail := [], admitNext := h.admitNext }).strays.leaves who h d
      let gen (s : Nat) : Nat := ((old.getD s (SeqD.of [])).gen + 1) % 16
      let d := d.deferPages who x.c (b.freed.map fun f =>
        { pool := f.2.1, page := f.2.2, header := header, slot := f.1, gen := gen f.1 })
      let (avail, d) := d.freePages who x.c pool
      let b := b.admitted.foldl (Boundary.grant h) { b with avail := avail }
      let b := (List.range b.seqs.length).foldl (Boundary.join h) b
      let d := b.grants.foldl (fun d g =>
        let d := (d.setPageBit who x.c pool g.2.2 false).modPool x.c pool fun p => { p with free := p.free - 1 }
        d.storeAddr who g.2.1 (leBytes (PageEntry.word ⟨gen g.1, pool, g.2.2⟩) 4)) d
      let d := (old.zip b.seqs).zipIdx.foldl (fun d (pq, s) =>
        d.putSeq who header s pq.1 pq.2 (if seqChanged pq.1 pq.2 then gen s else pq.1.gen)) d
      let held := (b.seqs.filter (·.state = 3)).length
      let waiting := (b.seqs.filter (·.state = 1)).length
      let d := d.storeAddr who (header + 8) (leBytes b.admitNext 8 ++ leBytes held 4 ++ leBytes waiting 4)
      let d := d.modAtt x.c fun a =>
        { a with held := BitVec.ofNat 16 (holdAt 16 held), waiting := BitVec.ofNat 16 (holdAt 16 waiting) }
      let d := if b.heldNow ≠ 0 then d.countCtx 10 x.c b.heldNow else d
      let d := if b.joinsWait ≠ 0 then d.countCtx 11 x.c b.joinsWait else d
      let d := if b.ignored ≠ 0 then d.count 27 b.ignored else d
      let d := if b.newly ≠ 0 then d.event (.queue x.c x.q) 0x0009 (BitVec.ofNat 64 header) (BitVec.ofNat 32 held) else d
      d.endCmd x.id (if held ≠ 0 then stPages else stOk)

/-! ## Commands -/

/-- SCATTER (R242). -/
def execScatter (id : Nat) (s : State) : Host.Outcome State Fault Refusal :=
  s.run fun d => d.inService fun d => d.runReady id [0x20] fun x d => d.runScatter x

/-- BATCH (R244). -/
def execBatch (id : Nat) (s : State) : Host.Outcome State Fault Refusal :=
  s.run fun d => d.inService fun d => d.runReady id [0x21] fun x d => d.runBatch x

/-- POOL_INIT_DONE (R219). -/
def execPoolInitDone (c : CtxId) (pool : Bool) (s : State) : Host.Outcome State Fault Refusal :=
  s.run fun d => d.inService fun d => d.poolWritten c pool

end Sys2Proof.Machine
end

