-- ==== Sys2Proof/Machine/Codec.lean ====
section
/-!
DEFINITION. Machine/Codec.lean: codec sessions (R325 to R327), the output ring (R328), encoding as units (R329 to R338),
repeat pictures (R39, R335), decoding (R339 to R343) and units coded again (R411).
-/
namespace Sys2Proof.Machine

/-! ## Sessions -/

/-- The levels of a standard up to 6.1: the code written, the largest luma picture and the largest luma sample rate (R324 from
H.265 and the AV1 specification, log entry 107). -/
def codLevels (av1 : Bool) : List (Nat × Nat × Nat) :=
  if av1 then
    [(0, 147456, 4423680), (1, 278784, 8363520), (4, 665856, 19975680), (5, 1065024, 31950720), (8, 2359296, 70778880),
     (9, 2359296, 141557760), (12, 8912896, 267386880), (13, 8912896, 534773760), (14, 8912896, 1069547520),
     (16, 35651584, 1069547520), (17, 35651584, 2139095040)]
  else
    [(30, 36864, 552960), (60, 122880, 3686400), (63, 245760, 7372800), (90, 552960, 16588800), (93, 983040, 33177600),
     (120, 2228224, 66846720), (123, 2228224, 133693440), (150, 8912896, 267386880), (153, 8912896, 534773760),
     (156, 8912896, 1069547520), (180, 35651584, 1069547520), (183, 35651584, 2139095040)]

/-- The lowest level whose picture size and sample rate hold the session at a Period rate; level 6.1 where none does (Table
14-2). -/
def SessDesc.levelAt (x : SessDesc) (num den : Nat) : Nat :=
  match (codLevels x.av1).find? fun l => decide (x.width * x.height ≤ l.2.1 ∧ x.width * x.height * num ≤ l.2.2 * den) with
  | some l => l.1
  | none => if x.av1 then 17 else 183

/-- The profile written: Main or Main 10 of HEVC, Main of AV1 (Table 14-2). -/
def SessDesc.profile (x : SessDesc) : Nat := if x.av1 then 0 else if x.depth = 8 then 1 else 2

/-- What a session's bytes may depend on. -/
def SessDesc.par (x : SessDesc) : List Nat :=
  [bnat x.av1, x.profile, x.level, x.width, x.height, x.depth, x.rpu, x.gop, x.ltrMax, x.qp, x.keyInt, x.rate]

/-- A picture whose parameter sets or sequence header are within Table 14-2 and no larger than the session accepts (R324,
R340). -/
def SessDesc.accepts (x : SessDesc) (o : DecOut) : Bool :=
  !o.extension && decide (o.w ≤ x.width ∧ o.h ≤ x.height) &&
    (if x.av1 then o.profile = 0 && decide (o.level ≤ 17) && decide (o.chroma ≤ 1) && (o.bits = 8 || o.bits = 10)
     else decide (o.level ≤ 183) && o.chroma = 1 &&
       ((o.profile = 1 && o.bits = 8) || (o.profile = 2 && (o.bits = 8 || o.bits = 9 || o.bits = 10))))

/-- The descriptor in its 64 bytes (Table 14-5). -/
def SessDesc.of (bs : List Byte) : SessDesc :=
  { av1 := natAt bs 0 1 = 1, decode := natAt bs 1 1 = 1, live := natAt bs 2 1 = 1, engine := natAt bs 3 1
    width := natAt bs 4 2, height := natAt bs 6 2, depth := natAt bs 8 1, rpu := natAt bs 9 1, gop := natAt bs 10 1
    ltrMax := natAt bs 11 1, qp := natAt bs 12 2, keyInt := natAt bs 14 2, rate := natAt bs 16 4
    ring := BitVec.ofNat 64 (natAt bs 24 8), ringSize := natAt bs 32 4, work := BitVec.ofNat 64 (natAt bs 40 8)
    workSize := natAt bs 48 4, status := natAt bs 56 8 % 2 ^ 52 / 64 * 64 }

/-- CTU or superblock rows of a picture. -/
def SessDesc.rows (x : SessDesc) : Nat := cdiv x.height 64
/-- Bytes of a picture in the work region (R326). -/
def SessDesc.picBytes (x : SessDesc) : Nat := cdiv (x.width * x.height * 3 * (if x.depth = 8 then 1 else 2)) 8192 * 4096
def SessDesc.buffers (x : SessDesc) : Nat := if x.decode then 16 else if x.gop = 0 then x.ltrMax + 2 else x.ltrMax + 10

/-- An address field that the codec may use: SPACE 0 or 1, reserved bits zero (Table 09-3, R325). -/
def codAddrOk (a : DWord) : Bool := addrRsv a = 0 && decide (addrSpace a ≤ 1)

/-- Every field is legal under Table 14-5. -/
def descLegal (bs : List Byte) (x : SessDesc) : Bool :=
  decide (natAt bs 0 1 ≤ 1) && decide (natAt bs 1 1 ≤ 1) && decide (natAt bs 2 1 ≤ 1) && decide (x.engine ≤ 3) &&
    decide (x.width % 8 = 0 ∧ 64 ≤ x.width ∧ x.width ≤ 8192) && decide (x.height % 8 = 0 ∧ 64 ≤ x.height ∧ x.height ≤ 4352) &&
    decide (x.width * x.height ≤ 35651584) && (x.depth = 8 || x.depth = 10) &&
    (x.decode || (decide (1 ≤ x.rpu ∧ x.rpu ≤ 16) && decide (x.gop ≤ 1) && (x.gop = 0 || !x.live) && decide (x.ltrMax ≤ 4) &&
      decide (x.qp ≤ (if x.av1 then 255 else 51)) && decide (1 ≤ x.keyInt))) &&
    codAddrOk x.ring && codAddrOk x.work && decide (65536 ≤ x.ringSize ∧ x.ringSize % 65536 = 0)

/-- The checks of R326. -/
def Dev.descFits (d : Dev) (x : SessDesc) : Bool :=
  let e := if x.decode then 4 + x.engine else x.engine
  let tileRows := cdiv x.rows x.rpu
  decide (x.buffers * x.picBytes + 2 ^ 20 ≤ x.workSize) &&
    (!x.live || decide ((d.liveSamples e + x.width * x.height) * d.per.num ≤ engineRate * d.per.den)) &&
    (!x.av1 || x.decode || decide (tileRows ≤ 64 ∧ tileRows * cdiv x.width 4096 ≤ 128))

/-- The session that a codec command names. -/
def Cmd.sess (x : Cmd) : SessId := ⟨ent x.entry 16 1 % 256, Nat.mod_lt _ (by decide)⟩

def isCodec (k : Nat) : Bool := decide (0x30 ≤ k ∧ k ≤ 0x34)

/-- The command on whose behalf a session's engine reads and writes memory: that of its picture, or of its input (R190, R252). -/
def Sess.actor (x : Sess) : Actor :=
  match x.queue, x.input with
  | p :: _, _ => .cmd p.cmd
  | [], p :: _ => .cmd p.cmd
  | [], [] => .unit

/-- An earlier command of the session has not been taken (R325). -/
def Dev.codEarlier (d : Dev) (x : Cmd) : Bool :=
  d.cmds.any fun y => y.c = x.c && isCodec y.kind && y.sess = x.sess && decide (y.id < x.id) && y.phase ≠ .running

/-- The engine in service that serves a session: its own, or while that is out the lowest other (R411). -/
def Dev.servedBy (d : Dev) (x : Sess) : Option EngId :=
  if h : x.engine < 8 then
    let e : EngId := ⟨x.engine, h⟩
    if d.cod.eng[e].st = .inService then some e
    else (List.finRange 8).find? fun f => sameWay e f && decide (d.cod.eng[f].st = .inService)
  else none

/-- A codec command that may act on its session: it ends with RESOURCE_HELD where the session is another context's, is not
open, or has no engine left (R325, R411). -/
def Dev.onSession (d : Dev) (x : Cmd) (f : Sess → Dev) : Dev :=
  let y := d.cod.sess[x.sess]
  if d.codEarlier x then d
  else if y.st ≠ .opened ∨ y.owner ≠ x.c ∨ (d.servedBy y).isNone then d.endCmd x.id stHeld
  else f y

/-- COD_OPEN (R326). -/
def Dev.codOpen (d : Dev) (x : Cmd) : Dev :=
  let y := d.cod.sess[x.sess]
  if d.codEarlier x then d
  else if y.st ≠ .free ∧ y.owner ≠ x.c then d.endCmd x.id stHeld
  else
    let (bs, d) := d.readOpen (.cmd x.id) (ent x.entry 24 8 % 2 ^ 52) 64
    let z := SessDesc.of bs
    if y.st ≠ .free ∨ !descLegal bs z ∨ !d.descFits z then d.endCmd x.id stExceeds
    else
      let z := { z with level := z.levelAt d.per.num d.per.den }
      let d := d.modSess x.sess fun o =>
        { st := .opened, owner := x.c, d := z, desc := Line.ofBytes bs, evSeq := o.evSeq
          code := Config.codecStart z.par d.per.num d.per.den }
      (d.storeAddr (.cmd x.id) z.status (zeros 8)).endCmd x.id stOk

/-- Every earlier command of a closing session has completed: COD_CLOSE completes, and the session is FREE from step 5 of
the next tick (R327). -/
def Dev.codSettle (d : Dev) (i : SessId) : Dev :=
  let x := d.cod.sess[i]
  match x.close with
  | none => d
  | some id =>
    if d.cmds.any (fun y => y.c = x.owner && isCodec y.kind && y.sess = i && decide (y.id < id)) then d
    else (d.modSess i fun y => { y with close := none, held := [] }).endCmd id stOk

/-- COD_CLOSE (R327). -/
def Dev.codClose (d : Dev) (x : Cmd) : Dev :=
  let y := d.cod.sess[x.sess]
  if d.codEarlier x then d
  else if y.st ≠ .opened ∨ y.owner ≠ x.c then d.endCmd x.id stHeld
  else
    ((d.modSess x.sess fun y => { y with st := .closing, close := some x.id }).modCmd x.id fun c =>
      { c with phase := .running }).codSettle x.sess

/-- Step 5: closed sessions are FREE. -/
def Dev.codFree (d : Dev) : Dev :=
  (List.finRange 256).foldl (fun d i =>
    let x := d.cod.sess[i]
    if x.st = .closing ∧ x.close.isNone then d.modSess i fun y => { evSeq := y.evSeq } else d) d

/-! ## Pictures to code (R330, R334) -/

def slotBit (k : Nat) : BitVec 4 := if k = 0 then 0 else BitVec.ofNat 4 (2 ^ (k - 1))

/-- LTR_MARK and LTR_USE are legal (R334). -/
def Sess.ltrOk (x : Sess) (p : Pic) : Bool :=
  let use := BitVec.ofNat 4 p.use
  decide (p.mark ≤ x.d.ltrMax) && use &&& ~~~(BitVec.ofNat 4 (2 ^ x.d.ltrMax - 1)) = 0 && use &&& ~~~x.ltr = 0 &&
    decide (popcount use ≤ 3)

/-- The picture at the front is checked, and becomes a key picture where one is due. -/
def Dev.codFront (d : Dev) (i : SessId) : Nat → Dev
  | 0 => d
  | fuel + 1 =>
    let x := d.cod.sess[i]
    match x.queue with
    | [] => d
    | p :: rest =>
      if p.nextRow ≠ 0 ∨ p.repeatFrom.isSome then d
      else if !x.ltrOk p then ((d.modSess i fun y => { y with queue := rest }).endCmd p.cmd stExceeds).codFront i fuel
      else if x.sinceKey = 0 ∨ x.d.keyInt ≤ x.sinceKey then
        d.modSess i fun y => { y with queue := { p with key := true } :: rest }
      else d

def Dev.codNext (d : Dev) (i : SessId) : Dev :=
  (d.codFront i (d.cod.sess[i].queue.length + 1)).codSettle i

/-- The picture that a COD_ENC codes. -/
def picOf (x : Cmd) : Pic :=
  let l := x.entry
  { cmd := x.id, period := x.period, key := nbit (ent l 17 1) 0, mark := ent l 17 1 / 2 % 8, use := ent l 17 1 / 16
    rowF := BitVec.ofNat 8 (ent l 18 1), rowB := BitVec.ofNat 32 (ent l 20 4), src := BitVec.ofNat 64 (ent l 24 8)
    pitch := ent l 32 4 }

/-- COD_ENC. -/
def Dev.codEnc (d : Dev) (x : Cmd) : Dev :=
  d.onSession x fun y =>
    let p := picOf x
    if y.d.decode ∨ 4 < p.mark ∨ !codAddrOk p.src then d.endCmd x.id stExceeds
    else
      ((d.modSess x.sess fun y => { y with queue := y.queue ++ [p] }).modCmd x.id fun c =>
        { c with phase := .running }).codNext x.sess

/-! ## The ring (R328) -/

/-- The bytes of a unit: its descriptor (Table 14-6) and its payload, padded. -/
def Sess.unitBytes (x : Sess) (u : HeldUnit) : List Byte :=
  leBytes u.payload.length 4 ++ leBytes u.period 4 ++ leBytes x.unitSeq.toNat 8 ++ leBytes u.first 2 ++ leBytes u.rows 2 ++
    [BitVec.ofNat 8 u.kind, BitVec.ofNat 8 (bnat u.last + 2 * bnat u.key + 4 * bnat u.damaged), 0, 0] ++
    leBytes u.wh 4 ++ leBytes u.order 4 ++ padTo (cdiv u.payload.length 32 * 32) u.payload

/-- Write bytes around the ring from offset `o`. -/
def Dev.ringWrite (d : Dev) (who : Actor) (c : CtxId) (x : SessDesc) (o : Nat) (bs : List Byte) : Dev :=
  let put (d : Dev) (o : Nat) (bs : List Byte) : Dev :=
    d.storeSpace who c none (addrSpace x.ring) ((addrOf x.ring + o) % 2 ^ 52) bs
  let n := x.ringSize - o
  let d := put d o (bs.take n)
  if bs.length ≤ n then d else put d 0 (bs.drop n)

/-- A picture is complete: its command ends, and the long-term slots change (R330, R334, R335, R343). -/
def Dev.finishPic (d : Dev) (i : SessId) : Dev :=
  let x := d.cod.sess[i]
  match x.queue with
  | [] => d
  | p :: rest =>
    let rep := p.repeatFrom.isSome
    let ltr := if rep then x.ltr else if p.key then slotBit p.mark else x.ltr ||| slotBit p.mark
    let d := d.modSess i fun y =>
      { y with queue := rest, ltr := ltr, pics := y.pics + 1
               repeats := if p.repeated then satInc y.repeats else y.repeats
               sinceKey := if p.key ∧ !rep then 1 else if y.sinceKey = 0 then 0 else y.sinceKey + 1 }
    ((d.endCmd p.cmd (if rep then stSkipped else if p.poisoned then stDamaged else stOk)).moveSession i).codNext i

/-- Place the units of a session that wait, oldest first, while the ring has room; WR is written after the unit. -/
def Dev.placeUnits (d : Dev) (i : SessId) : Nat → Dev
  | 0 => d
  | fuel + 1 =>
    let x := d.cod.sess[i]
    match x.held with
    | [] => d
    | u :: rest =>
      let bs := x.unitBytes u
      let (rd, d) := d.loadAddr x.actor (x.d.status + 8) 8
      let rd : DWord := BitVec.ofNat 64 (leNat (bytesOf rd))
      let d := d.modSess i fun y => { y with rd := rd }
      if x.d.ringSize < (x.wr - rd).toNat + bs.length then d
      else
        let d := d.ringWrite x.actor x.owner x.d (x.wr.toNat % x.d.ringSize) bs
        let wr := x.wr + BitVec.ofNat 64 bs.length
        let d := d.storeAddr x.actor x.d.status (leBytes wr.toNat 8)
        let d := d.modSess i fun y => { y with wr := wr, held := rest, unitSeq := y.unitSeq + 1 }
        let d := if u.damaged then
            ((d.event (.session i) 0x0100 x.unitSeq (BitVec.ofNat 32 u.order)).modSess i fun y =>
              { y with damaged := satInc y.damaged }).count 22
          else d
        let d := if u.last && !x.d.decode then d.finishPic i else d
        d.placeUnits i fuel

def Dev.placeAll (d : Dev) (i : SessId) : Dev := d.placeUnits i d.cod.sess[i].held.length

/-! ## Engine order (R336 to R338) -/

/-- Engine time of a number of luma samples in codec cycles, of which 1,200 make a µs (R323). -/
def engineCycles (n : Nat) : Nat := cdiv (n * 1200000000) engineRate

/-- Rows of the unit at row `r`: RPU, and in a file session no more than the file unit limit allows (R337). -/
def Dev.unitRows (d : Dev) (x : SessDesc) (r : Nat) : Nat :=
  let most := min x.rpu (x.rows - r)
  let fits (k : Nat) : Bool :=
    decide (engineCycles (x.width * (min (64 * (r + k)) x.height - 64 * r)) ≤ d.lexVal 0x2500 4 * 1200)
  if x.live then most
  else ((List.range most).map (· + 1)).foldl (fun a k => if fits k then max a k else a) 1

/-- An engine holds a unit of the session. -/
def Dev.inFlight (d : Dev) (i : SessId) : Bool :=
  d.cod.eng.toList.any fun e => (match e.unit with | some u => u.sess = i | none => false) || e.recode.any (·.sess = i)

/-- The output buffers that are free. -/
def Sess.freeBufs (x : Sess) : List Nat :=
  (List.range 16).filter fun b => !x.bufRef.getLsbD b && !x.bufOut.getLsbD b && !x.bufs.any (·.buf = b) && x.cur ≠ some b

/-- The next unit of a session, where it is ready. -/
def Dev.readyUnit (d : Dev) (i : SessId) : Option Unit14 :=
  let x := d.cod.sess[i]
  if x.st = .free ∨ x.held ≠ [] ∨ d.inFlight i then none
  else if x.d.decode then
    match x.input with
    | [] => none
    | p :: _ =>
      if !x.midPic ∧ x.freeBufs = [] then none
      else some { sess := i, row := 0, rows := 0, live := x.d.live, cmd := p.cmd }
  else
    match x.queue with
    | [] => none
    | p :: _ =>
      let k := d.unitRows x.d p.nextRow
      if p.repeatFrom.isSome ∨ !reaches (d.fence x.owner p.rowF) (p.rowB + BitVec.ofNat 32 (p.nextRow + k)) then none
      else some { sess := i, row := p.nextRow, rows := k, live := x.d.live, cmd := p.cmd }

/-- The Period of the work of a session's next unit. -/
def Sess.workPeriod (x : Sess) : Nat :=
  match x.queue, x.input with
  | p :: _, _ => p.period
  | _, p :: _ => p.period
  | _, _ => 0

/-- The ready units of an engine, live or file. -/
def Dev.unitsFor (d : Dev) (e : EngId) (live : Bool) : List Unit14 :=
  (List.finRange 256).filterMap fun i =>
    let x := d.cod.sess[i]
    if x.d.live ≠ live ∨ d.servedBy x ≠ some e then none else d.readyUnit i

/-- The first in engine order: oldest Period, then lowest session. -/
def Dev.firstUnit (d : Dev) (l : List Unit14) : Option Unit14 :=
  l.foldl (fun b u => match b with
    | none => some u
    | some v => if (d.cod.sess[u.sess]).workPeriod < (d.cod.sess[v.sess]).workPeriod then some u else b) none

/-- An engine with a live session starts no file unit during a live reserve (R338). -/
def Dev.hasLive (d : Dev) (e : EngId) : Bool :=
  d.cod.sess.toList.any fun x => x.st ≠ .free && x.d.live && d.servedBy x = some e

/-- UNIT_START at a unit boundary. -/
def Dev.unitStart (d : Dev) (e : EngId) : Dev :=
  let g := d.cod.eng[e]
  if g.st ≠ .inService ∨ g.unit.isSome then d
  else
    let run (d : Dev) (u : Unit14) : Dev :=
      let d := d.modEng e fun x => { x with unit := some u, windows := Vector.replicate 4 0 }
      if (d.cod.sess[u.sess]).d.decode ∧ !(d.cod.sess[u.sess]).midPic then
        d.modSess u.sess fun y => { y with start := (y.code, y.input) }
      else d
    match g.recode with
    | u :: rest => run (d.modEng e fun x => { x with recode := rest }) u
    | [] =>
      match d.firstUnit (d.unitsFor e true) with
      | some u => run d u
      | none =>
        if d.cod.reserve && d.hasLive e then d
        else match d.firstUnit (d.unitsFor e false) with
          | some u => run d u
          | none => d

/-! ## Encoding a unit -/

/-- The bytes that a poisoned sample reads as (R343). -/
def midSample (depth j : Nat) : Byte := if depth = 8 then 0x80 else if j % 2 = 0 then 0x00 else 0x02

/-- Read rows of a plane; answers the samples and whether one was poisoned. -/
def Dev.readPlane (d : Dev) (who : Actor) (c : CtxId) (depth : Nat) (a : DWord) (o pitch y0 n len : Nat) : (List Byte × Bool) × Dev :=
  (List.range n).foldl (fun (acc : (List Byte × Bool) × Dev) y =>
    let (bs, d) := acc.2.loadSpace who c none (addrSpace a) ((addrOf a + o + (y0 + y) * pitch) % 2 ^ 52) len
    ((acc.1.1 ++ bs.zipIdx.map fun (b, j) => if b.2 then midSample depth j else b.1, acc.1.2 || anyBad bs), d)) (([], false), d)

/-- The source samples of rows `r` up of a picture: planar 4:2:0 (R331). -/
def Dev.readSource (d : Dev) (x : Sess) (p : Pic) (r rows : Nat) : (List Byte × Bool) × Dev :=
  let bps := if x.d.depth = 8 then 1 else 2
  let y0 := 64 * r
  let n := min x.d.height (64 * (r + rows)) - y0
  let ch := x.d.height * p.pitch
  let (a, d) := d.readPlane (.cmd p.cmd) x.owner x.d.depth p.src 0 p.pitch y0 n (x.d.width * bps)
  let (b, d) := d.readPlane (.cmd p.cmd) x.owner x.d.depth p.src ch (p.pitch / 2) (y0 / 2) (n / 2) (x.d.width / 2 * bps)
  let (c, d) := d.readPlane (.cmd p.cmd) x.owner x.d.depth p.src (ch + x.d.height / 2 * (p.pitch / 2)) (p.pitch / 2) (y0 / 2) (n / 2)
    (x.d.width / 2 * bps)
  ((a.1 ++ b.1 ++ c.1, a.2 || b.2 || c.2), d)

/-- Writes of the codec to a session's work region; one that falls outside is dropped (R340). -/
def Dev.workWrites (d : Dev) (x : Sess) (ws : List (Nat × List Byte)) : Dev :=
  ws.foldl (fun d w =>
    if w.1 + w.2.length ≤ x.d.workSize then
      d.storeSpace x.actor x.owner none (addrSpace x.d.work) ((addrOf x.d.work + w.1) % 2 ^ 52) w.2
    else d) d

/-- What the work region of a session holds, with the mark of poison. -/
def Dev.workBytes (d : Dev) (x : Sess) : List RByte :=
  (d.loadSpace .unit x.owner none (addrSpace x.d.work) (addrOf x.d.work) x.d.workSize).1

/-- Read samples of the work region; answers whether one was poisoned (R259, R343). -/
def Dev.workReads (d : Dev) (x : Sess) (l : List (Nat × Nat)) : Bool × Dev :=
  l.foldl (fun acc r =>
    if r.1 + r.2 ≤ x.d.workSize then
      let (bs, d) := acc.2.loadSpace x.actor x.owner none (addrSpace x.d.work) ((addrOf x.d.work + r.1) % 2 ^ 52) r.2
      (acc.1 || anyBad bs, d)
    else acc) (false, d)

/-- Repeat units of the picture at the front, once no unit of it is under way (R335). -/
def Dev.emitRepeats (d : Dev) (i : SessId) : Dev :=
  let x := d.cod.sess[i]
  match x.queue with
  | [] => d
  | p :: rest =>
    match p.repeatFrom with
    | none => d
    | some r =>
      if d.inFlight i ∨ x.held ≠ [] then d
      else if x.d.rows ≤ r then d.finishPic i
      else
        let cuts := (List.range (cdiv (x.d.rows - r) x.d.rpu)).map fun k => r + k * x.d.rpu
        let s := cuts.foldl (fun (acc : List HeldUnit × Nat) row =>
          let n := min x.d.rpu (x.d.rows - row)
          let (bs, code) := Config.repeatUnit x.d.par acc.2 row n
          (acc.1 ++ [{ kind := 1, first := row, rows := n, last := decide (row + n = x.d.rows), period := p.period
                       order := x.pics, payload := bs }], code)) ([], x.code)
        let d := d.modSess i fun y => { y with
          held := s.1, code := s.2, queue := { p with repeated := true, nextRow := x.d.rows } :: rest }
        d.placeAll i

/-- A coded unit is complete (R329, R343). -/
def Dev.encodeDone (d : Dev) (i : SessId) (u : Unit14) : Dev :=
  let x := d.cod.sess[i]
  match x.queue with
  | [] => d
  | p :: rest =>
    let (src, d) := d.readSource x p u.row u.rows
    let work := (d.workBytes x).zipIdx.map fun (b, j) => if b.2 then midSample x.d.depth j else b.1
    let o := Config.encode x.d.par x.code p.key p.mark p.use u.row u.rows src.1 work
    let (bad, d) := d.workReads x o.reads
    let d := d.workWrites x o.writes
    let h : HeldUnit := { kind := 0, first := u.row, rows := u.rows, key := p.key, last := decide (u.row + u.rows = x.d.rows)
                          period := p.period, order := x.pics, payload := o.payload }
    let d := d.modSess i fun y => { y with
      held := y.held ++ [h], code := o.next
      queue := { p with nextRow := u.row + u.rows, poisoned := p.poisoned || src.2 || bad } :: rest }
    d.placeAll i

/-! ## Decoding (R339 to R342) -/

/-- The input that has not been parsed, with its poison; lines of it that are not at hand are asked for. -/
def Dev.inputBytes (d : Dev) (l : List InPart) : List RByte × Dev :=
  l.foldl (fun (acc : List RByte × Dev) p =>
    (acc.1 ++ (acc.2.loadAddr (.cmd p.cmd) p.addr p.left).1,
      (linePieces p.addr p.left).foldl (fun d q => match d.region q.1 with
        | .software => d.touchRead (q.1 - q.1 % 64)
        | .companion => d.touchRead (q.1 - q.1 % 64)
        | _ => d) acc.2)) ([], d)

/-- The next `n` bytes of input are read, with what such a read reports (R259). -/
def Dev.parseInput (d : Dev) : Nat → List InPart → Dev
  | _, [] => d
  | n, p :: l =>
    let k := min n p.left
    Dev.parseInput (if k = 0 then d else (d.loadAddr (.cmd p.cmd) p.addr k).2) (n - k) l

/-- Take `n` bytes off the input, marking the commands they came from. -/
def takeInput (bad : Bool) : Nat → List InPart → List InPart
  | _, [] => []
  | n, p :: l =>
    let k := min n p.left
    { p with addr := p.addr + k, left := p.left - k, bad := p.bad || (bad && decide (0 < k)) } :: takeInput bad (n - k) l

/-- COD_DECs whose bytes have all been parsed complete (R339, R342). -/
def Dev.inputDone (d : Dev) (i : SessId) : Dev :=
  let l := d.cod.sess[i].input
  let d := d.modSess i fun y => { y with input := l.filter fun p => p.left ≠ 0 }
  (l.filter fun p => p.left = 0).foldl (fun d p => d.endCmd p.cmd (if p.bad then stDamaged else stOk)) d

/-- Output the pictures whose turn in display order has come. -/
def Dev.showPics (d : Dev) (i : SessId) (shows : List Nat) : Dev :=
  shows.foldl (fun d b =>
    match d.cod.sess[i].bufs.find? (·.buf = b) with
    | none => d
    | some p => d.modSess i fun y =>
      { y with
        bufs := y.bufs.filter (·.buf ≠ b), bufOut := setBit y.bufOut b true, lastOut := some b, pics := y.pics + 1
        held := y.held ++ [({ kind := 2, first := b, rows := 0, last := true, key := p.key, damaged := p.damaged
                              wh := p.w % 65536 + p.h % 65536 * 65536, period := p.period, order := y.pics } : HeldUnit)] }) d

/-- The samples that concealed ones take: those of the previous output picture, or the middle value (R341). -/
def Dev.concealed (d : Dev) (x : Sess) : List Byte × Dev :=
  let n := x.d.picBytes
  match x.lastOut with
  | some b =>
    let (bs, d) := d.loadSpace x.actor x.owner none (addrSpace x.d.work) ((addrOf x.d.work + b * n) % 2 ^ 52) n
    (bytesOf bs, d)
  | none => ((List.range n).map (midSample x.d.depth), d)

/-- A decoded picture with its concealed samples replaced (R341). -/
def patchPic (gone : List (Nat × Nat)) (pic old : List Byte) : List Byte :=
  pic.zipIdx.map fun (b, j) => if gone.any fun r => decide (r.1 ≤ j ∧ j < r.1 + r.2) then old.getD j 0 else b

/-- Decoding of the next slice or tile group, or with `cut` the rest of the picture concealed (R340). Where the input ends within
a syntax element the unit waits for more (answer true), and its engine with it (R323, R336). -/
def Dev.decodeUnit (d : Dev) (i : SessId) (cut : Bool) : Bool × Dev :=
  let x := d.cod.sess[i]
  let (inp, d) := d.inputBytes x.input
  let o := Config.decode x.d.par x.code cut inp (d.workBytes x)
  let take := min o.take inp.length
  if take = 0 ∧ !cut then (true, d)
  else
    let (pois, d) := (d.parseInput take x.input).workReads x o.reads
    let pois := pois || anyBad (inp.take take)
    let whole := o.whole || !x.d.accepts o
    let bad := x.midBad || o.conceal || o.gone ≠ [] || whole || cut || pois || (o.ends && !o.header) || (x.dirty && o.refsBad)
    let period := match x.input with | p :: _ => p.period | [] => d.per.number.toNat
    let cur := match x.cur with
      | some b => some b
      | none => x.freeBufs[o.pick % max 1 x.freeBufs.length]?
    let d := d.modSess i fun y => { y with
      code := o.next, input := takeInput bad take y.input, midPic := true, midBad := bad, cur := cur }
    let d :=
      if o.ends || cut then
        let d := d.modSess i fun y => { y with
          midPic := false, midBad := false, cur := none, bufRef := o.refs
          dirty := if bad then true else if o.rap then false else y.dirty }
        let d := match o.header || cut, cur with
          | true, some b =>
            let (old, d) := if whole || o.gone ≠ [] then d.concealed x else ([], d)
            let pic := if whole then old else patchPic o.gone (o.samples.take x.d.picBytes) old
            (d.workWrites x [(b * x.d.picBytes, pic)]).modSess i fun y => { y with
              bufs := y.bufs ++ [({ buf := b, w := o.w, h := o.h, damaged := bad, key := o.rap, period := period } : BufPic)] }
          | _, _ => if bad then ((d.event (.session i) 0x0100 x.unitSeq (BitVec.ofNat 32 x.pics)).modSess i fun y =>
              { y with damaged := satInc y.damaged }).count 22 else d
        d.showPics i o.shows
      else d
    let d := if cut then { d with cod := { d.cod with timeouts := satInc d.cod.timeouts } }.count 23 else d
    let d := ((d.inputDone i).placeAll i).moveSession i
    (false, d.codSettle i)

/-- Input is skipped up to the next random-access point (R339). -/
def Dev.skipInput (d : Dev) (i : SessId) : Dev :=
  let x := d.cod.sess[i]
  if !x.discard then d
  else
    let (inp, d) := d.inputBytes x.input
    let (n, found) := match Config.nextRap x.d.par inp with
      | some k => (min k inp.length, true)
      | none => (inp.length, false)
    ((d.parseInput n x.input).modSess i fun y => { y with input := takeInput false n y.input, discard := !found }).inputDone i

/-- COD_DEC (R339). -/
def Dev.codDec (d : Dev) (x : Cmd) : Dev :=
  d.onSession x fun y =>
    let n := ent x.entry 32 4
    if !y.d.decode ∨ n = 0 ∨ 2 ^ 24 < n then d.endCmd x.id stExceeds
    else
      let d := d.modSess x.sess fun y => { y with
        input := y.input ++ [({ cmd := x.id, period := x.period, addr := ent x.entry 24 8 % 2 ^ 52, left := n } : InPart)] }
      ((d.modCmd x.id fun c => { c with phase := .running }).skipInput x.sess).codSettle x.sess

/-- COD_REL (R339). -/
def Dev.codRel (d : Dev) (x : Cmd) : Dev :=
  d.onSession x fun y =>
    if !y.d.decode then d.endCmd x.id stExceeds
    else (d.modSess x.sess fun y => { y with bufOut := y.bufOut &&& ~~~(BitVec.ofNat 16 (ent x.entry 20 2)) }).endCmd x.id stOk

/-- Commands of sessions whose direction has no engine in service complete with RESOURCE_HELD (R411). -/
def Dev.strand (d : Dev) : Dev :=
  (List.finRange 256).foldl (fun (d : Dev) i =>
    let x := d.cod.sess[i]
    if x.st = .free ∨ (d.servedBy x).isSome then d
    else
      let ids := x.queue.map (·.cmd) ++ x.input.map (·.cmd)
      let d := d.modSess i fun y => { y with queue := [], input := [], held := [], midPic := false, cur := none }
      (ids.foldl (fun d id => d.endCmd id stHeld) d).codSettle i) d

/-- The end of a unit: an engine that is leaving goes, and may leave sessions without any. -/
def Dev.leaveAndStrand (d : Dev) (e : EngId) : Dev :=
  if d.cod.eng[e].leaving then (d.engineLeave e).strand else d

/-- A unit of engine `e` has ended: live units that waited behind a file unit are counted (Table 14-8), a unit coded again is a
recovery, and an engine that is leaving goes. -/
def Dev.unitEnds (d : Dev) (e : EngId) (u : Unit14) : Dev :=
  let waited := if u.live then 0 else (d.unitsFor e true).length
  let d := { d with cod := { d.cod with waits := satAdd d.cod.waits waited } }
  (if u.again then d.recovered else d).leaveAndStrand e

/-- UNIT_VISIBLE: the running unit's engine time ends, but for a decode unit that waits for input; where no unit runs, units that
wait for room are placed. -/
def Dev.unitVisible (d : Dev) (e : EngId) : Dev :=
  match d.cod.eng[e].unit with
  | some u =>
    let free := d.modEng e fun x => { x with unit := none }
    let (waits, d) := if (d.cod.sess[u.sess]).d.decode then free.decodeUnit u.sess false
      else (false, (free.encodeDone u.sess u).emitRepeats u.sess)
    if waits then d.modEng e fun x => { x with unit := some u }
    else d.unitEnds e u
  | none =>
    (List.finRange 256).foldl (fun d i =>
      if d.cod.sess[i].held ≠ [] ∧ d.servedBy d.cod.sess[i] = some e then ((d.placeAll i).emitRepeats i).codSettle i else d) d

/-- WINDOW_FETCH_DONE: each window slides right by one column; after the last it is loaded for the next row (R333). -/
def Dev.windowFetch (d : Dev) (e : Fin 4) : Dev :=
  let k : EngId := ⟨e.val, by omega⟩
  match d.cod.eng[k].unit with
  | none => d
  | some u =>
    let cols := cdiv (d.cod.sess[u.sess]).d.width 64
    d.modEng k fun x => { x with windows := x.windows.map fun w => if w + 1 < cols then w + 1 else 0 }

/-- UNIT_RECODE: the engine's unit is discarded and coded again first on the lowest other engine; the engine goes out of
service. A decode unit starts over at its picture (R411). -/
def Dev.unitRecode (d : Dev) (e : EngId) : Dev :=
  match d.cod.eng[e].unit with
  | none => d
  | some u =>
    let again := { u with again := true } :: d.cod.eng[e].recode
    let d := d.modEng e fun x => { x with unit := none, recode := [] }
    let d := if (d.cod.sess[u.sess]).d.decode then d.modSess u.sess fun y =>
        { y with code := y.start.1, input := y.start.2, midPic := false, midBad := false, cur := none }
      else d
    let target := (List.finRange 8).find? fun f => f ≠ e && sameWay e f && decide (d.cod.eng[f].st = .inService)
    let d := match target with
      | some f => (d.modEng f fun x => { x with recode := x.recode ++ again }).count 14
      | none => d
    ((d.engineOut e).replaceBit 4).strand

/-- DECODE_TIME_BOUND (R340). -/
def Dev.timeBound (d : Dev) (e : EngId) : Dev :=
  match d.cod.eng[e].unit with
  | none => d
  | some u =>
    if (d.cod.sess[u.sess]).d.decode then
      ((d.modEng e fun x => { x with unit := none }).decodeUnit u.sess true).2.unitEnds e u
    else d

/-! ## A skip context at step 2 (R37, R39) -/

/-- Units of a command are discarded. -/
def Dev.dropUnits (d : Dev) (id : Nat) : Dev :=
  { d with cod := { d.cod with eng := d.cod.eng.map fun (g : Eng) => { g with
      unit := match g.unit with | some u => if u.cmd = id then none else some u | none => none
      recode := g.recode.filter fun u => u.cmd ≠ id } } }

/-- A live picture is completed with repeat units, counting a unit under way as emitted; it need not have been taken. -/
def Dev.repeatPic (d : Dev) (x : Cmd) : Dev :=
  let i := x.sess
  let y := d.cod.sess[i]
  let d := if y.queue.any (·.cmd = x.id) then d
    else (d.modSess i fun y => { y with queue := y.queue ++ [picOf x] }).modCmd x.id fun c => { c with phase := .running }
  let y := d.cod.sess[i]
  let flying := (d.cod.eng.toList.flatMap fun g => (match g.unit with | some u => [u] | none => []) ++ g.recode).find? (·.cmd = x.id)
  let d := d.modSess i fun _ => { y with queue := y.queue.map fun p =>
    if p.cmd = x.id ∧ p.repeatFrom.isNone then
      { p with repeatFrom := some (match flying with | some u => u.row + u.rows | none => p.nextRow) }
    else p }
  d

/-- Abandon one codec command. -/
def Dev.skipCod (d : Dev) (x : Cmd) : Dev :=
  let i := x.sess
  let y := d.cod.sess[i]
  let mine : Bool := y.owner = x.c && y.st ≠ .free
  let p := picOf x
  if x.kind = 0x31 ∧ mine ∧ y.d.live ∧ !y.d.decode ∧ (y.queue.any (·.cmd = x.id) ∨ (y.st = .opened ∧ 4 ≥ p.mark ∧ codAddrOk p.src)) then
    d.repeatPic x
  else
    let d := d.dropUnits x.id
    let d :=
      if !mine then d
      else if x.kind = 0x31 then
        let first : Bool := match y.queue with | p :: _ => p.cmd = x.id | [] => false
        d.modSess i fun y => { y with queue := y.queue.filter (·.cmd ≠ x.id), held := if first then [] else y.held }
      else if x.kind = 0x32 ∧ y.input.any (·.cmd = x.id) then
        ((d.modSess i fun y => { y with discard := true, midPic := false, midBad := false, cur := none }).endCmd x.id
          stSkipped).skipInput i
      else if x.kind = 0x34 ∧ y.close = some x.id then d.modSess i fun y => { y with st := .opened, close := none }
      else d
    (d.endCmd x.id stSkipped).codNext i

/-! ## Commands -/

/-- COD_OPEN (R326). -/
def execCodOpen (id : Nat) (s : State) : Host.Outcome State Fault Refusal :=
  s.run fun d => d.inService fun d => d.runReady id [0x30] fun x d => d.codOpen x

/-- COD_ENC (R330). -/
def execCodEnc (id : Nat) (s : State) : Host.Outcome State Fault Refusal :=
  s.run fun d => d.inService fun d => d.runReady id [0x31] fun x d => d.codEnc x

/-- COD_DEC (R339). -/
def execCodDec (id : Nat) (s : State) : Host.Outcome State Fault Refusal :=
  s.run fun d => d.inService fun d => d.runReady id [0x32] fun x d => d.codDec x

/-- COD_REL (R339). -/
def execCodRel (id : Nat) (s : State) : Host.Outcome State Fault Refusal :=
  s.run fun d => d.inService fun d => d.runReady id [0x33] fun x d => d.codRel x

/-- COD_CLOSE (R327). -/
def execCodClose (id : Nat) (s : State) : Host.Outcome State Fault Refusal :=
  s.run fun d => d.inService fun d => d.runReady id [0x34] fun x d => d.codClose x

/-- UNIT_START (R336). -/
def execUnitStart (e : EngId) (s : State) : Host.Outcome State Fault Refusal :=
  s.run fun d => d.inService fun d => d.unitStart e

/-- UNIT_VISIBLE (R328, R330). -/
def execUnitVisible (e : EngId) (s : State) : Host.Outcome State Fault Refusal :=
  s.run fun d => d.inService fun d => d.unitVisible e

/-- WINDOW_FETCH_DONE (R333). -/
def execWindowFetchDone (e : Fin 4) (s : State) : Host.Outcome State Fault Refusal :=
  s.run fun d => d.inService fun d => d.windowFetch e

/-- UNIT_RECODE (R411). -/
def execUnitRecode (e : EngId) (s : State) : Host.Outcome State Fault Refusal :=
  s.run fun d => d.inService fun d => d.unitRecode e

/-- DECODE_TIME_BOUND (R340). -/
def execDecodeTimeBound (e : EngId) (s : State) : Host.Outcome State Fault Refusal :=
  s.run fun d => d.inService fun d => d.timeBound e

end Sys2Proof.Machine
end

