-- ==== Sys2Proof/Machine/Group.lean ====
section
/-!
DEFINITION. Machine/Group.lean: groups and the Head (R303 to R321): neighbour tables and routes, forming, matching
announcements and assigning CSNs, moves and takeovers of the Head role, lost members, placed streams, and the messages that
a member takes.
-/
namespace Sys2Proof.Machine

def Dev.modGrp (d : Dev) (f : Grp → Grp) : Dev := { d with grp := f d.grp }

/-- This module holds the Head role: the Head in force is itself (R303). -/
def Dev.isHead (d : Dev) : Bool := d.grp.head = d.grp.module

def modBit (m : ModId) : BitVec 64 := BitVec.ofNat 64 (2 ^ m.val)
/-- The expected members in force. -/
def Dev.expected (d : Dev) : BitVec 64 := BitVec.ofNat 64 (d.lexVal 0x2400 5)

/-! ## Routes (R282, R304) -/

/-- Modules at the far ends of a member's ports. -/
def farOf (nbr : Vector (List (Option ModId)) 64) (m : ModId) : List ModId := nbr[m].filterMap id

/-- Breadth-first search: modules with their hop counts. -/
def bfs (nbr : Vector (List (Option ModId)) 64) : Nat → Nat → List ModId → List (ModId × Nat) → List (ModId × Nat)
  | 0, _, _, seen => seen
  | fuel + 1, k, front, seen =>
    let next := (front.flatMap (farOf nbr)).eraseDups.filter fun m => !seen.any (·.1 = m)
    if next = [] then seen else bfs nbr fuel (k + 1) next (seen ++ next.map fun m => (m, k + 1))

def hopsFrom (nbr : Vector (List (Option ModId)) 64) (m : ModId) : List (ModId × Nat) := bfs nbr 64 0 [m] [(m, 0)]
def hopTo (l : List (ModId × Nat)) (m : ModId) : Option Nat := (l.find? (·.1 = m)).map (·.2)

/-- The route table of a member: for each module the ports on minimal-hop paths and the hops. -/
def routeTable (nbr : Vector (List (Option ModId)) 64) (m : ModId) : Vector RouteEntry 64 :=
  let dist := Vector.ofFn fun x : ModId => hopsFrom nbr x
  Vector.ofFn fun n : ModId =>
    match hopTo dist[m] n with
    | none => {}
    | some h =>
      let ports := (List.range 18).filter fun p =>
        match nbr[m].getD p none with
        | some x => h ≠ 0 && hopTo dist[x] n = some (h - 1)
        | none => false
      { valid := true, hops := BitVec.ofNat 6 h, ports := BitVec.ofNat 18 (ports.foldl (fun a p => a + 2 ^ p) 0) }

/-- Members that a route table reaches. -/
def reachedBy (r : Vector RouteEntry 64) : BitVec 64 :=
  BitVec.ofNat 64 ((List.finRange 64).foldl (fun a m => a + if r[m].valid then 2 ^ m.val else 0) 0)

/-- The port on which a flit for `n` leaves `a`, and the module it joins (R282). -/
def nextHop (nbr : Vector (List (Option ModId)) 64) (dist : Vector (List (ModId × Nat)) 64) (a n : ModId) :
    Option (Nat × ModId) :=
  (List.range 18).findSome? fun p =>
    (nbr[a].getD p none).bind fun x =>
      if (hopTo dist[x] n).isSome && hopTo dist[a] n = (hopTo dist[x] n).map (· + 1) then some (p, x) else none

/-- The route from `a` to `n` in the old tables has lost a port in the new ones. -/
def routeBroken (old new : Vector (List (Option ModId)) 64) (dist : Vector (List (ModId × Nat)) 64) :
    Nat → ModId → ModId → Bool
  | 0, _, _ => false
  | fuel + 1, a, n =>
    match nextHop old dist a n with
    | none => false
    | some (p, x) => new[a].getD p none ≠ some x || routeBroken old new dist fuel x n

/-- Modules toward which the route of member `m` has lost a port that is not its own (R299). -/
def routesBroken (old new : Vector (List (Option ModId)) 64) (m : ModId) : BitVec 64 :=
  if old = new then 0
  else
    let dist := Vector.ofFn fun x : ModId => hopsFrom old x
    BitVec.ofNat 64 ((List.finRange 64).foldl (fun a n => a +
      match nextHop old dist m n with
      | some (p, x) => if new[m].getD p none = some x && routeBroken old new dist 64 x n then 2 ^ n.val else 0
      | none => 0) 0)

/-- The current shard generations, shard by shard (R320). -/
def Dev.shardGens (d : Dev) : List (BitVec 16) := (List.range 4096).map fun s => BitVec.ofNat 16 (d.shardGen s)

/-- Members that are reachable, but for this one. -/
def Dev.others (d : Dev) : List ModId := (membersOf d.grp.reachable).filter (· ≠ d.grp.module)

/-- The Head may compute routes once every reachable member has reported to it (R304, R309). -/
def Dev.reported (d : Dev) : Bool := d.others.all fun m => d.grp.nbr[m] ≠ []

/-- The Head starts the 16 echo exchanges with a member (R307). -/
def Dev.sendEchoes (d : Dev) (m : ModId) : Dev :=
  (List.range 16).foldl (fun d _ => d.sendMsg m .echo) (d.modGrp fun g => { g with echoes := g.echoes &&& ~~~modBit m })

/-- The group forms when the Head holds a route to every expected member (R304): the members get the shard generations, all 0,
with which they join (DESIGN CHOICE, log entry 105), and the Head measures the delays (R307). -/
def Dev.formHead (d : Dev) : Dev :=
  if d.isHead ∧ !d.grp.formed ∧ d.expected &&& ~~~d.grp.reachable = 0 then
    let d := d.modGrp fun g => { g with formed := true, csnNext := 0, shardGen := [] }
    d.others.foldl (fun d m => (d.sendMsg m (.shardGens d.shardGens)).sendEchoes m) d
  else d

/-- The Head takes a neighbour table: new routes go to the members whose tables change, a member that becomes reachable
after formation gets the shard generations, a member whose route has lost a port is told (R299), and each changed route is
measured, as is every route after a move of the role (R304, R307, R309). -/
def Dev.headRoutes (d : Dev) (nbr : Vector (List (Option ModId)) 64) : Dev :=
  let own := d.grp.module
  let old := d.grp.nbr
  let was := d.grp.reachable
  let wasFormed := d.grp.formed
  let d := d.modGrp fun g => { g with nbr := nbr }
  if !d.reported then d
  else
    let mine := routeTable nbr own
    let up : BitVec 64 := reachedBy mine
    let d := d.modGrp fun g => { g with
      routes := mine, reachable := up
      delays := Vector.ofFn fun (m : ModId) => if up.getLsbD m.val = true then g.delays[m] else none }
    let d := d.others.foldl (fun d m =>
      let t := routeTable nbr m
      let isNew : Bool := !was.getLsbD m.val
      let d := if isNew ∨ routeTable old m ≠ t then d.sendMsg m (.routes t.toList (routesBroken old nbr m)) else d
      let d := if isNew ∧ wasFormed then d.sendMsg m (.shardGens d.shardGens) else d
      if wasFormed ∧ (isNew ∨ (routeTable old own)[m] ≠ mine[m] ∨ d.grp.echoes.getLsbD m.val) then d.sendEchoes m else d) d
    (d.routesLost (routesBroken old nbr own)).formHead

/-- NEIGHBOUR_TABLE at the Head; its own row is what its ports show. Another module has no use for one. -/
def Dev.neighbourTable (d : Dev) (m : ModId) (far : List (Option ModId)) : Dev :=
  if d.isHead then d.headRoutes ((d.grp.nbr.set d.grp.module d.neighbours).set m (if m = d.grp.module then d.neighbours else far))
  else d

/-- ROUTE_UPDATE: the member's table is replaced (R282), and streams on routes that lost a port reopen (R299). A table in which
this module's number lies some links away is that of another module that holds the number (R305; DESIGN CHOICE, log entry 56). -/
def Dev.routeUpdate (d : Dev) (l : List RouteEntry) (lost : BitVec 64) : Dev :=
  let r := Vector.ofFn fun m : ModId => l.getD m.val {}
  let d := d.modGrp fun g => { g with
    routes := r, reachable := reachedBy r ||| modBit g.module
    numberClash := g.numberClash || (r[g.module].valid && r[g.module].hops ≠ 0) }
  d.routesLost lost

/-! ## The tick lead and the delays (R306, R307) -/

/-- The lead in force at the Head. -/
def Dev.leadInForce (d : Dev) : Nat :=
  let top := d.grp.delays.toList.foldl (fun a x => max a (x.getD 0)) 0
  max (d.lexVal 0x2401 1) (cdiv (top + 100) 100 * 100)

def Dev.setLead (d : Dev) : Dev := if d.isHead then d.modGrp fun g => { g with lead := BitVec.ofNat 16 d.leadInForce } else d

/-- DELAY_ECHO: the Head has measured a member over 16 echo exchanges; the member is told its own delay (R307, R322). -/
def Dev.delayEcho (d : Dev) (m : ModId) (trips : List Nat) : Dev :=
  match trips.take 16 with
  | [] => d
  | t :: ts =>
    let half := (ts.foldl min t) / 2
    if ts.length ≠ 15 then d
    else if d.isHead then
      if m = d.grp.module then d
      else (d.modGrp fun g => { g with delays := g.delays.set m (some half) }).setLead
    else if m = d.grp.module then d.modGrp fun g => { g with myDelay := BitVec.ofNat 16 (holdAt 16 half) }
    else d

/-! ## Roles (R303, R305) -/

/-- No route to the Head that Lexicon 0x2400 subindex 3 names. -/
def Dev.namedHead (d : Dev) : ModId := ⟨d.lexVal 0x2400 3 % 64, Nat.mod_lt _ (by decide)⟩
def Dev.noRouteToHead (d : Dev) : Bool := !d.grp.routes[d.namedHead].valid
/-- The standby Head. -/
def Dev.isStandby (d : Dev) (m : ModId) : Bool := decide (d.lexVal 0x2400 4 = m.val)
/-- A module that the member takes for its Head: the one in force, or the standby while there is no route to the Head that
is named (R305, R311). -/
def Dev.headFor (d : Dev) (m : ModId) : Bool := m = d.grp.head || (d.isStandby m && d.noRouteToHead)

/-- The cases of R305. -/
def Dev.misconfigured (d : Dev) : Bool :=
  d.grp.numberClash ||
  (if d.isHead then !d.grp.tookOver && (d.per.source = 3 ||
     (match d.grp.tickFrom with | some h => decide (h ≠ d.namedHead) | none => false))
   else d.per.source ≠ 3 || (match d.grp.tickFrom with
     | some h => d.grp.headRate ≠ d.per.rate || !d.headFor h
     | none => false))

/-- A module that turns MISCONFIGURED carries no placed stream (R305). -/
def Dev.dropStreams (d : Dev) : Dev :=
  { d.modGrp fun g => { g with carried := [], placements := g.placements.filter fun p => p.module ≠ g.module } with
    ctx := d.ctx.map fun (x : Ctx) => { x with streamNext := 0, streamUnits := 0 } }

/-- Reckon the role; a change writes an event (R305). -/
def Dev.reckonRole (d : Dev) : Dev :=
  let r : Role :=
    if d.misconfigured then .misconfigured
    else if !d.grp.formed then .forming
    else if d.isHead then .head else .dependent
  if r = d.grp.role then d
  else
    let d := if r = .misconfigured then d.dropStreams else d
    (d.modGrp fun g => { g with role := r }).event .lexicon 0x0402 0 (BitVec.ofNat 32 r.code)

/-! ## Matching and assigning (R287, R288, R318) -/

/-- The DEST values are a permutation of the members. -/
def isPermutation (members : BitVec 64) (dests : List Nat) : Bool :=
  (membersOf members).all fun m => (dests.filter (· = m.val)).length = 1

/-- A set fails: digests differ, a member withdrew, or its destinations are no permutation (R288). -/
def setFails (l : List HeadAnn) : Option Bool :=
  match l with
  | [] => none
  | x :: _ =>
    let same := l.all fun y => y.ann.digest = x.ann.digest
    let gone := l.any fun y => y.ann.withdrawn
    let perm := !x.ann.isPermute || isPermutation x.ann.members (l.map (·.ann.dest))
    if same && !gone && perm then none else some (l.any fun y => y.ann.withdrawn && y.ann.poisoned)

/-- Assign the next CSN to a set and send it to every member. -/
def Dev.assignSet (d : Dev) (l : List HeadAnn) : Dev :=
  match l with
  | [] => d
  | x :: _ =>
    let c := d.grp.csnNext
    let ms := x.ann.members
    let d := d.modGrp fun g => { g with csnNext := c + 1, sets := g.sets ++ [({ csn := c, ann := x.ann, left := ms } : HeadSet)] }
    (membersOf ms).foldl (fun d m => d.sendMsg m (.assign ms x.ann.tag c (setFails l))) d

/-- The Head assigns: it is formed, and holds the old Head's state or every member's report (R288, R309, R311). -/
def Dev.mayAssign (d : Dev) : Bool := d.isHead && d.grp.formed && !d.grp.awaitState && d.grp.awaitReports = 0

/-- Assign the complete sets in order; a RESHARD waits until every set with a lower CSN has completed (R318). -/
def Dev.assignReady (d : Dev) : Nat → Dev
  | 0 => d
  | fuel + 1 =>
    if !d.mayAssign then d
    else
      match d.grp.ready with
      | [] => d
      | l :: rest =>
        if l.any (·.ann.isReshard) && d.grp.sets ≠ [] then d
        else ((d.modGrp fun g => { g with ready := rest }).assignSet l).assignReady fuel

def Dev.assignAll (d : Dev) : Dev := d.assignReady d.grp.ready.length

/-- Take the first element that satisfies a predicate. -/
def takeFirst {α : Type} (p : α → Bool) : List α → Option (α × List α)
  | [] => none
  | x :: l => if p x then some (x, l) else (takeFirst p l).map fun r => (r.1, x :: r.2)

/-- One announcement of the key from each of the members, with what is left. -/
def takeSet (ms : List ModId) (a : Announce) (anns : List HeadAnn) : Option (List HeadAnn × List HeadAnn) :=
  ms.foldl (fun acc m => acc.bind fun p =>
    (takeFirst (fun x : HeadAnn => x.m = m && x.ann.members = a.members && x.ann.tag = a.tag) p.2).map fun r =>
      (p.1 ++ [r.1], r.2)) (some ([], anns))

/-- The Head holds one more announcement; a set that is complete waits for its CSN. -/
def Dev.holdAnn (d : Dev) (m : ModId) (a : Announce) : Dev :=
  let anns := d.grp.anns ++ [({ m := m, ann := a } : HeadAnn)]
  match takeSet (membersOf a.members) a anns with
  | some (l, rest) => d.modGrp fun g => { g with anns := rest, ready := g.ready ++ [l] }
  | none => d.modGrp fun g => { g with anns := anns }

/-- ANNOUNCEMENT_RECEIVED; a module that is no longer Head passes it on (Table 13-4). -/
def Dev.announced (d : Dev) (m : ModId) (a : Announce) : Dev :=
  if !d.isHead then d.toHead (.announce m a)
  else if !a.members.getLsbD m.val then d
  else (d.holdAnn m a).assignAll

/-- Member `m` has completed a collective. -/
def Grp.cleared (g : Grp) (m : ModId) (csn : Nat) : Grp :=
  let clear (s : HeadSet) : HeadSet := if s.csn = csn then { s with left := s.left &&& ~~~(modBit m) } else s
  { g with sets := (g.sets.map clear).filter fun s => s.left ≠ 0 }

/-- COMPLETION_REPORT (R318); a module that is no longer Head passes it on, and a new Head keeps it until the old Head's state has
come. -/
def Dev.completionReport (d : Dev) (m : ModId) (csn : Nat) : Dev :=
  if !d.isHead then d.toHead (.complete m csn)
  else if d.grp.awaitState then d.modGrp fun g => { g with early := g.early ++ [(m, csn)] }
  else (d.modGrp fun g => g.cleared m csn).assignAll

/-- CSN_ASSIGNMENT: an assignment counts when it comes from the module's Head; one of a new Head is held until the old one's
HEAD_END has come (R309, R310). -/
def Dev.takeAssign (d : Dev) (a : Assign) : Dev :=
  match d.grp.oldHead with
  | some h =>
    if a.sender = h then d.assignCsn a.members a.tag a.csn a.failed
    else if d.headFor a.sender then d.modGrp fun g => { g with heldAssign := g.heldAssign ++ [a] }
    else d
  | none => if d.headFor a.sender then d.assignCsn a.members a.tag a.csn a.failed else d

/-- HEAD_END: the old Head has sent its last assignment; those of the new Head that were held are taken (R310). -/
def Dev.headEnd (d : Dev) : Dev :=
  if d.grp.oldHead.isNone then d
  else
    let held := d.grp.heldAssign
    held.foldl Dev.takeAssign (d.modGrp fun g => { g with oldHead := none, heldAssign := [] })

/-! ## Moving the role (R308 to R311) -/

/-- The announcements that the Head holds and has not assigned, in the order in which they came. -/
def Grp.incomplete (g : Grp) : List (ModId × Announce) :=
  (g.ready.flatten ++ g.anns).map fun x => (x.m, x.ann)

/-- At step 4 a new Head number is in force (Table 13-4): the old Head hands over, the new Head waits for its state, and
every member awaits HEAD_END of the old Head and reports its ports to the new. -/
def Dev.moveHead (d : Dev) (new : ModId) : Dev :=
  let old := d.grp.head
  let own := d.grp.module
  if new = old then d
  else
    let wasHead := decide (old = own)
    let formed := d.grp.formed
    let d := if wasHead ∧ formed then
        let d := d.others.foldl (fun d m => d.sendMsg m .headEnd) d
        d.sendMsg new (.headState d.grp.csnNext d.grp.gperiod.toNat d.grp.incomplete d.grp.sets d.grp.placements)
      else d
    let d := d.modGrp fun g => { g with
      head := new
      oldHead := if formed ∧ !wasHead then some old else none
      awaitState := decide (new = own) && formed
      tookOver := false
      anns := if wasHead then [] else g.anns
      ready := if wasHead then [] else g.ready
      sets := if wasHead then [] else g.sets
      placements := if wasHead then [] else g.placements
      echoes := if new = own then BitVec.allOnes 64 else 0, early := []
      nbr := if new = own then Vector.replicate 64 [] else g.nbr
      tickFrom := none }
    let d := if (wasHead ∨ new = own) ∧ formed then d.count 17 else d
    if formed then d.sendNeighbours else d

/-- HEAD_STATE_RECEIVED: the new Head may assign; it takes over the sets that have not completed and the placements (R309, R310,
R318; log entry 106). -/
def Dev.headState (d : Dev) (csnNext : Nat) (sets : List (ModId × Announce)) (gperiod : Nat) (flying : List HeadSet)
    (placed : List Placement) : Dev :=
  if !d.isHead ∨ !d.grp.awaitState then d
  else
    let d := d.modGrp fun g => { g with
      awaitState := false, csnNext := max g.csnNext csnNext, sets := flying, placements := placed
      gperiod := BitVec.ofNat 64 (max g.gperiod.toNat gperiod) }
    let here := d.grp.anns
    let d := d.modGrp fun g => g.early.foldl (fun g x => g.cleared x.1 x.2) { g with anns := [], early := [] }
    let d := sets.foldl (fun d x => d.holdAnn x.1 x.2) d
    (here.foldl (fun d x => d.holdAnn x.m x.ann) d).assignAll

/-- The standby takes the role at step 4 when the Head is lost (R311). -/
def Dev.takeover (d : Dev) : Dev :=
  if d.isStandby d.grp.module ∧ !d.isHead ∧ 2 ≤ d.grp.holdTicks ∧ d.noRouteToHead ∧ d.grp.role ≠ .misconfigured then
    let d := d.modGrp fun g => { g with
      head := g.module, tookOver := true, oldHead := none, heldAssign := [], awaitReports := g.reachable ||| modBit g.module
      reports := [], anns := [], ready := [], sets := [], nbr := Vector.replicate 64 [], placements := []
      echoes := BitVec.allOnes 64, early := [] }
    let d := (membersOf d.grp.awaitReports).foldl (fun d m => d.sendMsg m .reportRequest) (d.count 18)
    d.sendNeighbours
  else d

/-- TAKEOVER_REPORT_REQUEST: the member takes the sender for its Head and reports what it has announced and not
completed. -/
def Dev.reportRequest (d : Dev) (who : ModId) : Dev :=
  if !d.headFor who then d
  else
    let d := d.modGrp fun g => { g with head := who, oldHead := none, heldAssign := [] }
    let items := d.cjn.colls.map fun k =>
      ({ ann := k.ann, csn := if k.phase = .announced then none else some k.csn } : TakeoverItem)
    let d := d.sendMsg who (.report items d.grp.carried)
    if who = d.grp.module then d else d.sendNeighbours

/-- The CSNs that reports name, rising. -/
def reportedCsns (l : List (ModId × TakeoverItem)) : List Nat := (l.foldl (fun ks x => match x.2.csn with
  | some c => keyPut c ks | none => ks) [])

/-- A set that holds CSN `c` keeps it: members that lack it are assigned it, each for its oldest announcement of the key
(R311). -/
def Dev.keepSet (d : Dev) (c : Nat) : Dev :=
  match d.grp.reports.find? fun x => x.2.csn = some c with
  | none => d
  | some x =>
    let a := x.2.ann
    let has := d.grp.reports.filter fun y => y.2.csn = some c
    let lack := (membersOf a.members).filter fun m => !has.any (·.1 = m) &&
      d.grp.reports.any fun y => y.1 = m && y.2.csn.isNone && y.2.ann.members = a.members && y.2.ann.tag = a.tag
    let left := (has.map (·.1) ++ lack).foldl (fun (s : BitVec 64) m => s ||| modBit m) 0
    let d := d.modGrp fun g => { g with sets := g.sets ++ [({ csn := c, ann := a, left := left } : HeadSet)] }
    lack.foldl (fun d m =>
      let reports := match takeFirst (fun y : ModId × TakeoverItem => y.1 = m && y.2.csn.isNone && y.2.ann.members = a.members &&
          y.2.ann.tag = a.tag) d.grp.reports with
        | some (_, rest) => rest
        | none => d.grp.reports
      (d.modGrp fun g => { g with reports := reports }).sendMsg m (.assign a.members a.tag c none)) d

/-- Every member has reported: the sets with CSNs stand, the others are matched anew; a set that names an unreachable
member is dropped (R311, R312). CSNs go on one above the highest reported; where none was reported, above the highest that this
module was assigned (DESIGN CHOICE, log entry 57). -/
def Dev.rebuild (d : Dev) : Dev :=
  let cs := reportedCsns d.grp.reports
  let top := if cs = [] then (match d.cjn.last with | some n => n + 1 | none => 0) else cs.foldl (fun a c => max a (c + 1)) 0
  let d := d.modGrp fun g => { g with csnNext := top, awaitState := false }
  let d := cs.foldl Dev.keepSet d
  let open_ := d.grp.reports.filter fun x => x.2.csn.isNone && x.2.ann.members &&& ~~~(d.grp.reachable ||| modBit d.grp.module) = 0
  let d := d.modGrp fun g => { g with reports := [] }
  (open_.foldl (fun d x => d.holdAnn x.1 x.2.ann) d).assignAll

/-- TAKEOVER_REPORT. -/
def Dev.takeReport (d : Dev) (m : ModId) (items : List TakeoverItem) (carried : List Placement) : Dev :=
  if !d.isHead ∨ !d.grp.awaitReports.getLsbD m.val then d
  else
    let d := d.modGrp fun g => { g with
      awaitReports := g.awaitReports &&& ~~~(modBit m), reports := g.reports ++ items.map fun i => (m, i)
      placements := g.placements ++ carried.map fun p => { p with module := m } }
    if d.grp.awaitReports = 0 then d.rebuild else d

/-! ## Lost members (R312) -/

/-- MEMBER_LOST: collectives that include it fail here; the Head drops what waits for it and reports its streams. -/
def Dev.memberLost (d : Dev) (m : ModId) : Dev :=
  if m = d.grp.module then d
  else
    let d := d.count 19
    let d := (d.cjn.colls.filter fun k => k.ann.members.getLsbD m.val).foldl (fun d k => d.endColl k stDepFailed k.flags) d
    let d := (d.cmds.filter fun x => isCollKind x.kind && x.phase = .ready && (CollE.of x).members.getLsbD m.val).foldl
      (fun d x => d.endCmd x.id stDepFailed) d
    let d := d.announceReady
    let d := d.modGrp fun g => { g with
      reachable := g.reachable &&& ~~~(modBit m), routes := g.routes.set m {}, delays := g.delays.set m none
      nbr := g.nbr.set m [] }
    if !d.isHead then d
    else
      let names (a : Announce) : Bool := a.members.getLsbD m.val
      let lost := d.grp.placements.filter fun p => p.module = m
      let d := lost.foldl (fun d p => d.event .lexicon 0x0403 (BitVec.ofNat 64 m.val) p.stream) d
      let d := d.modGrp fun g => { g with
        placements := g.placements.filter fun p => p.module ≠ m
        anns := g.anns.filter fun x => !names x.ann
        ready := g.ready.filter fun l => !l.any fun x => names x.ann
        sets := (g.sets.map fun s => { s with left := s.left &&& ~~~(modBit m) }).filter fun s => s.left ≠ 0 }
      if d.grp.awaitReports.getLsbD m.val then
        let d := d.modGrp fun g => { g with
          awaitReports := g.awaitReports &&& ~~~(modBit m), reports := g.reports.filter fun x => x.1 ≠ m }
        if d.grp.awaitReports = 0 then d.rebuild else d
      else d.assignAll

/-! ## Placing streams (R313, R314) -/

/-- This module's context `n` may take a stream of `cost` units. -/
def Dev.hasRoom (d : Dev) (n cost : Nat) : Bool :=
  if h : n < 16 then
    d.ctx[n].st = .active && d.grp.role ≠ .misconfigured &&
      decide (d.ctx[n].streamNext + cost ≤ d.lexVal (0x2410 + n) 1)
  else false

def Dev.addStream (d : Dev) (n : Nat) (f : Nat → Nat) : Dev :=
  if h : n < 16 then d.modCtx ⟨n, h⟩ fun x => { x with streamNext := f x.streamNext } else d

/-- A stream arrives at this member: an event, and its units (R314). -/
def Dev.placeHere (d : Dev) (stream : Word) (ctx : BitVec 8) (cost : Nat) : Dev :=
  if d.grp.role = .misconfigured then d
  else
    let d := d.modGrp fun g => { g with
      carried := g.carried ++ [({ stream := stream, module := g.module, ctx := ctx, cost := cost } : Placement)] }
    (d.addStream ctx.toNat (· + cost)).event .lexicon 0x0404 (ctx.setWidth 64) stream

/-- A stream leaves this member: its units return to its context (R314). -/
def Dev.removeHere (d : Dev) (stream : Word) : Dev :=
  match d.grp.carried.find? (·.stream = stream) with
  | none => d
  | some p =>
    (d.modGrp fun g => { g with carried := g.carried.filter fun y => y.stream ≠ stream }).addStream p.ctx.toNat (· - p.cost)

/-- What the other members publish, by module and context. -/
abbrev Rooms := List Published

def Rooms.at_ (r : Rooms) (m : ModId) (n : Nat) : Option Nat :=
  (r.find? fun (p : Published) => p.module = m).bind fun p => p.left.getD n none
def Rooms.mod (r : Rooms) (m : ModId) (n : Nat) (f : Nat → Nat) : Rooms :=
  r.map fun (p : Published) => if p.module = m then { p with left := p.left.modify n (·.map f) } else p

/-- Does member `m` take the stream? Of another member tell the units that it publishes (R314). -/
def Dev.memberRoom (d : Dev) (r : Rooms) (m : ModId) (n cost : Nat) : Bool :=
  if m = d.grp.module then d.hasRoom n cost else (r.at_ m n).any fun u => decide (cost ≤ u)

/-- An entry of the stream table (Table 13-5). -/
structure StreamE where
  at_ : Nat
  stream : Word
  cost : Nat
  ctx : Nat
  pin : Nat
  action : Nat

/-- Place one stream; answers its module, and the room that is left. -/
def Dev.placeOne (d : Dev) (r : Rooms) (e : StreamE) : Option ModId × Rooms × Dev :=
  match d.grp.placements.find? (·.stream = e.stream) with
  | some p => (some p.module, r, d)
  | none =>
    let all := membersOf (d.grp.reachable ||| modBit d.grp.module)
    let m :=
      if 16 ≤ e.ctx then none
      else if e.pin = 0xFF then all.find? fun m => d.memberRoom r m e.ctx e.cost
      else all.find? fun m => m.val = e.pin
    match m with
    | none => (none, r, d)
    | some m =>
      let d := d.modGrp fun g => { g with placements := g.placements ++
        [({ stream := e.stream, module := m, ctx := BitVec.ofNat 8 e.ctx, cost := e.cost } : Placement)] }
      (some m, r.mod m e.ctx (· - e.cost), if m = d.grp.module then d.placeHere e.stream (BitVec.ofNat 8 e.ctx) e.cost
        else d.sendMsg m (.place e.stream (BitVec.ofNat 8 e.ctx) e.cost))

/-- Remove one stream. -/
def Dev.removeOne (d : Dev) (r : Rooms) (e : StreamE) : Rooms × Dev :=
  match d.grp.placements.find? (·.stream = e.stream) with
  | none => (r, d)
  | some p =>
    let d := d.modGrp fun g => { g with placements := g.placements.filter fun y => y.stream ≠ e.stream }
    (r.mod p.module p.ctx.toNat (· + p.cost),
      if p.module = d.grp.module then d.removeHere p.stream else d.sendMsg p.module (.remove p.stream p.ctx p.cost))

/-- PLACE: on the Head, removals first and then placements, each in table order. -/
def Dev.runPlace (d : Dev) (rooms : Rooms) (x : Cmd) : Dev :=
  let who := Actor.cmd x.id
  let base := ent x.entry 16 8 % 2 ^ 52
  let n := ent x.entry 24 4
  if !d.isHead then d.endCmd x.id stHeld
  else if n = 0 ∨ 65536 < n then d.endCmd x.id stExceeds
  else
    let r := (List.range n).foldl (fun (acc : List StreamE × Dev) i =>
      let a := base + 16 * i
      let (bs, d) := acc.2.readOpen who a 16
      (acc.1 ++ [({ at_ := a, stream := BitVec.ofNat 32 (natAt bs 0 4), cost := natAt bs 4 2, ctx := natAt bs 6 1
                    pin := natAt bs 7 1, action := natAt bs 8 1 } : StreamE)], d)) ([], d)
    let put (d : Dev) (e : StreamE) (m : Nat) (st : BitVec 8) : Dev := d.storeAddr who (e.at_ + 9) [BitVec.ofNat 8 m, st]
    let d := (r.1.filter (·.action = 1)).foldl (fun (acc : Rooms × Dev) e =>
      let (rooms, d) := acc.2.removeOne acc.1 e
      (rooms, put d e 0xFF stOk)) (rooms, r.2)
    let s := (r.1.filter (·.action = 0)).foldl (fun (acc : Bool × Rooms × Dev) e =>
      match acc.2.2.placeOne acc.2.1 e with
      | (some m, rooms, d) => (acc.1, rooms, put d e m.val stOk)
      | (none, rooms, d) => (true, rooms, put d e 0xFF stHeld)) (false, d)
    s.2.2.endCmd x.id (if s.1 then stHeld else stOk)

/-- SHARD_GENERATIONS_RECEIVED: a member that has not joined its group joins at the next tick with these generations (R304,
R320); one that was away takes them up. -/
def Dev.takeShards (d : Dev) (gens : List (BitVec 16)) : Dev :=
  let t := (gens.take 4096).zipIdx.foldl (fun l p => alPut 0 p.2 p.1.toNat l) []
  if d.isHead then d
  else d.modGrp fun g => if g.formed then { g with shardGen := t } else { g with joining := some t }

/-! ## Commands -/

/-- PLACE (R314). -/
def execPlace (id : Nat) (s : State) (rooms : List Published := []) : Host.Outcome State Fault Refusal :=
  s.run fun d => d.inService fun d => d.runReady id [0x13] fun x d => d.runPlace rooms x

/-- ROUTE_UPDATE (R282). -/
def execRouteUpdate (routes : List RouteEntry) (s : State) (lost : BitVec 64 := 0) : Host.Outcome State Fault Refusal :=
  s.run fun d => d.inBoot fun d => d.routeUpdate routes lost

/-- NEIGHBOUR_TABLE (R304). -/
def execNeighbourTable (m : ModId) (far : List (Option ModId)) (s : State) : Host.Outcome State Fault Refusal :=
  s.run fun d => d.inBoot fun d => d.neighbourTable m far

/-- ANNOUNCEMENT_RECEIVED (R288). -/
def execAnnouncementReceived (m : ModId) (a : Announce) (s : State) : Host.Outcome State Fault Refusal :=
  s.run fun d => d.inService fun d => d.announced m a

/-- CSN_ASSIGNMENT (R289). -/
def execCsnAssignment (sender : ModId) (members : BitVec 64) (tag : BitVec 32) (csn : Nat) (failed : Option Bool) (s : State) :
    Host.Outcome State Fault Refusal :=
  s.run fun d => d.inService fun d =>
    d.takeAssign { sender := sender, members := members, tag := tag, csn := csn, failed := failed }

/-- COMPLETION_REPORT (R318). -/
def execCompletionReport (m : ModId) (csn : Nat) (s : State) : Host.Outcome State Fault Refusal :=
  s.run fun d => d.inService fun d => d.completionReport m csn

/-- MEMBER_LOST (R312). -/
def execMemberLost (m : ModId) (s : State) : Host.Outcome State Fault Refusal :=
  s.run fun d => d.inService fun d => d.memberLost m

/-- DELAY_ECHO (R307). -/
def execDelayEcho (m : ModId) (trips : List Nat) (s : State) : Host.Outcome State Fault Refusal :=
  s.run fun d => d.inBoot fun d => d.delayEcho m trips

/-- HEAD_END (R310). -/
def execHeadEnd (s : State) : Host.Outcome State Fault Refusal := s.run fun d => d.inService fun d => d.headEnd

/-- HEAD_STATE_RECEIVED (R309). -/
def execHeadStateReceived (csnNext : Nat) (sets : List (ModId × Announce)) (gperiod : Nat) (s : State) (flying : List HeadSet := []) (placed : List Placement := []) : Host.Outcome State Fault Refusal :=
  s.run fun d => d.inService fun d => d.headState csnNext sets gperiod flying placed

/-- TAKEOVER_REPORT_REQUEST (R311). -/
def execTakeoverReportRequest (fromMod : ModId) (s : State) : Host.Outcome State Fault Refusal :=
  s.run fun d => d.inService fun d => d.reportRequest fromMod

/-- TAKEOVER_REPORT (R311). -/
def execTakeoverReport (m : ModId) (items : List TakeoverItem) (s : State) (carried : List Placement := []) :
    Host.Outcome State Fault Refusal :=
  s.run fun d => d.inService fun d => d.takeReport m items carried

/-- STREAM_PLACEMENT (R314): the Head places a stream here, or removes one. -/
def execStreamPlacement (stream : BitVec 32) (ctx : BitVec 8) (cost : Nat) (s : State) (remove : Bool := false) :
    Host.Outcome State Fault Refusal :=
  s.run fun d => d.inService fun d => if remove then d.removeHere stream else d.placeHere stream ctx cost

/-- SHARD_GENERATIONS_RECEIVED (R304). -/
def execShardGenerationsReceived (gens : List (BitVec 16)) (s : State) : Host.Outcome State Fault Refusal :=
  s.run fun d => d.inBoot fun d => d.takeShards gens

end Sys2Proof.Machine
end

