-- ==== Sys2Proof/Machine/Keccak.lean ====
section
/-!
DEFINITION. Machine/Keccak.lean: SHAKE256 of FIPS 202, the hash of every digest and measurement (chapter 19, R438, R447).
The state is the list of its 25 lanes, lane (x, y) at x + 5y.
-/
namespace Sys2Proof.Machine

def kLane (a : List (BitVec 64)) (x y : Nat) : BitVec 64 := a.getD (x % 5 + 5 * (y % 5)) 0

def kOf (f : Nat → Nat → BitVec 64) : List (BitVec 64) := (List.range 25).map fun i => f (i % 5) (i / 5)

def kTheta (a : List (BitVec 64)) : List (BitVec 64) :=
  let c := (List.range 5).map fun x => kLane a x 0 ^^^ kLane a x 1 ^^^ kLane a x 2 ^^^ kLane a x 3 ^^^ kLane a x 4
  let e := (List.range 5).map fun x => c.getD ((x + 4) % 5) 0 ^^^ (c.getD ((x + 1) % 5) 0).rotateLeft 1
  kOf fun x y => kLane a x y ^^^ e.getD x 0

def kRho : List Nat :=
  [0, 1, 62, 28, 27, 36, 44, 6, 55, 20, 3, 10, 43, 25, 39, 41, 45, 15, 21, 8, 18, 2, 61, 56, 14]

def kRhoPi (a : List (BitVec 64)) : List (BitVec 64) :=
  kOf fun x y => (kLane a (x + 3 * y) x).rotateLeft (kRho.getD ((x + 3 * y) % 5 + 5 * x) 0)

def kChi (a : List (BitVec 64)) : List (BitVec 64) :=
  kOf fun x y => kLane a x y ^^^ (~~~(kLane a (x + 1) y) &&& kLane a (x + 2) y)

def kIota (rc : BitVec 64) : List (BitVec 64) → List (BitVec 64)
  | [] => []
  | w :: l => (w ^^^ rc) :: l

def kRounds : List (BitVec 64) :=
  [0x0000000000000001, 0x0000000000008082, 0x800000000000808A, 0x8000000080008000,
   0x000000000000808B, 0x0000000080000001, 0x8000000080008081, 0x8000000000008009,
   0x000000000000008A, 0x0000000000000088, 0x0000000080008009, 0x000000008000000A] ++
  [0x000000008000808B, 0x800000000000008B, 0x8000000000008089, 0x8000000000008003,
   0x8000000000008002, 0x8000000000000080, 0x000000000000800A, 0x800000008000000A,
   0x8000000080008081, 0x8000000000008080, 0x0000000080000001, 0x8000000080008008]

def keccak (a : List (BitVec 64)) : List (BitVec 64) :=
  kRounds.foldl (fun a rc => kIota rc (kChi (kRhoPi (kTheta a)))) a

/-- XOR a block of at most 136 bytes into the state. -/
def kAbsorb (a : List (BitVec 64)) (block : List Byte) : List (BitVec 64) :=
  kOf fun x y => kLane a x y ^^^ BitVec.ofNat 64 (leNat ((block.drop (8 * (x + 5 * y))).take 8))

/-- The message with its domain bits and its padding, in whole blocks. -/
def shakePad (m : List Byte) : List Byte :=
  let r := m.length % 136
  if r = 135 then m ++ [0x9F#8] else m ++ 0x1F#8 :: List.replicate (134 - r) 0 ++ [0x80#8]

def kBlocks : Nat → List (BitVec 64) → List Byte → List (BitVec 64)
  | 0, a, _ => a
  | n + 1, a, m => kBlocks n (keccak (kAbsorb a (m.take 136))) (m.drop 136)

/-- The first `n` ≤ 136 bytes of SHAKE256. -/
def shake256 (n : Nat) (m : List Byte) : List Byte :=
  let p := shakePad m
  ((kBlocks (p.length / 136) (List.replicate 25 0) p).flatMap fun w => leBytes w.toNat 8).take n

/-- A digest: 64 bytes of SHAKE256 output. -/
def digest (m : List Byte) : List Byte := shake256 64 m

end Sys2Proof.Machine
end

