-- ==== Sys2Proof/Machine/Security.lean ====
section
/-!
DEFINITION. Machine/Security.lean: signed statements, image slots and the boot record, the customer keys, the measurements,
the security commands of Table 19-8 and the planned swap (R437 to R458).
-/
namespace Sys2Proof.Machine

def Dev.modSec (d : Dev) (f : Sec → Sec) : Dev := { d with sec := f d.sec }

/-! ## Signed statements (R438, Table 19-4) -/

def stmtBytes : Nat := 30048

/-- The field of `n` bytes at byte `o` of a statement. -/
def stField (b : List Byte) (o n : Nat) : Nat := leNat ((b.drop o).take n)

def stKind (b : List Byte) : Nat := stField b 4 1
def stSigner (b : List Byte) : Nat := stField b 5 1
def stKey (b : List Byte) : Line := BitVec.ofNat 512 (stField b 8 64)
def stDigest (b : List Byte) : List Byte := (b.drop 72).take 64
def stSerial (b : List Byte) : Nat := stField b 136 4
def stVersion (b : List Byte) : Nat := stField b 140 4
def stRollback (b : List Byte) : Nat := stField b 144 4

/-- Reserved fields are zero and every field but TARGET holds a value its row allows; SERIAL is 0 or the module's. -/
def stFields (b : List Byte) : Bool :=
  let k := stKind b
  b.length = stmtBytes && stField b 0 4 = 0x544D5453 && decide (1 ≤ k ∧ k ≤ 7) && decide (stSigner b ≤ 5) &&
    stField b 6 2 = 0 && stField b 156 100 = 0 &&
    ([1, 2, 4, 5].contains k || stField b 8 64 = 0) && ([3, 6, 7].contains k || stField b 72 64 = 0) &&
    (stSerial b = 0 || stSerial b = Config.serial.toNat) && (k = 3 || stVersion b = 0) &&
    (if k = 3 then decide (stRollback b ≤ 65535) else stRollback b = 0) &&
    (if k = 4 then decide (stField b 148 4 < 4) else stField b 148 4 = 0)

/-- The key that SIGNER names. -/
def Dev.signerKey (d : Dev) (n : Nat) : Option Line :=
  if n = 0 then some Config.rootKey
  else if n = 1 then some Config.factoryKey
  else if h : 2 ≤ n ∧ n < 6 then (d.sec.deleg[n - 2]'(by omega)).map (·.key)
  else none

def Dev.sigOk (d : Dev) (b : List Byte) : Bool :=
  match d.signerKey (stSigner b) with
  | some k => Config.slhVerify k (b.take 256) ((b.drop 256).take 29792)
  | none => false

def stTarget (b : List Byte) : Bool := stField b 152 4 = 0x9600

/-- A statement is valid. -/
def Dev.stValid (d : Dev) (b : List Byte) : Bool := stFields b && stTarget b && d.sigOk b

/-! ## Images (R439) -/

/-- Bytes of an image, by offset and length. -/
abbrev ImgRead := Nat → Nat → List Byte

def slotBase (b : Bool) : Nat := if b then 0x04100000 else 0x00100000
def Dev.slotImg (d : Dev) (b : Bool) : ImgRead := fun o n => d.flashRead (slotBase b + o) n

def imgStmt (r : ImgRead) : List Byte := r 0 stmtBytes
def imgManifest (r : ImgRead) : List Byte := r 0x10000 0x10000

/-- The component that entry `i` of a manifest lists matches its digest; `rom` passes those that the ROM leaves to stage 1
(Table 19-1). -/
def imgComponent (rom : Bool) (r : ImgRead) (m : List Byte) (i : Nat) : Bool :=
  let e := (m.drop (128 * i)).take 128
  let o := leNat ((e.drop 4).take 4)
  let n := leNat ((e.drop 8).take 4)
  e.all (· = 0) || (rom && leNat (e.take 4) ≠ 1) || (leNat ((e.drop 12).take 52) = 0 && decide (0x20000 ≤ o ∧ o + n ≤ 2 ^ 26) &&
    digest (r o n) = e.drop 64)

/-- The slot of the installed owner delegation. -/
def Dev.ownerSlot (d : Dev) : Option Nat :=
  (List.finRange 4).foldl (fun a i => match d.sec.deleg[i] with
    | some x => if x.owner && a.isNone then some i.val else a
    | none => a) none

/-- The owner's countersignature over the body of the image statement, while an owner is installed. -/
def Dev.counterOk (d : Dev) (r : ImgRead) : Bool :=
  match d.ownerSlot with
  | none => true
  | some i =>
    let b := r 0x8000 stmtBytes
    d.stValid b && stKind b = 6 && stSigner b = i + 2 && stDigest b = digest ((imgStmt r).take 256)

/-- The checks of R439: 0, or the FAIL_REASON of the first that fails. -/
def Dev.imgCheck (d : Dev) (rom : Bool) (r : ImgRead) (floor : Nat) : Nat :=
  let b := imgStmt r
  let m := imgManifest r
  if !(stFields b && stKind b = 3 && stSigner b = 0) then 1
  else if !d.sigOk b then 2
  else if !stTarget b then 3
  else if stRollback b < floor then 4
  else if digest m ≠ stDigest b ∨ !(List.range 512).all (imgComponent rom r m) then 5
  else if !d.counterOk r then 6
  else 0

/-! ## Measurements (Table 19-5) -/

def lineBytes (l : Line) : List Byte := leBytes l.toNat 64
def digestLine (m : List Byte) : Line := Line.ofBytes (digest m)

def Dev.setMeas (d : Dev) (i : Fin 8) (l : Line) : Dev := d.modSec fun s => { s with meas := s.meas.set i l }

/-- M1 and M2: the running image. -/
def Dev.measImage (d : Dev) : Dev :=
  let r := d.slotImg d.sec.slot
  (d.setMeas 1 (digestLine ((imgStmt r).take 256))).setMeas 2 (digestLine (imgManifest r))

def delegBase (i : Nat) : Nat := 0x40000 + 0x10000 * i

/-- M3: the delegation slots, empty slots as zeros. -/
def Dev.measDeleg (d : Dev) : Dev :=
  d.setMeas 3 (digestLine ((List.finRange 4).flatMap fun i => match d.sec.deleg[i] with
    | some _ => d.flashRead (delegBase i.val) 0x10000
    | none => List.replicate 0x10000 0))

/-- M5: the test port. -/
def Dev.measTest (d : Dev) : Dev :=
  d.setMeas 5 (digestLine ((if d.sec.unlocked then 1#8 else 0#8) :: lineBytes d.sec.token))

/-- M6: Lexicon 0x2A01. -/
def Dev.measScope (d : Dev) : Dev := d.setMeas 6 (digestLine [BitVec.ofNat 8 (d.lexVal 0x2A01 1)])

/-! ## The boot record (R439) -/

def Dev.recNow (d : Dev) : BootRec :=
  let s := d.sec
  { seq := s.recordSeq, slotA := s.slots[0].st, slotB := s.slots[1].st, preferred := s.preferred, floor := s.floor
    lastSlot := s.lastSlot, lastFails := s.lastFails }

/-- Write a new record over the older copy; M4 follows. -/
def Dev.saveRec (d : Dev) : Dev :=
  let d := d.modSec fun s => { s with recordSeq := s.recordSeq + 1 }
  let r := d.recNow
  let bs := Config.recordBytes r
  let d := d.modSec fun s => { s with record := some r }
  (d.flashWrite (0x20000 + 0x10000 * (r.seq % 2)) (bs.take 0x10000)).setMeas 4 (digestLine bs)

def Dev.setSlot (d : Dev) (b : Bool) (st : SlotSt) (rollback version : Nat) : Dev :=
  let y : ImgSlot := { st := st, rollback := BitVec.ofNat 16 rollback, version := BitVec.ofNat 32 version }
  d.modSec fun s => { s with slots := if b then s.slots.set 1 y else s.slots.set 0 y }

/-- The slot that is TRIAL. -/
def Sec.trial (s : Sec) : Option Bool :=
  if s.slots[0].st = .trial then some false else if s.slots[1].st = .trial then some true else none

def Sec.img (s : Sec) (b : Bool) : ImgSlot := if b then s.slots[1] else s.slots[0]

/-! ## Security commands (R449, R450, Table 19-8) -/

def Dev.secAddr (d : Dev) : Nat := d.sec.addr.toNat % 2 ^ 51 + 2 ^ 51

/-- The status and the state that a command ends with; DETAIL is the FAIL_REASON of an image check. -/
structure SecEnd where
  status : BitVec 8
  detail : Nat := 0
  dev : Dev

/-- Bytes of companion memory that a command streams through the link: a line that is not held brings what the companion
has there, which the block does not know. -/
def Dev.readStream (d : Dev) (a n : Nat) : List Byte × Dev :=
  (linePieces a n).foldl (fun (acc : List Byte × Dev) p =>
    if acc.2.atHand (p.1 - p.1 % 64) then
      let (bs, d) := acc.2.readOpen .unit p.1 p.2
      (acc.1 ++ bs, d)
    else
      let (v, d) := acc.2.draw (8 * p.2)
      (acc.1 ++ leBytes v.toNat p.2, d)) ([], d)

/-- A spare Supervisor pair can load the TRIAL image without a power-up (R454, R456). -/
def Dev.spareCanLoad (d : Dev) (version : Nat) : Bool :=
  d.sec.stage = .service && decide (version / 256 = d.sec.version.toNat / 256)

/-- OP 1, STAGE_IMAGE (R441, R450, R451). -/
def Dev.secStage (d : Dev) : SecEnd :=
  let recovery : Bool := d.sec.stage = .recovery
  if !recovery ∧ d.sec.trial.isSome then ⟨stHeld, 0, d⟩
  else if 2 ^ 26 < d.sec.len.toNat then ⟨stExceeds, 0, d⟩
  else
    let (img, d) := d.readStream d.secAddr d.sec.len.toNat
    let r : ImgRead := fun o n => (img.drop o).take n
    let e := d.imgCheck false r d.sec.floor.toNat
    if e ≠ 0 then ⟨stExceeds, e, d⟩
    else
      let b := imgStmt r
      let other : Bool := if recovery then false else !d.sec.slot
      let d := d.flashWrite (slotBase other) img
      let d := d.setSlot other (if recovery then .confirmed else .trial) (stRollback b) (stVersion b)
      let d := if recovery then d.modSec fun s => { s with preferred := false } else d
      let d := d.modSec fun s => { s with spareReady := false, spareLoads := d.spareCanLoad (stVersion b) }
      ⟨stOk, 0, d.saveRec⟩

/-- OP 2, CONFIRM. -/
def Dev.secConfirm (d : Dev) : SecEnd :=
  match d.sec.trial with
  | none => ⟨stHeld, 0, d⟩
  | some b =>
    let y := d.sec.img b
    let d := d.setSlot b .confirmed y.rollback.toNat y.version.toNat
    let d := d.modSec fun s => { s with preferred := b, floor := if s.floor < y.rollback then y.rollback else s.floor }
    ⟨stOk, 0, d.saveRec⟩

/-- OP 3, DISCARD: the spare pair drops the image, and a swap to it that waits goes too. -/
def Dev.secDiscard (d : Dev) : SecEnd :=
  match d.sec.trial with
  | none => ⟨stHeld, 0, d⟩
  | some b =>
    let d := (d.setSlot b .empty 0 0).modSec fun s => { s with spareReady := false, spareLoads := false, swap := false }
    ⟨stOk, 0, d.saveRec⟩

/-- OP 4, SWAP: it takes effect at step 4 of the next tick (R457). -/
def Dev.secSwap (d : Dev) : SecEnd :=
  if d.sec.spareReady then ⟨stOk, 0, d.modSec fun s => { s with swap := true }⟩ else ⟨stHeld, 0, d⟩

/-- A delegation enters the lowest empty slot (R445). -/
def Dev.delegate (d : Dev) (b : List Byte) : SecEnd :=
  let x : Deleg := { key := stKey b, owner := (stField b 148 4).testBit 0, debug := (stField b 148 4).testBit 1 }
  match (List.finRange 4).find? fun (i : Fin 4) => d.sec.deleg[i].isNone with
  | none => ⟨stHeld, 0, d⟩
  | some i =>
    if x.owner ∧ d.ownerSlot.isSome then ⟨stHeld, 0, d⟩
    else
      let d := d.flashWrite (delegBase i.val) (b ++ List.replicate (0x10000 - stmtBytes) 0)
      ⟨stOk, 0, (d.modSec fun s => { s with deleg := s.deleg.set i (some x) }).measDeleg⟩

/-- Slot `i` holds a delegation of a key. -/
def Dev.delegates (d : Dev) (k : Line) (i : Fin 4) : Bool :=
  match d.sec.deleg[i] with | some x => decide (x.key = k) | none => false

def Dev.dropDeleg (d : Dev) (i : Fin 4) : Dev :=
  (d.flashWrite (delegBase i.val) (List.replicate 0x10000 Config.erased)).modSec fun s => { s with deleg := s.deleg.set i none }

/-- A revocation: the delegations of its KEY leave the store (R445). -/
def Dev.revoke (d : Dev) (b : List Byte) : SecEnd :=
  let l := (List.finRange 4).filter (d.delegates (stKey b))
  if l = [] ∨ !(stSigner b = 0 || l.any fun i => stSigner b = i.val + 2) then ⟨stExceeds, 0, d⟩
  else ⟨stOk, 0, (l.foldl Dev.dropDeleg d).measDeleg⟩

/-- OP 5, INSTALL. -/
def Dev.secInstall (d : Dev) : SecEnd :=
  let (b, d) := d.readOpen .unit d.secAddr stmtBytes
  if !d.stValid b then ⟨stExceeds, 0, d⟩
  else if stKind b = 4 ∧ stSigner b = 0 then d.delegate b
  else if stKind b = 5 then d.revoke b
  else ⟨stExceeds, 0, d⟩

/-- The body of a quote (Table 19-6). -/
def Dev.quoteBody (d : Dev) (nonce : List Byte) : List Byte :=
  let s := d.sec
  let flags := (if s.unlocked then 1 else 0) + (if s.fellBack then 2 else 0) +
    (if (s.img s.slot).st = .trial then 4 else 0) + (if s.recordLost then 8 else 0)
  leBytes 0x544F5551 4 ++ leBytes 1 2 ++ leBytes flags 1 ++ leBytes 0 1 ++ leBytes Config.serial.toNat 4 ++
    leBytes d.revision 4 ++ leBytes d.per.number.toNat 8 ++ leBytes ((d.life.latest.getD {}).powerups) 4 ++ leBytes 0 4 ++
    nonce ++ lineBytes Config.identityKey ++ s.meas.toList.flatMap lineBytes ++ List.replicate 352 0

/-- OP 6, QUOTE (R443, R448). -/
def Dev.secQuote (d : Dev) : SecEnd :=
  if !d.sec.idOk then ⟨stHeld, 0, d⟩
  else if d.sec.len.toNat < 50944 then ⟨stExceeds, 0, d⟩
  else
    let (nonce, d) := d.readOpen .unit d.secAddr 64
    let body := d.quoteBody nonce
    ⟨stOk, 0, d.storeAddr .unit (d.secAddr + 64) (body ++ (List.range 49856).map (Config.signByte body))⟩

/-- OP 7, EXTEND (Table 19-5). -/
def Dev.secExtend (d : Dev) : SecEnd :=
  let n := d.sec.len.toNat
  if n = 0 ∨ 2 ^ 24 < n then ⟨stExceeds, 0, d⟩
  else
    let (bs, d) := d.readStream d.secAddr n
    ⟨stOk, 0, d.setMeas 7 (digestLine (lineBytes d.sec.meas[7] ++ digest bs))⟩

/-- OP 8, GET_CERTS (R448). -/
def Dev.secCerts (d : Dev) : SecEnd :=
  if d.sec.len.toNat < 60096 then ⟨stExceeds, 0, d⟩
  else ⟨stOk, 0, d.storeAddr .unit d.secAddr ((List.range 60096).map Config.certByte)⟩

/-- The signer of an unlock token: the root or a DEBUG delegation (R446). -/
def Dev.mayUnlock (d : Dev) (n : Nat) : Bool :=
  n = 0 || (if h : 2 ≤ n ∧ n < 6 then ((d.sec.deleg[n - 2]'(by omega)).map (·.debug)).getD false else false)

def Dev.drawChal (d : Dev) : Dev :=
  let (c, d) := d.draw 256
  d.modSec fun s => { s with chal := c }

/-- OP 9, UNLOCK (R446). -/
def Dev.secUnlock (d : Dev) : SecEnd :=
  let (b, d) := d.readOpen .unit d.secAddr stmtBytes
  if !(d.stValid b && stKind b = 7 && stSerial b = Config.serial.toNat && leNat (stDigest b) = d.sec.chal.toNat &&
      d.mayUnlock (stSigner b)) then ⟨stExceeds, 0, d⟩
  else ⟨stOk, 0, ((d.modSec fun s => { s with unlocked := true, token := digestLine b }).drawChal).measTest⟩

/-- Security commands are served: the firmware runs, and in recovery the ROM (R441, R449). -/
def Dev.secServes (d : Dev) (op : Nat) : Bool :=
  !d.dump.halted && !d.pwr.shutdown && d.pwr.on && !d.pwr.inReset &&
    (match d.sec.stage with | .rom => false | .recovery => op = 1 | _ => true)

/-- A security command starts, where none runs, and completes. -/
def Dev.secRun (d : Dev) (op : Nat) (f : Dev → SecEnd) : Dev :=
  if !d.secServes op ∨ (d.sec.busy ∧ d.sec.lastOp.toNat ≠ op) then d
  else
    let r := f d
    r.dev.modSec fun s => { s with
      busy := false, op := BitVec.ofNat 4 op, lastOp := BitVec.ofNat 4 op, status := r.status
      detail := BitVec.ofNat 8 r.detail }

/-- STAGE_IMAGE (R450). -/
def execStageImage (s : State) : Host.Outcome State Fault Refusal :=
  s.run fun d => d.secRun 1 Dev.secStage

/-- CONFIRM (R450). -/
def execConfirm (s : State) : Host.Outcome State Fault Refusal := s.run fun d => d.secRun 2 Dev.secConfirm

/-- DISCARD (R450). -/
def execDiscard (s : State) : Host.Outcome State Fault Refusal := s.run fun d => d.secRun 3 Dev.secDiscard

/-- SWAP (R457). -/
def execSwap (s : State) : Host.Outcome State Fault Refusal := s.run fun d => d.secRun 4 Dev.secSwap

/-- INSTALL (R445). -/
def execInstall (s : State) : Host.Outcome State Fault Refusal :=
  s.run fun d => d.attempt fun d => d.secRun 5 Dev.secInstall

/-- QUOTE (R448). -/
def execQuote (s : State) : Host.Outcome State Fault Refusal :=
  s.run fun d => d.attempt fun d => d.secRun 6 Dev.secQuote

/-- EXTEND (R447). -/
def execExtend (s : State) : Host.Outcome State Fault Refusal :=
  s.run fun d => d.secRun 7 Dev.secExtend

/-- GET_CERTS (R448). -/
def execGetCerts (s : State) : Host.Outcome State Fault Refusal := s.run fun d => d.secRun 8 Dev.secCerts

/-- UNLOCK (R446). -/
def execUnlock (s : State) : Host.Outcome State Fault Refusal :=
  s.run fun d => d.attempt fun d => d.secRun 9 Dev.secUnlock

/-! ## The spare Supervisor pair (R456, R457) -/

/-- SPARE_READY (R456). -/
def execSpareReady (s : State) : Host.Outcome State Fault Refusal :=
  s.run fun d => d.inService fun d =>
    if d.sec.spareLoads ∧ d.sec.trial.isSome ∧ d.spareSup.isSome then d.modSec fun s => { s with spareReady := true, spareLoads := false }
    else d

/-- Step 4: the swap that waits is made; the old pair loads the new image (R457). -/
def Dev.supSwap (d : Dev) : Dev :=
  if !d.sec.swap then d
  else
    let d := d.modSec fun s => { s with swap := false }
    match d.activeSup, d.spareSup with
    | some a, some b =>
      if !d.sec.spareReady then d
      else
        let d := (d.modSup a fun x => { x with st := .test, loading := true }).modSup b fun x => { x with st := .active }
        let other : Bool := !d.sec.slot
        ((d.modSec fun s => { s with spareReady := false, slot := other, version := (s.img other).version }).measImage).noteReplace
    | _, _ => d

/-- SPARE_RELOADED (R457). -/
def execSpareReloaded (s : State) : Host.Outcome State Fault Refusal :=
  s.run fun d => d.inService fun d =>
    (List.finRange 2).foldl (fun d k =>
      if d.flt.sup[k].loading then d.modSup k fun x => { x with loading := false, st := .spare } else d) d

/-! ## The test port (R446) -/

/-- Instructions that a LOCKED port serves; any other acts as BYPASS. -/
def testServes (unlocked : Bool) (i : TestInstr) : TestInstr :=
  match i with
  | .other _ => if unlocked then i else .bypass
  | _ => i

/-- TEST_PORT_INSTRUCTION (R446). -/
def execTestPortInstruction (i : TestInstr) (s : State) : Host.Outcome State Fault Refusal :=
  s.run fun d => if d.pwr.on then d.emit (.test (testServes d.sec.unlocked i)) else d

end Sys2Proof.Machine
end

