-- ==== Sys2Proof/Machine/Tick.lean ====
section
/-!
DEFINITION. Machine/Tick.lean: the apply window (R30, Table 02-5): overrun and *skip* (R35 to R39), claims (R48, R49),
configuration (step 4), contexts (R42, R43), comparators (R50) and the release of the Period's work.
-/
namespace Sys2Proof.Machine

/-! ## Step 2: overrun and skip (R35 to R38, R159, R243) -/

/-- STEP becomes 0 for every sequence of an abandoned SCATTER's step list (R243): an entry whose SLOT the batch does not have
names none (R215). -/
def Dev.scatterReset (d : Dev) (e : Line) : Dev :=
  let list := ent e 16 8 % 2 ^ 52
  let header := ent e 28 8 % 2 ^ 52
  let (h, d) := d.batchHeader .unit header
  (List.range (ent e 24 2)).foldl (fun d i =>
    let (bs, d) := d.readOpen .unit (list + 32 * i) 32
    let slot := (StepEntry.of bs).slot
    if slot < h.nslots then d.storeAddr .unit (seqAddr header slot + 48) (List.replicate 4 0) else d) d

/-- Abandon one unfinished command that is not a launch. -/
def Dev.skipCmd (d : Dev) (x : Cmd) : Dev :=
  if isCodec x.kind then d.skipCod x
  else
    let d := if x.kind = 0x20 then d.scatterReset x.entry else d
    d.endCmd x.id stSkipped x.flags

/-- The programs of some launches stop: words not yet durable have no effect (R159). -/
def Cp.stop (p : Cp) (ls : List Nat) : Cp :=
  let mark (x : Program) : Program := if ls.contains x.launch then { x with skipped := true } else x
  let p := { p with ended := p.ended.map mark }
  match p.prog with
  | some x =>
    if ls.contains x.launch then
      { p with prog := none, ended := p.ended ++ [mark x], escape := [], ckpt := none, drained := false, twait := none
               r := { p.r with loads := [] }, st := if p.st = .failover then .failover else .idle }
    else p
  | none => p

/-- A launch is abandoned, its program stopped before. A POST of it that waits for a collective which *skip* keeps is
written when that completes (R38, R158). -/
def Dev.skipLaunch (d : Dev) (x : Cmd) : Dev :=
  let d := d.releaseQueue x
  match d.ctx[x.c].cp.ended.find? (·.launch = x.id) with
  | some p =>
    let d := d.modCp x.c fun cp =>
      if p.waitsToPost then cp.modProgram x.id fun g => { g with skippedLaunch := some x }
      else { cp with ended := cp.ended.filter (·.launch ≠ x.id) }
    d.endEntry { x with arg0 := p.build, arg1 := 0xFFFFFFFF } stSkipped p.allFlags
  | none => d.endEntry x stSkipped x.flags

/-- An entry that is fetched and not dispatched is abandoned, but for a collective (R38). -/
def keptBySkip (n : Nat) (h : Held) : Bool :=
  decide (n ≤ h.period) || (!h.poison && !entryRejected h.line && isCollKind (ent h.line 0 1))

/-- Room for more entries lets the queues read on. -/
def Dev.issueReadsAll (d : Dev) (c : CtxId) : Dev := (List.finRange 4).foldl (fun d q => d.issueReads c q 64) d

/-- Under *skip*, every unfinished command of earlier Periods is abandoned, but for the collectives (R37, R38). -/
def Dev.skipCtx (d : Dev) (c : CtxId) : Dev :=
  let n := d.per.number.toNat
  let old := d.cmds.filter fun x => x.c = c && decide (x.period < n) && !isCollKind x.kind
  let isLaunch (x : Cmd) : Bool := x.kind = 1 && x.launch.isNone
  let launches := old.filter isLaunch
  let rest := old.filter fun x => !isLaunch x
  let d := d.modCp c fun p => p.stop (launches.map (·.id))
  let d := d.dropWork ((rest.filter fun x => !isCodec x.kind).map (·.id))
  let d := rest.foldl Dev.skipCmd d
  let d := launches.foldl (fun d x => match d.cmd? x.id with | some y => d.skipLaunch y | none => d) d
  let d := (List.finRange 4).foldl (fun d q =>
    let gone := (d.ctx[c].queue[q].held.filter fun h => !keptBySkip n h)
    let d := d.modQ c q fun y => { y with held := y.held.filter (keptBySkip n) }
    gone.foldl (fun d h =>
      let (id, d) := d.newCmd (entryCmd c q h)
      let valid : Bool := !h.poison && !entryRejected h.line
      let d := if valid && ent h.line 0 1 = 0x20 then d.scatterReset h.line else d
      match d.cmd? id with
      | some x => if valid && isCodec x.kind then d.skipCod x else d.endCmd id stSkipped
      | none => d) d) d
  (d.returnPages .unit c).issueReadsAll c

/-- A command of Period `n − 1` has not completed (R35). -/
def Dev.lastWork (d : Dev) (c : CtxId) (n : Nat) : Bool :=
  d.cmds.any (fun x => x.c = c && decide (x.period + 1 = n)) ||
    d.ctx[c].queue.toList.any fun x => x.held.any fun h => decide (h.period + 1 = n)

/-- A context with unfinished work of the Period that ends overruns (R35); under *late* work of an older Period that is
still unfinished makes it overrun again (R36). -/
def Dev.overrunCtx (d : Dev) (c : CtxId) : Dev :=
  let n := d.per.number.toNat
  if !d.ctx[c].resident ∨ !(if d.ctx[c].g.skip then d.lastWork c n else d.earlierWork c n) then d
  else
    let d := { d with per := { d.per with overrun := setBit d.per.overrun c.val true } }
    let d := (d.countCtx 0 c).event (.queue c 0) 0x0001 (BitVec.ofNat 64 (n - 1))
    if d.ctx[c].g.skip then d.skipCtx c else d

def Dev.step2 (d : Dev) : Dev := (List.finRange 16).foldl Dev.overrunCtx d

/-! ## Step 3: claims (R43, R48, R49) -/

/-- The claiming entries, ascending (Table 02-10). -/
def claimants : List Nat := [0x2008, 0x2009] ++ (List.range 16).map (0x2130 + ·) ++ [0x2510]

/-- Resources as bits: multicast channels 0 to 7, comparators 8 to 15, SYNC_OUT 16. -/
def claimMask (index v1 v2 : Nat) : BitVec 17 :=
  if index = 0x2008 ∨ index = 0x2009 then (if v1 = 1 then 0x10000#17 else 0)
  else if index = 0x2510 then BitVec.ofNat 17 (v1 % 256 * 256)
  else BitVec.ofNat 17 (v1 % 256 + v2 % 256 * 256)

/-- Subindexes 1 and 2 of a claiming entry as a claim sees them: frozen, else in force; and whether one is frozen. -/
def Dev.claimWanted (d : Dev) (index : Nat) : BitVec 17 × Bool :=
  let two : Bool := decide (0x2130 ≤ index ∧ index < 0x2140)
  let v (s : Nat) : Nat := (d.lexPending index s).getD (d.lexVal index s)
  (claimMask index (v 1) (if two then v 2 else 0), (d.lexPending index 1).isSome || (two && (d.lexPending index 2).isSome))

/-- What an entry holds. -/
def Dev.claimHeld (d : Dev) (index : Nat) : BitVec 17 :=
  if index = 0x2008 ∨ index = 0x2009 then (if d.per.syncHolder = index then 0x10000#17 else 0)
  else if h : 0x2130 ≤ index ∧ index < 0x2140 then
    let x := d.ctx[index - 0x2130]'(by omega)
    BitVec.ofNat 17 (x.heldMc.toNat + 256 * x.heldCmp.toNat)
  else
    BitVec.ofNat 17 ((List.finRange 8).foldl (fun a i => if d.cmp[i].holder = index then a + 2 ^ (8 + i.val) else a) 0)

/-- Holdings by entry. -/
abbrev Holdings := List (Nat × BitVec 17)

def heldByOthers (h : Holdings) (index : Nat) : BitVec 17 :=
  h.foldl (fun a x => if x.1 = index then a else a ||| x.2) 0

/-- A channel is released: the joined members of its group finish by direct reads (R120). -/
def Dev.dropGroups (d : Dev) (ch : Fin 8) : Dev :=
  let joined := match d.mc[ch].group with | some g => g.joined | none => []
  let d := { d with arr := d.arr.map fun (a : Arr) => match a.tile with
    | some u => if joined.contains u then { a with mcast := false } else a
    | none => a }
  d.modMc ch fun m => { m with group := none, waiting := [], buf := [] }

/-- Put holdings into the state. -/
def Dev.setHoldings (d : Dev) (h : Holdings) : Dev :=
  let get (index : Nat) : BitVec 17 := ((h.find? (·.1 = index)).map (·.2)).getD 0
  let holder (bit : Nat) : Nat := ((h.find? fun x => x.2.getLsbD bit).map (·.1)).getD 0
  let d := { d with
    ctx := Vector.ofFn fun (c : CtxId) => { d.ctx[c] with
      heldMc := (get (0x2130 + c.val)).setWidth 8, heldCmp := ((get (0x2130 + c.val)) >>> 8).setWidth 8 }
    cmp := Vector.ofFn fun (i : Fin 8) => { d.cmp[i] with holder := holder (8 + i.val) }
    per := { d.per with syncHolder := holder 16 } }
  (List.finRange 8).foldl (fun (d : Dev) (i : Fin 8) =>
    let k := holder i.val
    let who : Option CtxId := if hk : 0x2130 ≤ k ∧ k < 0x2140 then some ⟨k - 0x2130, by omega⟩ else none
    if d.mc[i].holder = who then d else (d.dropGroups i).modMc i fun m => { m with holder := who }) d

/-- A DRAINING context whose work has all finished (R43). -/
def Dev.drained (d : Dev) (c : CtxId) : Bool :=
  d.ctx[c].st = .draining && !d.cmds.any (·.c = c) &&
    d.ctx[c].queue.toList.all fun q => q.held.isEmpty && q.issued == q.head

/-- Releases, then claims in ascending index; `freeing` are the contexts that become FREE at this tick. -/
def Dev.step3 (d : Dev) (freeing : List CtxId) : Dev :=
  let free (index : Nat) : Bool := freeing.any fun c => index = 0x2130 + c.val
  let h0 : Holdings := claimants.map fun i =>
    let w := d.claimWanted i
    (i, if free i then 0 else if w.2 then d.claimHeld i &&& w.1 else d.claimHeld i)
  let (h, d) := claimants.foldl (fun (acc : Holdings × Dev) i =>
    let (h, d) := acc
    let w := d.claimWanted i
    if !w.2 then acc
    else
      let own := ((h.find? (·.1 = i)).map (·.2)).getD 0
      let wanted := w.1 &&& ~~~own
      if wanted &&& heldByOthers h i = 0 then
        (h.map fun x => if x.1 = i then (i, w.1) else x, { d with lex := { d.lex with denied := d.lex.denied.filter (· ≠ i) } })
      else (h, ({ d with lex := { d.lex with denied := keyPut i d.lex.denied } }).event .lexicon 0x0400 0 (BitVec.ofNat 32 i)))
    (h0, d)
  d.setHoldings h

/-! ## Step 4: configuration -/

/-- Replace the low or the high word of an address register. -/
def putWord (a : BitVec 64) (high : Bool) (v : Word) : BitVec 64 :=
  if high then (v ++ a.setWidth 32 : BitVec 64) else (((a >>> 32).setWidth 32 : Word) ++ v : BitVec 64)

/-- A buffered write of an event ring's registers (R369). -/
def Dev.applyRing (d : Dev) (r : Option CtxId) (o : Nat) (v : Word) : Dev :=
  if o = 8 then d.modRing r fun y => { y with enable := v.getLsbD 0 }
  else if (d.ringOf r).st = .disabled then d.modRing r fun y => { y with ecb := putWord y.ecb (decide (o = 4)) v }
  else d.count 0

/-- A buffered register write (R11, R359, R369, R89). -/
def Dev.applyReg (d : Dev) (x : Nat) (v : Word) : Dev :=
  if h : 0x10000 ≤ x ∧ x < 0x20000 then
    let c : CtxId := ⟨(x - 0x10000) / 4096, by omega⟩
    let o := x % 4096
    if hq : o < 0x40 then
      let q : QId := ⟨o / 16, by omega⟩
      if o % 16 = 0 then d.modQ c q fun y => { y with enable := v.getLsbD 0 }
      else if d.ctx[c].queue[q].st = .disabled then
        d.modQ c q fun y => { y with qcb := putWord y.qcb (decide (o % 16 = 8)) v }
      else d.count 0
    else if o < 0x4C then d.applyRing (some c) (o - 0x40) v
    else d.lexSet (0x2210 + c.val) 1 v.toNat
  else d.applyRing none (x - 0x100) v

/-- The rate that 0x2000 gives is out of 23.976 Hz to 120 Hz, from subindexes 3 and 4 (R388). -/
def Dev.rateBad (d : Dev) : Bool :=
  let n := d.lexVal 0x2000 3
  let k := d.lexVal 0x2000 4
  d.lexVal 0x2000 2 = 0xF && (k = 0 || decide (n * 1001 < 24000 * k) || decide (120 * k < n))

/-- Buffered Lexicon writes in ascending index and subindex, but for the layer maps, which their own rule applies. -/
def Dev.applyLex (d : Dev) (buf : List (Nat × Nat)) : Dev :=
  let old := d
  let d := buf.foldl (fun d p =>
    let index := p.1 / 256
    if 0x2230 ≤ index ∧ index < 0x2240 then d else d.lexSet index (p.1 % 256) p.2) d
  if d.rateBad then
    ([2, 3, 4].foldl (fun d s => d.lexSet 0x2000 s (old.lexVal 0x2000 s)) d).count 1
  else d

/-- A change of Period state (R26, R27). -/
def PState.code : PState → Nat | .freeRun => 0 | .locked => 1 | .holdover => 2 | .acquiring => 3

def Dev.setPState (d : Dev) (s : PState) : Dev :=
  let o := d.per.pstate
  if o = s then d
  else ({ d with per := { d.per with pstate := s } }).event .period 0x0500 0 (BitVec.ofNat 32 (256 * o.code + s.code))

/-- The tick lead applies to this module: it is the Head of a group with another member, one that it expects or that it reaches
(R306, assumption log 30). -/
def Dev.leads (d : Dev) : Bool := d.isHead && (d.expected ||| d.grp.reachable) &&& ~~~modBit d.grp.module ≠ 0

/-- How long after its source tick this module ticks. -/
def Dev.tickDelay (d : Dev) : Nat :=
  if d.leads then d.grp.lead.toNat
  else if d.per.source = 3 && !d.isHead then d.grp.lead.toNat - (if d.grp.myDelay = 0xFFFF then 0 else d.grp.myDelay.toNat)
  else 0

/-- The source and the rate come into force (R22 to R24, R26, R28). -/
def Dev.applySource (d : Dev) : Dev :=
  let src : BitVec 2 := BitVec.ofNat 2 (d.lexVal 0x2000 1)
  let code := d.lexVal 0x2000 2
  let (num, den) := rateOf code (d.lexVal 0x2000 3) (d.lexVal 0x2000 4)
  let p := d.per
  if src = p.source ∧ code = p.rate.toNat ∧ num = p.num ∧ den = p.den then d
  else
    let d := { d with per := { p with source := src, rate := BitVec.ofNat 8 code, num := num, den := den } }
    let at0 := p.lastTick - d.tickDelay
    let d := { d with per := { d.per with
      lastSrc := at0, base := at0, epoch := at0, k := 1, intervals := [], ties := 0, run := 0, runLast := 0
      newSetting := decide (src ≠ 0) } }
    let d := d.setPState (if src = 0 then .freeRun else .acquiring)
    if src = 3 then d else d.modGrp fun g => { g with tookOver := false }

/-- The group's number or this module's number changes: its membership starts again (R303); a new number that a reachable member
holds is taken (R305). A write of the Head's number moves the role (R309); without one, the standby that has taken the role
keeps it, and a member that follows it does while no route leads to the Head that is named (R311). -/
def Dev.applyGroup (d old : Dev) : Dev :=
  let m : ModId := ⟨d.lexVal 0x2400 2 % 64, Nat.mod_lt _ (by decide)⟩
  let d := if d.lexVal 0x2400 1 = old.lexVal 0x2400 1 ∧ m = d.grp.module then d
    else d.modGrp fun g => { g with
      module := m, formed := false, shardGen := [], csnNext := 0, anns := [], ready := [], sets := []
      numberClash := d.lexVal 0x2400 1 = old.lexVal 0x2400 1 && m ≠ g.module && g.routes[m].valid
      joining := none, echoes := 0, early := []
      nbr := Vector.replicate 64 [], routes := Vector.replicate 64 {}, reachable := modBit m, tickFrom := none
      delays := Vector.replicate 64 none, oldHead := none, heldAssign := [], awaitState := false, awaitReports := 0
      reports := [] }
  let d := if (List.range 6).all fun s => d.lexVal 0x2400 s = old.lexVal 0x2400 s then d
    else d.modGrp fun g => { g with tickFrom := none }
  let kept : Bool := d.lexVal 0x2400 3 = old.lexVal 0x2400 3 &&
    (d.grp.tookOver || (d.isStandby d.grp.head && d.noRouteToHead && d.grp.head ≠ d.namedHead))
  if kept then d else d.moveHead d.namedHead

/-- A Dependent that the Head has given the shard generations joins at this tick (R304); the Head forms by its routes. -/
def Dev.formGroup (d : Dev) : Dev :=
  let d := d.modGrp fun g => { g with reachable := g.reachable ||| modBit g.module }
  if d.isHead then d.headRoutes (d.grp.nbr.set d.grp.module d.neighbours)
  else match d.grp.joining with
    | some t => d.modGrp fun g => { g with formed := true, shardGen := t, joining := none }
    | none => d

/-- Roles, Heads and delays at step 4 (R303 to R311). -/
def Dev.stepGroup (d old : Dev) : Dev :=
  let d := (((d.applyGroup old).takeover).formGroup).setLead
  let d := if d.isHead then d.modGrp fun g => { g with myDelay := 0 }
    else d.modGrp fun g => { g with sincePowerUp := false, gperiod := g.lastG }
  (d.reckonRole).announceReady.settleColls

/-! ### Rephrase at step 4 (R88 to R93) -/

/-- The budget is refilled and the counts of the Period that ends are kept (R88, Table 04-5). -/
def Dev.refill (d : Dev) (c : CtxId) : Dev :=
  let budget := BitVec.ofNat 32 (d.lexVal (0x2210 + c.val) 1)
  d.modRph c fun r => { r with
    remain := budget, exhausted := false, exhaustedLast := r.exhausted, step1 := 0, step2 := 0, unrep := 0
    step1Last := r.step1, step2Last := r.step2, unrepLast := r.unrep }

/-- Some entry of the layer names a usable wide variant (R93). -/
def Dev.hasWide (d : Dev) (c : CtxId) (layer : Nat) : Bool :=
  d.ctx[c].ldt.entries.any fun e =>
    let x := LdtE.of e.2
    decide (x.type = 1 ∧ x.layer = layer) && (d.wideVariant c e.1).isSome

def wideBits (d : Dev) (c : CtxId) : Nat :=
  (List.range 256).foldl (fun a i => if d.hasWide c i then a + 2 ^ i else a) 0

/-- Troubled tiles of a layer over the `w` Periods before Period `n`. -/
def Rph.sum (r : Rph) (layer n w : Nat) : Nat :=
  r.counts.foldl (fun a x => if x.1 = layer ∧ x.2.1 < n ∧ n ≤ x.2.1 + w then a + x.2.2 else a) 0

def Rph.promote (r : Rph) (layer n : Nat) : Rph := { r with promotedAt := alPut 0 layer (n + 1) r.promotedAt }

def Dev.setLayers (d : Dev) (c : CtxId) (bits : Nat) : Dev := d.lexSet (0x2230 + c.val) 1 bits

/-- Promotion and demotion of the layers of a context; `w` is the map that a write brings at this tick. -/
def Dev.layers (d : Dev) (c : CtxId) (w : Option Nat) : Dev :=
  let n := d.per.number.toNat
  let wide := wideBits d c
  let old := d.lexVal (0x2230 + c.val) 1
  let new := match w with | some v => v &&& wide | none => old
  let fixed := new ^^^ old
  let d := (d.setLayers c new).modRph c fun r => { (List.range 256).foldl (fun (r : Rph) i =>
      if new.testBit i && fixed.testBit i then r.promote i n else r) r with
    counts := r.counts.filter fun x => decide (n ≤ x.2.1 + 65536) }
  let thr := d.lexVal 0x2200 1
  let win := d.lexVal 0x2200 2
  let dem := d.lexVal 0x2200 3
  let d := (List.range 256).foldl (fun d i =>
    if thr ≠ 0 && !(new.testBit i) && !(fixed.testBit i) && wide.testBit i && decide (thr < d.ctx[c].rph.sum i n win) then
      let d := d.setLayers c (d.lexVal (0x2230 + c.val) 1 + 2 ^ i)
      let d := d.modRph c fun r => { r.promote i n with counts := r.counts.filter (·.1 ≠ i) }
      (d.event (.queue c 0) 0x0005 0 (BitVec.ofNat 32 i)).countCtx 6 c
    else d) d
  (List.range 256).foldl (fun d i =>
    let r := d.ctx[c].rph
    if dem ≠ 0 && (d.lexVal (0x2230 + c.val) 1).testBit i && !(fixed.testBit i) &&
        decide (alGet 0 r.promotedAt i + dem ≤ n + 1) && decide (r.sum i n dem = 0) then
      ((d.setLayers c (d.lexVal (0x2230 + c.val) 1 - 2 ^ i)).event (.queue c 0) 0x0006 0 (BitVec.ofNat 32 i)).countCtx 7 c
    else d) d

/-- Rephrase of every context. -/
def Dev.stepRephrase (d : Dev) (buf : List (Nat × Nat)) : Dev :=
  (List.finRange 16).foldl (fun d c =>
    let w := (buf.find? (·.1 = lexKey (0x2230 + c.val) 1)).map (·.2)
    if d.ctx[c].resident ∨ w.isSome then (d.refill c).layers c w else d.refill c) d

/-! ### Ports, service and other commands at step 4 -/

/-- Port enables and full retrains (R302). -/
def Dev.stepPort (d : Dev) (p : PortId) : Dev :=
  let i := 0x2440 + p.val
  let d := if d.lexVal i 1 = 0 then d.portLeaves p .disabled
    else if d.port[p].st = .disabled then d.portState p (if d.port[p].absent then .down else .detect) else d
  let d := if d.lexVal i 3 = 1 ∧ (d.port[p].st = .up12 ∨ d.port[p].st = .up8) then
      ((d.portLeaves p .retrain).modPort p fun x => { x with retrains := satInc x.retrains }).countPort 2 p
    else d
  d.lexSet i 3 0

/-- Step 4 (R30): registers, then the Lexicon, then what the values in force bring. -/
def Dev.step4 (d : Dev) (rwp : List (Nat × Word)) (buf : List (Nat × Nat)) : Dev :=
  let d := rwp.foldl (fun d p => d.applyReg p.1 p.2) d
  let old := d
  let d := (d.applyLex buf).applySource
  let d := (d.stepGroup old).stepRephrase buf
  let d := (d.growPool).reduceQuotas 4096
  let d := (if d.lexVal 0x2702 3 = 0 then d else d.service.strand).supSwap
  let d := (List.finRange 18).foldl Dev.stepPort d
  let d := if d.lexVal 0x2703 4 = 1 then
      let d := d.lexSet 0x2703 4 0
      { d with life := { d.life with wanted := true } }
    else d
  let d := if buf.any (fun p => p.1 = lexKey 0x2A01 1) then d.measScope else d
  { d with ctx := d.ctx.map fun (x : Ctx) => { x with streamUnits := x.streamNext } }

/-! ## Step 5: contexts (R42, R43, R125, R162, R188, R219, R321, R359) -/

/-- A context becomes FREE: its quota goes and its share is to be zeroed. -/
def Dev.freeCtx (d : Dev) (c : CtxId) : Dev :=
  let x := d.ctx[c]
  let d := x.queue.toList.foldl (fun d q => if q.recs = [] then d.unmonitor q.cplLine else d)
    (d.unmonitor (x.ring.lineAddr 1))
  let d := d.modCtx c fun x => { x with
    st := .free, g := {}, queue := x.queue.map Queue.freed, ring := {}
    cp := { x.cp with fence := Vector.replicate 256 0, poison := 0 }
    ldt := { x.ldt with entries := [], rup := [] }
    rph := { x.rph with counts := [], promotedAt := [] }
    att := { x.att with pool0 := {}, pool1 := {}, deferred := [] } }
  let d := d.setLayers c 0
  { d with zeroing := d.zeroing ++ [({ c := c, base := x.g.base, units := x.g.units } : Zeroing)] }

/-- A destroy command. -/
def Dev.destroy (d : Dev) (c : CtxId) : Dev :=
  match d.ctx[c].st with
  | .active =>
    (List.finRange 4).foldl (fun d q => d.disableQueue c q) (d.modCtx c fun x => { x with st := .draining })
  | .rejected => d.modCtx c fun x => { x with st := .free, reason := 0 }
  | _ => d

/-- Share units taken, as pairs of first unit and number. -/
def Dev.takenUnits (d : Dev) : List (Nat × Nat) :=
  ((d.ctx.toList.filter Ctx.resident).map fun x => (x.g.base / 262144, x.g.units)) ++
    d.zeroing.map fun z => (z.base / 262144, z.units)

/-- The lowest unit at which `n` units are free. -/
def Dev.shareAt (d : Dev) (n : Nat) : Option Nat :=
  (List.range (129 - n)).find? fun s => d.takenUnits.all fun t => decide (t.1 + t.2 ≤ s ∨ s + n ≤ t.1)

/-- The first check of Table 02-8 that fails; 0 for none. -/
def Dev.createCheck (d : Dev) (c : CtxId) : Nat :=
  let v (s : Nat) : Nat := d.lexVal (0x2110 + c.val) s
  if d.ctx[c].cp.pair.isNone || d.ctx[c].cp.failed then 1
  else if 128 - d.unitsUsed < v 6 then 2
  else if (d.shareAt (v 6)).isNone then 3
  else if d.flt.pool < d.quotaUsed + v 7 then 4
  else if v 7 < v 8 then 5
  else 0

/-- The page pools of a new context (R218, R219). -/
def Dev.newPool (d : Dev) (c : CtxId) (k : Bool) : Pool :=
  let base := d.lexVal (0x2610 + c.val) (if k then 3 else 1)
  let pages := d.lexVal (0x2610 + c.val) (if k then 4 else 2)
  let fits : Bool := if k then decide (base + cdiv pages 192 * 65536 ≤ d.shareBytes c)
    else decide (base + pages * 65536 ≤ 0x16800000000)
  { st := if pages = 0 then .none else if fits then .initializing else .invalid, base := base, pages := pages }

/-- A create command (R42). -/
def Dev.create (d : Dev) (c : CtxId) : Dev :=
  if d.ctx[c].resident then d.count 1
  else
    let v (s : Nat) : Nat := d.lexVal (0x2110 + c.val) s
    let r := d.createCheck c
    if r ≠ 0 then d.modCtx c fun x => { x with st := .rejected, reason := BitVec.ofNat 8 r }
    else
      let g : Grant := { base := (d.shareAt (v 6)).getD 0 * 262144, units := v 6, prio := v 4, skip := decide (v 5 = 1)
                         quota := v 7, minQuota := v 8, borrow := decide (v 9 = 1) }
      let d := d.modCtx c fun x => { x with
        st := .active, reason := 0, g := g, cp := { pair := x.cp.pair }, ldt := {}, rph := { remain := x.rph.remain }
        att := {}, turn := 0, nextTile := 0, tilePeriod := 0, noPair := false }
      let d := d.modAtt c fun a => { a with pool0 := d.newPool c false, pool1 := d.newPool c true }
      d.modGrp fun gr => { gr with genSlots := gr.genSlots.filter fun x => x.1 / 256 ≠ c.val }

/-- A pool whose bitmap has been written is ready (R219). -/
def Pool.settle (p : Pool) : Pool := if p.st = .initializing && p.written then { p with st := .ready } else p

/-- Step 5: contexts that have drained, ranges that have been zeroed, destroys, then creates. -/
def Dev.step5 (d : Dev) (freeing : List CtxId) : Dev :=
  let d := { d with zeroing := d.zeroing.filter fun z => !z.done }
  let d := { d with ctx := d.ctx.map fun (x : Ctx) =>
    { x with att := { x.att with pool0 := x.att.pool0.settle, pool1 := x.att.pool1.settle } } }
  let d := freeing.foldl Dev.freeCtx d
  let cmdOf (d : Dev) (c : CtxId) : Nat := d.lexVal (0x2110 + c.val) 1
  let d := (List.finRange 16).foldl (fun d c => if cmdOf d c = 2 then d.destroy c else d) d
  let d := (List.finRange 16).foldl (fun d c => if cmdOf d c = 1 then d.create c else d) d
  let d := (List.finRange 16).foldl (fun d c => d.lexSet (0x2110 + c.val) 1 0) d
  d.codFree

/-! ## Step 6: comparators (R50) -/

def Dev.rearm (d : Dev) (i : Fin 8) : Dev :=
  let off := d.lexVal (0x2010 + i.val) 1
  let held : Bool := d.cmp[i].holder ≠ 0
  let late : Bool := decide (d.per.tnum ≤ off * d.per.num)
  let d := d.modCmp i fun x => { x with armed := held && !late, fired := false, offset := off }
  if held && late then d.event .lexicon 0x0401 0 (BitVec.ofNat 32 i.val) else d

def Dev.step6 (d : Dev) : Dev := (List.finRange 8).foldl Dev.rearm d

/-! ## Step 7: the Period's work (R33, R39, R44, R359, R369) -/

def Dev.step7 (d : Dev) : Dev :=
  let d := { d with ctx := d.ctx.map fun (x : Ctx) => { x with ldt := { x.ldt with tiles := 0 } } }
  let d := (List.finRange 16).foldl Dev.cutWork d.enableAll
  ((List.finRange 256).foldl Dev.emitRepeats d).place

/-! ## A tick (R29, R30) -/

/-- SYNC_OUT rises 20 ns after `t` for the width of the entry that holds it (R465). -/
def Dev.syncPulse (d : Dev) (index t : Nat) : Dev :=
  if d.per.syncHolder ≠ index ∨ d.per.syncOutHigh then d
  else ({ d with per := { d.per with syncOutHigh := true, pulseEnd := t + 20 + d.lexVal index 2 } }).emit (.syncOut true)

/-- A tick at time `t`: the Period number advances, and the steps of Table 02-5 are taken in order. A DRAINING context whose
last commands are abandoned at step 2 becomes FREE at step 5 of the same tick (DEDUCED, log entry 84). -/
def Dev.tickAt (d : Dev) (t : Nat) : Dev :=
  let number : DWord := if d.per.started then d.per.number + 1 else 0
  let (len, d) := d.draw 13
  let d := { d with
    per := { d.per with number := number, started := true, lastTick := t, now := max d.per.now t
                        applyLast := BitVec.ofNat 13 (len.toNat % 7201) }
    life := { d.life with ticks := d.life.ticks + 1 }
    cod := { d.cod with reserve := false } }
  let d := d.migrate
  let d := if d.isHead then d.modGrp fun g => { g with
      gperiod := if g.sincePowerUp then number else g.gperiod + 1 } else d
  let d := d.syncPulse 0x2008 t
  let rwp := d.rwp
  let buf := d.lex.buf
  let d := d.step2
  let freeing := (List.finRange 16).filter d.drained
  let d := d.step3 freeing
  let d := { d with rwp := [], lex := { d.lex with buf := [] } }
  let d := (((d.step4 rwp buf).step5 freeing).step6).step7
  let d := d.modGrp fun g => { g with holdTicks := if d.per.pstate = .holdover then g.holdTicks + 1 else 0 }
  { d with rcl := { d.rcl with missed := false } }

end Sys2Proof.Machine
end

