-- ==== Sys2Proof/Machine/Boot.lean ====
section
/-!
DEFINITION. Machine/Boot.lean: power, power-up and reset (R433 to R443, R459 to R463, R469 to R472): the rails, the ROM's
choice of an image slot, the self-test, the orderly shutdown, the sensors, and the fault LED (R466).
-/
namespace Sys2Proof.Machine

def Dev.modPwr (d : Dev) (f : Pwr → Pwr) : Dev := { d with pwr := f d.pwr }

/-! ## What a reset leaves (R391, R435) -/

/-- Every register at its reset value; the module flash, what it holds and the draws made so far stay. -/
def Dev.blank (d : Dev) (p : Pwr) : Dev :=
  { pwr := p, sec := { flash := d.sec.flash, record := d.sec.record, deleg := d.sec.deleg }
    life := { latest := d.life.latest }, net := { link0 := d.net.link0, link1 := d.net.link1 }
    freeCount := d.freeCount, out := d.out }

/-- The power pins and rails; readings and status go. -/
def Pwr.kept (p : Pwr) : Pwr :=
  { rails := p.rails, on := p.on, modEn := p.modEn, inReset := p.inReset, lockedOff := p.lockedOff, rise := p.rise
    holdoff := p.holdoff, range := p.range, supply := p.supply }

/-- A reset of the die or the loss of power: the captures go too (R376). -/
def State.blank (s : State) (f : Dev → Dev) : State :=
  { s with dev := f s.dev, snap := none, ctxSnap := Vector.replicate 16 none }

/-- The rails are off; a rise of MOD_EN waits 100 ms (Table 20-6). -/
def Pwr.off (p : Pwr) (wait : Bool) : Pwr :=
  { p.kept with on := false, rails := 0, range := false, holdoff := wait }

def Dev.powerOff (d : Dev) (wait : Bool) : Dev := d.blank (d.pwr.off wait)

/-! ## The ROM (R439 to R443) -/

/-- The boot record in the flash. -/
def Dev.bootRec (d : Dev) : Option BootRec := match d.sec.record with | some r => some r | none => Config.factoryRecord

/-- An image slot as its statement tells; an empty slot shows zeros. -/
def Dev.readSlot (d : Dev) (b : Bool) (st : SlotSt) : Dev :=
  let t := imgStmt (d.slotImg b)
  if st = .empty then d.setSlot b st 0 0 else d.setSlot b st (stRollback t) (stVersion t)

/-- Read a slot and check it: 7 where the flash cannot be read. -/
def Dev.trySlot (d : Dev) (b : Bool) (floor : Nat) : Nat × Dev :=
  let (bad, d) := d.draw 1
  (if bad = 1 then 7 else d.imgCheck true (d.slotImg b) floor, d)

/-- Start stage 1 from slot `b`; it checks the identity key against the device certificate (R443), whose outcome is free. -/
def Dev.startImage (d : Dev) (b : Bool) : Dev :=
  let (key, d) := d.draw 1
  (d.modSec fun s => { s with
    stage := .loading, slot := b, version := (s.img b).version, lastSlot := b, idOk := s.idOk && decide (key = 1)
    lastFails := if s.lastSlot = b then s.lastFails + 1 else 1 }).saveRec.measImage

def Dev.recover (d : Dev) (reason : Nat) : Dev :=
  d.modSec fun s => { s with stage := .recovery, failReason := BitVec.ofNat 3 reason }

/-- The slot that is tried first: the preferred one, unless its last attempt did not reach service twice in a row and the
other is confirmed. -/
def Sec.firstSlot (s : Sec) : Bool :=
  if s.lastSlot = s.preferred ∧ 2 ≤ s.lastFails ∧ (s.img (!s.preferred)).st = .confirmed then !s.preferred else s.preferred

/-- Select a slot by the record in force (R439). -/
def Dev.selectSlot (d : Dev) : Dev :=
  let s := d.sec
  let first := s.firstSlot
  let fell (d : Dev) (b : Bool) : Dev := d.modSec fun t => { t with fellBack := decide (b ≠ s.preferred) }
  let (e, d) := if (s.img first).st = .trial then (1, d) else d.trySlot first s.floor.toNat
  if e = 0 then (fell d first).startImage first
  else if (s.img (!first)).st ≠ .confirmed then d.recover e
  else
    let (e2, d) := d.trySlot (!first) s.floor.toNat
    if e2 = 0 then ((fell d (!first)).modSec fun t => { t with failReason := BitVec.ofNat 3 e }).startImage (!first)
    else d.recover e

/-- No record is valid: the valid image with the highest VERSION is taken as accepted (R440). -/
def Dev.selectLost (d : Dev) : Dev :=
  let d := d.modSec fun s => { s with recordLost := true }
  let (ea, d) := d.trySlot false 0
  let (eb, d) := d.trySlot true 0
  let va := stVersion (imgStmt (d.slotImg false))
  let vb := stVersion (imgStmt (d.slotImg true))
  if ea ≠ 0 ∧ eb ≠ 0 then d.recover ea
  else
    let b : Bool := if ea ≠ 0 then true else if eb ≠ 0 then false else decide (va < vb)
    let d := (d.readSlot false (if ea = 0 then .confirmed else .invalid)).readSlot true (if eb = 0 then .confirmed else .invalid)
    (d.modSec fun s => { s with preferred := b, floor := (s.img b).rollback, lastSlot := b, lastFails := 0 }).startImage b

/-- The boot ROM: the identity, the record, the slot, the measurements and the Supervisor pairs (Table 19-2). -/
def Dev.rom (d : Dev) : Dev :=
  let (id, d) := d.draw 1
  let (lost, d) := d.draw 1
  let d := (d.drawChal).modSec fun s => { s with idOk := decide (id = 1) }
  let d := (d.modSup 0 fun x => { x with st := .active }).modSup 1 fun x => { x with st := .spare }
  let d := ((((d.setMeas 0 Config.romDigest).measDeleg).measTest).measScope)
  match d.bootRec with
  | none => d.selectLost
  | some r =>
    let d := d.modSec fun s => { s with recordSeq := r.seq }
    if id ≠ 1 ∨ lost = 1 then d.selectLost
    else
      let d := d.modSec fun s => { s with
        preferred := r.preferred, floor := r.floor, lastSlot := r.lastSlot, lastFails := r.lastFails }
      let d := (d.readSlot false r.slotA).readSlot true r.slotB
      (d.setMeas 4 (digestLine (Config.recordBytes r))).selectSlot

/-- The die leaves reset: every register at its reset value, then the ROM. -/
def Dev.boot (d : Dev) : Dev := (d.blank d.pwr.kept).rom

/-! ## Service (R433, R417, R429) -/

/-- Units of `n` that pass, of the bits drawn. -/
def passing (n : Nat) (l : List (Fin n)) (bits : BitVec 208) : List (Fin n) := l.filter fun i => bits.getLsbD i.val

/-- The self-test of the arrays: slot s is held by the s-th array that passes; the rest are spares (R146, R417). -/
def Dev.testArrays (d : Dev) : Dev :=
  let (ok, d) := d.draw 208
  let good := passing 208 (List.finRange 208) ok
  let pool := min 192 good.length
  let slotOf (a : ArrId) : Option (Fin 192) := (List.finRange 192).find? fun s => good[s.val]? = some a
  { d with
    arr := Vector.ofFn fun (a : ArrId) => { d.arr[a] with
      slot := slotOf a
      st := if !ok.getLsbD a.val then .retired else if (slotOf a).isSome then .inService else .spare }
    flt := { d.flt with
      pool := pool
      slot := Vector.ofFn fun (s : Fin 192) => ({ arr := good[s.val]? } : Slot) } }

/-- The self-test of the Clause processor pairs: the first 16 that pass back the logical processors. -/
def Dev.testPairs (d : Dev) : Dev :=
  let (ok, d) := d.draw 208
  let good := passing 18 (List.finRange 18) ok
  let backs (k : Fin 18) : Option CtxId := (List.finRange 16).find? fun c => good[c.val]? = some k
  let d := { d with flt := { d.flt with pair := Vector.ofFn fun (k : Fin 18) => { d.flt.pair[k] with
    logical := backs k
    st := if !ok.getLsbD k.val then .retired else if (backs k).isSome then .active else .spare } } }
  (List.finRange 16).foldl (fun d c => d.modCp c fun p => { p with pair := good[c.val]? }) d

/-- The self-test of the codec engines. -/
def Dev.testEngines (d : Dev) : Dev :=
  let (ok, d) := d.draw 208
  (List.finRange 8).foldl (fun d e => d.modEng e fun x => { x with st := if ok.getLsbD e.val then .inService else .outOfService }) d

/-- Stage 1 has checked the components that the ROM left to it (Table 19-1); with one that fails SERVICE is not reached (DEDUCED,
log entry 112). -/
def Dev.componentsOk (d : Dev) : Bool :=
  let r := d.slotImg d.sec.slot
  (List.range 512).all (imgComponent false r (imgManifest r))

/-- SERVICE_REACHED: the self-test has ended, the power-up image is written, and Period 0 is ticked. -/
def Dev.reachService (d : Dev) : Dev :=
  if d.sec.stage ≠ .loading ∨ !d.pwr.on ∨ d.pwr.inReset ∨ d.dump.halted ∨ d.pwr.shutdown ∨ !d.componentsOk then d
  else
    let d := ((((d.testArrays).testPairs).testEngines).noteReplace).startFlush 3
    let d := (d.modSec fun s => { s with stage := .service, lastFails := 0 }).saveRec
    let t := d.per.now
    let d := { d with per := { d.per with epoch := t, k := 1, lastSrc := t, base := t } }
    d.tickAt t

/-- SERVICE_REACHED (R433). -/
def execServiceReached (s : State) : Host.Outcome State Fault Refusal := s.run Dev.reachService

/-! ## Rails, enable and reset (R433, R435, R461, R463) -/

/-- The power-up sequence starts. -/
def Dev.startRails (d : Dev) : Dev := d.blank { d.pwr.kept with on := true, rails := 0, rise := false }

/-- The voltage at J1 lies in the operating range (R459). -/
def Pwr.supplied (p : Pwr) : Bool := decide (34000 ≤ p.supply ∧ p.supply ≤ 46000)

/-- MOD_EN_ASSERT (R433, R461, Table 20-6): the rails start once the input voltage is within range. -/
def Dev.modEnAssert (d : Dev) : Dev :=
  let was := d.pwr.modEn
  let d := d.modPwr fun p => { p with modEn := true }
  if d.pwr.lockedOff then d
  else if d.pwr.shutdown ∨ d.pwr.holdoff then (if was then d else d.modPwr fun p => { p with rise := true })
  else if d.pwr.on ∨ d.pwr.inReset ∨ !d.pwr.supplied then d
  else d.startRails

def execModEnAssert (s : State) : Host.Outcome State Fault Refusal := s.runS fun s => s.onDev Dev.modEnAssert

/-- RAIL_GOOD (R461): with the last rail the Supervisor is released, unless RST_N holds the die in reset. -/
def execRailGood (s : State) : Host.Outcome State Fault Refusal :=
  s.runS fun s =>
    if !s.dev.pwr.on ∨ 8 ≤ s.dev.pwr.rails then s
    else
      let s := s.onDev fun d => d.modPwr fun p => { p with rails := p.rails + 1 }
      if s.dev.pwr.rails = 8 ∧ !s.dev.pwr.inReset then s.blank Dev.boot else s

/-- RAIL_WINDOW_EXPIRED (R461): the rails fall and the module stays off. -/
def execRailWindowExpired (s : State) : Host.Outcome State Fault Refusal :=
  s.runS fun s =>
    if !s.dev.pwr.on ∨ 8 ≤ s.dev.pwr.rails then s
    else s.blank fun d => (d.powerOff false).modPwr fun p => { p with lockedOff := true }

/-- RST_N_RESET (R435): the whole die resets; an orderly shutdown ignores it. -/
def execRstNReset (s : State) : Host.Outcome State Fault Refusal :=
  s.runS fun s =>
    if s.dev.pwr.shutdown then s
    else if s.dev.pwr.on ∧ s.dev.pwr.rails = 8 then s.blank fun d => d.blank { d.pwr.kept with inReset := true }
    else s.onDev fun d => d.modPwr fun p => { p with inReset := true }

/-- RST_N_RISE (R433): the sequence starts at the ROM step where the rails are up, else at the rails. -/
def execRstNRise (s : State) : Host.Outcome State Fault Refusal :=
  s.runS fun s =>
    if !s.dev.pwr.inReset then s
    else
      let s := s.onDev fun d => d.modPwr fun p => { p with inReset := false }
      let p := s.dev.pwr
      if p.on then (if p.rails = 8 then s.blank Dev.boot else s)
      else if p.modEn ∧ !p.lockedOff ∧ !p.holdoff ∧ p.supplied then s.blank Dev.startRails
      else s

/-- WATCHDOG_RESET (R436): SERVICE has not been reached; the die resets as by RST_N and starts at the ROM step. -/
def execWatchdogReset (s : State) : Host.Outcome State Fault Refusal :=
  s.runS fun s =>
    if s.dev.pwr.on ∧ s.dev.pwr.rails = 8 ∧ !s.dev.pwr.inReset ∧ s.dev.sec.stage ≠ .service ∧ !s.dev.pwr.shutdown then s.blank Dev.boot
    else s

/-! ## Shutdown (R462, R463, R470) -/

/-- An orderly shutdown starts (Table 20-5): nothing starts any more, the links go DOWN without a record, and the lifetime
record is flushed; a flush that a halt has under way is the last one. -/
def Dev.startShutdown (d : Dev) : Dev :=
  let d := { d with
    pwr := { d.pwr with shutdown := true }
    tiles := [], arr := d.arr.map fun (x : Arr) => { x with tile := none, mcast := false }
    port := d.port.map fun (x : Port) => { x with st := if x.st = LnkState.disabled then LnkState.disabled else LnkState.down }
    rcl := { d.rcl with st := .down } }
  let d := d.modGrp fun g => { g with leadTick := none }
  if d.dump.halted ∧ d.life.busy then d else d.startFlush 1

/-- The firmware runs and writes images (R429). -/
def Dev.firmwareRuns (d : Dev) : Bool :=
  d.pwr.on && !d.pwr.inReset && (d.sec.stage = .loading || d.sec.stage = .service)

/-- MOD_EN_DEASSERT (R462, R463). -/
def execModEnDeassert (s : State) : Host.Outcome State Fault Refusal :=
  s.runS fun s =>
    if !s.dev.pwr.modEn then s
    else
      let s := s.onDev fun d => d.modPwr fun p => { p with modEn := false, rise := false }
      let p := s.dev.pwr
      if p.shutdown then s
      else if !p.on then s.onDev fun d => d.modPwr fun p => { p with holdoff := p.holdoff || p.lockedOff }
      else if s.dev.per.started then s.onDev Dev.startShutdown
      else s.blank fun d => d.powerOff true

/-- LIFETIME_FLUSH (R429, R462): when the flush of a shutdown has ended, the rails fall. -/
def execLifetimeFlush (ok : Bool) (s : State) : Host.Outcome State Fault Refusal :=
  s.runS fun s =>
    if !s.dev.firmwareRuns then s
    else
      let s := s.onDev fun d => d.flush ok
      if s.dev.pwr.shutdown ∧ !s.dev.life.busy then s.blank fun d => d.powerOff true else s

/-- MOD_EN_HOLDOFF_ELAPSED (R461, R463, R470): a module that stayed off is free once MOD_EN has been low for 100 ms; a rise
that came before is acted on. -/
def execModEnHoldoffElapsed (s : State) : Host.Outcome State Fault Refusal :=
  s.runS fun s =>
    let p := s.dev.pwr
    if !p.holdoff then s
    else
      let s := s.onDev fun d => d.modPwr fun p => { p with
        holdoff := false, rise := false, lockedOff := p.lockedOff && p.modEn }
      if p.modEn ∧ !p.lockedOff ∧ !p.inReset ∧ p.supplied then s.blank Dev.startRails else s

/-- OVER_TEMPERATURE_TRIP (R470): an orderly shutdown, after which the module stays off. Before the firmware runs, the
rails fall. -/
def execOverTemperatureTrip (s : State) : Host.Outcome State Fault Refusal :=
  s.runS fun s =>
    if !s.dev.pwr.on ∨ s.dev.pwr.shutdown then s
    else
      let s := s.onDev fun d => d.modPwr fun p => { p with trip := true, lockedOff := true }
      if s.dev.firmwareRuns then s.onDev Dev.startShutdown else s.blank fun d => d.powerOff true

/-- INPUT_OUT_OF_RANGE (Table 20-2), in mV: RANGE, or the loss of every rail, the image being written included. With a voltage in
the range it tells that the input is back: a module that is off with MOD_EN asserted starts (R433). -/
def execInputOutOfRange (mv : Int) (s : State) : Host.Outcome State Fault Refusal :=
  s.runS fun s =>
    let s := s.onDev fun d => d.modPwr fun p => { p with supply := mv }
    let p := s.dev.pwr
    if !p.on then
      if p.supplied ∧ p.modEn ∧ !p.lockedOff ∧ !p.holdoff ∧ !p.inReset then s.blank Dev.startRails else s
    else if 32000 ≤ mv ∧ mv ≤ 48000 then s.onDev fun d => d.modPwr fun p => { p with range := !p.supplied }
    else s.blank fun d => d.powerOff true

/-! ## Sensors (R428, R469, R471, R472) -/

def maxSigned (a b : BitVec 16) : BitVec 16 := if a.slt b then b else a
def maxPlain (a b : BitVec 16) : BitVec 16 := if a < b then b else a

/-- A reading each millisecond: last values, highest values, WARN and RANGE. -/
def Pwr.sample (p : Pwr) (r : Reading) (warnC : Nat) : Pwr :=
  let temp := Vector.ofFn fun (i : Fin 74) => r.temps.getD i.val 0
  let cons := Vector.ofFn fun (i : Fin 8) => r.cons.getD i.val 0
  { p with
    temp := temp, tempMax := Vector.ofFn fun (i : Fin 74) => maxSigned p.tempMax[i] temp[i]
    cons := cons, consMax := Vector.ofFn fun (i : Fin 8) => maxPlain p.consMax[i] cons[i]
    vin := r.vin, iin := r.iin, pin := r.pin, pinMax := maxPlain p.pinMax r.pin
    warn := decide ((16 * warnC : Int) ≤ (hotDie temp).toInt)
    range := decide (r.vin.toNat < 34000 ∨ 46000 < r.vin.toNat) }

/-- The die is powered and out of reset. -/
def Dev.awake (d : Dev) : Bool := d.pwr.on && !d.pwr.inReset && d.pwr.rails = 8

/-- SENSOR_SAMPLE (R471, R472). -/
def execSensorSample (r : Reading) (s : State) : Host.Outcome State Fault Refusal :=
  s.run fun d => if d.awake then d.modPwr fun p => p.sample r (d.lexVal 0x2902 4) else d

/-- The temperature bin and the voltage bin of a second (R428). -/
def tempBin (t : BitVec 16) : Nat := min 127 (t.toInt / 16).toNat
def voltBin (mv : BitVec 16) : Nat := min 255 ((mv.toNat - 25000) / 100)

def addBin (i : Nat) (h : List (Nat × Nat)) : List (Nat × Nat) := alPut 0 i (holdAt 32 (alGet 0 h i + 1)) h

/-- HISTOGRAM_SECOND (R428, R429): a powered second. -/
def Life.second (l : Life) (p : Pwr) : Life :=
  { l with
    hist := addBin (128 + voltBin p.vin) (addBin (tempBin (hotDie p.temp)) l.hist)
    powered := l.powered + 1, sinceImage := l.sinceImage + 1, nextS := if l.nextS = 0 then 0 else l.nextS - 1 }

def execHistogramSecond (s : State) : Host.Outcome State Fault Refusal :=
  s.run fun d => if d.awake then { d with life := d.life.second d.pwr } else d

/-! ## The fault LED (R466) -/

inductive Led | on | hz2 | halfHz | off
deriving DecidableEq, Repr

/-- The mode of FAULT_LED_N (Table 20-8). -/
def Dev.faultLed (d : Dev) : Led :=
  if !d.pwr.on ∨ d.pwr.inReset then .off
  else if d.flt.fatal then .on
  else if !d.per.started then .on
  else if (leNat (d.lexLive 0x1001 0)).testBit 0 then .hz2
  else if d.flt.replace ≠ 0 then .halfHz
  else .off

end Sys2Proof.Machine
end

