-- ==== Sys2Proof/Machine/Failover.lean ====
section
/-!
DEFINITION. Machine/Failover.lean: what takes work over: a Clause processor pair from one that failed (R147, R172, R408), and
an array from one whose slot was copied (R405, R406). Tiles that wait are placed on what it leaves free (R45).
-/
namespace Sys2Proof.Machine

/-- The port of the array that was copied did not answer: each word that has not been written since reads as poisoned (R406). -/
def Dev.deadCopy (d : Dev) (b : ArrId) (written : List Nat) : Dev :=
  (List.range (padSize / 8)).foldl (fun d i => if written.contains i then d else d.padPoison b (padKey b.val (8 * i))) d

/-- SLOT_COPY_DONE (R405, R406): the slot moves to the new array. -/
def Dev.slotCopyDone (d : Dev) (s : Fin 192) (dead : Bool) : Dev :=
  match d.flt.slot[s].arr, d.flt.slot[s].copyTo with
  | some a, some b =>
    let d := if dead then d.deadCopy b d.flt.slot[s].written else d
    let old := d.arr[b].slot
    let d := d.modSlot s fun _ => { arr := some b }
    let d := d.modArr b fun x => { x with slot := some s, moveTo := none }
    let d := d.modArr a fun x => { x with slot := none, testing := if x.st = .test then true else x.testing }
    let d := d.count 12
    let d := match old with | some h => d.vacate h a | none => d
    (d.kickMoves).startZeroing.place
  | _, _ => d

/-- No pair backs the context any longer: what it fetched completes with DEPENDENCY_FAILED (R408). -/
def Dev.losePair (d : Dev) (c : CtxId) : Dev :=
  let old := d.ctx[c].cp.pair
  let d := match old with
    | some o => d.modPair o fun x => { x with st := .test, logical := none, testing := true }
    | none => d
  let d := d.event .fault 0x0310 (BitVec.ofNat 64 (match old with | some o => o.val | none => 0xFF)) 0xFF
  let d := d.modCtx c fun x => { x with
    noPair := true, cp := { x.cp with
      pair := none, failed := false, st := .idle, prog := none, ended := [], escape := [], ckpt := none, drained := false
      twait := none, r := { x.cp.r with loads := [] } } }
  let mine := d.cmds.filter fun x => x.c = c
  let d := d.dropWork (mine.map (·.id))
  let d := mine.foldl (fun d x => (d.releaseQueue x).endCmd x.id stDepFailed x.flags) d
  ((d.returnPages .unit c).place).settleColls

/-- LOCKSTEP_COMPARE_FAILURE (R172): the pair stops, and what has not escaped is discarded. A pair that fails while it takes over
from another gives way to the next (R408). -/
def Dev.lockstepFail (d : Dev) (c : CtxId) : Dev :=
  let d := match d.ctx[c].cp.failed, d.sparePair with
    | true, some k => d.backWith c k
    | _, _ => d
  match d.ctx[c].cp.pair with
  | none => d
  | some k =>
      let d := d.modPair k fun x => { x with fails := satInc x.fails, failTimes := d.per.now :: x.failTimes }
      let d := d.modCp c fun p => { p with failed := true, st := .failover, escape := [], ckpt := none, drained := false }
      let d := { d with tiles := d.tiles.map fun (t : Tile) => if t.c = c then { t with cpFailed := true } else t }
      match d.sparePair with
      | some _ => d
      | none => (d.losePair c).noteReplace

/-- CP_FAILOVER (R147, R172, R408): a spare pair resumes from the last durable checkpoint; the tiles expanded and not
committed await to be expanded again. -/
def Dev.cpFailover (d : Dev) (c : CtxId) : Dev :=
  if !d.ctx[c].cp.failed then d
  else match d.sparePair with
    | none => (d.losePair c).noteReplace
    | some k =>
      let d := d.backWith c k
      let d := d.modCp c fun p => { p with
        failed := false, r := p.durable, twait := none, awaited := 0
        st := if p.prog.isSome then .running else .idle
        prog := p.prog.map fun g => { g with ending := false, faulted := none } }
      let d := { d with tiles := d.tiles.map fun (t : Tile) =>
        if t.c = c ∧ t.phase = TilePhase.held then
          { t with phase := .lost, retry := false, firstRows := [], firstArr := none } else t }
      (d.recovered).noteReplace.place

/-- LOCKSTEP_COMPARE_FAILURE (R172). -/
def execLockstepCompareFailure (c : CtxId) (s : State) : Host.Outcome State Fault Refusal :=
  s.run fun d => d.inService fun d => d.lockstepFail c

/-- CP_FAILOVER (R408). -/
def execCpFailover (c : CtxId) (s : State) : Host.Outcome State Fault Refusal :=
  s.run fun d => d.inService fun d => d.cpFailover c

/-- SLOT_COPY_DONE (R405). -/
def execSlotCopyDone (slot : Fin 192) (s : State) (dead : Bool := false) : Host.Outcome State Fault Refusal :=
  s.run fun d => d.inService fun d => d.slotCopyDone slot dead

end Sys2Proof.Machine
end

