-- ==== Sys2Proof/Machine/Field.lean ====
section
/-!
DEFINITION. Machine/Field.lean: the field network (R395, R398, R399): the EtherCAT state machine, the links of the two ports
and the distributed-clock registers that the MainDevice writes.
-/
namespace Sys2Proof.Machine

/-- The EtherCAT SubDevice runs: the die is powered and the firmware has booted (Table 19-2). -/
def Dev.fieldRuns (d : Dev) : Bool :=
  d.pwr.on && !d.pwr.inReset && (d.sec.stage = .loading || d.sec.stage = .service)

/-- The answer to a request for a state: the state taken and the AL status code. BOOT is refused with 0x0011 (Table 16-7);
a state is left downward or one step upward, as in ETG.1000. -/
def alAnswer (now want : BitVec 4) : BitVec 4 × BitVec 16 :=
  let known : Bool := want = 1 || want = 2 || want = 4 || want = 8
  if want = 3 then (now, 0x0011)
  else if !known then (now, 0x0012)
  else if want ≤ now ∨ want = 2 * now then (want, 0)
  else (now, 0x0011)

/-- AL_STATE_REQUEST (R395): in INIT the mailbox is gone, and with it an upload that waits. -/
def Dev.alRequest (d : Dev) (want : BitVec 4) : Dev :=
  let (st, code) := alAnswer d.net.al want
  let d := { d with net := { d.net with al := st, alCode := code } }
  let d := if st = 1 then { d with lex := { d.lex with coeWait := none } } else d
  d.emit (.al st code)

def execAlStateRequest (st : BitVec 4) (s : State) : Host.Outcome State Fault Refusal :=
  s.run fun d => if d.fieldRuns then d.alRequest st else d

/-- FIELD_PORT_LINK (R398, R399). -/
def execFieldPortLink (p : Fin 2) (up : Bool) (s : State) : Host.Outcome State Fault Refusal :=
  s.run fun d => { d with net := if p = 0 then { d.net with link0 := up } else { d.net with link1 := up } }

/-- Width in bytes of the distributed-clock registers of the ESC; 0 for another address. -/
def escWidth (adr : Nat) : Nat :=
  match adr with
  | 0x981 => 1
  | 0x9A0 | 0x9A4 => 4
  | 0x920 | 0x990 => 8
  | _ => 0

/-- ETHERCAT_DATAGRAM (R398): the MainDevice writes a distributed-clock register. -/
def Dev.escWrite (d : Dev) (adr value : Nat) : Dev :=
  if escWidth adr = 0 then d
  else { d with net := { d.net with esc := alPut 0 adr (value % 256 ^ escWidth adr) d.net.esc } }

def execEthercatDatagram (adr : BitVec 16) (value : BitVec 64) (s : State) : Host.Outcome State Fault Refusal :=
  s.run fun d => if d.fieldRuns then d.escWrite adr.toNat value.toNat else d

end Sys2Proof.Machine
end

