-- ==== Sys2Proof/Machine/Period.lean ====
section
/-!
DEFINITION. Machine/Period.lean: where ticks come from (R22 to R28, R306, R398): the internal generator, the acceptance of
source events, holdover, acquiring, TICK flits and the tick lead; and the small events of a Period (R43, R50, R465).
-/
namespace Sys2Proof.Machine

/-! ## Times, in exact multiples of T = tnum ÷ num ns -/

/-- `x` ns is less than 0.995 T. -/
def Period.early (p : Period) (x : Nat) : Bool := decide (1000 * p.num * x < 995 * p.tnum)
/-- `x` ns is at most 1.005 T. -/
def Period.inTime (p : Period) (x : Nat) : Bool := decide (1000 * p.num * x ≤ 1005 * p.tnum)
/-- `x` ns is at least 0.5 T and at most 1.5 T. -/
def Period.firstOk (p : Period) (x : Nat) : Bool := decide (p.tnum ≤ 2 * p.num * x ∧ 2 * p.num * x ≤ 3 * p.tnum)
/-- `x` ns is at most 0.005 T (R26). -/
def Period.tie (p : Period) (x : Nat) : Bool := decide (200 * p.num * x ≤ p.tnum)

/-- T_m in whole ns, rounded down (DESIGN CHOICE, log entry 85): the mean of the last 16 accepted intervals, T until there are
16 (R26). -/
def Period.tm (p : Period) : Nat :=
  if p.intervals.length = 16 then p.intervals.sum / 16 else p.tnum / p.num

/-- The source time of the next holdover tick. -/
def Period.nextHold (p : Period) : Nat := p.base + p.tm
/-- 1.005 T and 1.5 T after the last tick, in source time, rounded up to whole ns (DESIGN CHOICE, log entry 85). -/
def Period.late (p : Period) : Nat := p.lastSrc + cdiv (1005 * p.tnum) (1000 * p.num)
def Period.giveUp (p : Period) : Nat := p.lastSrc + cdiv (3 * p.tnum) (2 * p.num)

def Dev.modPer (d : Dev) (f : Period → Period) : Dev := { d with per := f d.per }

/-! ## Making a tick -/

/-- The group Period number of the next tick at the Head (R308). -/
def Dev.nextG (d : Dev) : DWord := if d.grp.sincePowerUp then d.per.number + 1 else d.grp.gperiod + 1

/-- The TICK flits of the Head (Table 13-3). -/
def Dev.sendTicks (d : Dev) : Dev :=
  let m : GrpMsg := .tick d.nextG.toNat d.per.rate (BitVec.ofNat 8 d.per.pstate.code) d.grp.module d.grp.lead.toNat d.per.num d.per.den
  d.others.foldl (fun d x => d.sendMsg x m) d

/-- A tick that waits for the tick lead. -/
def Dev.leadWait (d : Dev) (src delay : Nat) : Dev :=
  (d.modPer fun p => { p with now := max p.now src }).modGrp fun g => { g with leadTick := some (src, src + delay) }

/-- The Kraip ticks by its own means at source time `src`: a Head sends its TICK flits and waits for the lead; a Dependent
in HOLDOVER keeps its distance to the source time; any other module ticks at once (R306). -/
def Dev.ownTick (d : Dev) (src : Nat) : Dev :=
  let dist : Nat := if d.per.source = 3 && !d.isHead then d.per.lastTick - d.per.lastSrc else 0
  let d := d.modPer fun p => { p with lastSrc := src, base := src }
  if d.leads then (d.sendTicks).leadWait src d.grp.lead.toNat else d.tickAt (src + dist)

/-- A tick source row applies: the block is in service and no tick waits for its lead. -/
def Dev.canTick (d : Dev) : Bool := d.serving && d.per.started && d.grp.leadTick.isNone

/-- INTERNAL_TICK (R24): tick k at floor(k × 10^9 × den ÷ num) ns after the epoch. -/
def execInternalTick (s : State) : Host.Outcome State Fault Refusal :=
  s.run fun d =>
    if d.canTick ∧ d.per.source = 0 then
      (d.modPer fun p => { p with k := p.k + 1 }).ownTick (d.per.epoch + d.per.k * d.per.tnum / d.per.num)
    else d

/-! ## Source events (R25 to R28) -/

/-- What a source event comes to. -/
inductive SrcAct | nothing | accepted | tick
deriving DecidableEq, Repr

/-- A tied event ends the run; the second tied event with none outside the window between them locks (R26, R27); ticks with
no event may lie between the two (DEDUCED, log entry 85). -/
def Dev.tied (d : Dev) : Dev :=
  let d := d.modPer fun p => { p with run := 0, runLast := 0, ties := p.ties + 1 }
  if 2 ≤ d.per.ties then (d.modPer fun p => { p with ties := 0 }).setPState .locked else d

/-- An event outside the tie window: counted, measured and taken into the run (R27). -/
def Dev.outside (d : Dev) (e : Nat) : SrcAct × Dev :=
  let p := d.per
  let gap := e - p.runLast
  let goesOn : Bool := decide (p.run ≠ 0) && !p.early gap && p.inTime gap
  let d := (d.count 2).modPer fun p => { p with
    ties := 0, run := if goesOn then p.run + 1 else 1, runLast := e
    lastInterval := if p.run ≠ 0 then gap else p.lastInterval }
  if d.per.run < 8 then (.nothing, d)
  else
    let d := (d.modPer fun p => { p with run := 0, runLast := 0, newSetting := false }).setPState .acquiring
    if d.per.tnum ≤ 2 * d.per.num * (e - d.per.lastSrc) then (.tick, d.setPState .locked) else (.nothing, d)

/-- A source event at time `e`. An event that is turned away in ACQUIRING is counted as ignored (DEDUCED, log entry 86); the
last measured interval is that of an event accepted in LOCKED, or of an event outside the tie window after another
(DEDUCED, log entry 88). -/
def Dev.sourceArrives (d : Dev) (e : Nat) : SrcAct × Dev :=
  let p := d.per
  let x := e - p.lastSrc
  match p.pstate with
  | .freeRun => (.nothing, d)
  | .locked =>
    if p.early x then (.nothing, d.count 2)
    else if p.inTime x then
      (.tick, d.modPer fun p => { p with intervals := (x :: p.intervals).take 16, lastInterval := x })
    else (.nothing, d)
  | .acquiring =>
    if p.firstOk x then (.tick, (d.modPer fun p => { p with newSetting := false }).setPState .locked)
    else (.nothing, d.count 2)
  | .holdover =>
    if p.tie (p.nextHold - e) ∧ p.tie (e - p.nextHold) then (.tick, d.tied)
    else if p.tie x then (.accepted, (d.modPer fun p => { p with base := e }).tied)
    else d.outside e

/-- SOURCE_EVENT (R25, R398, R465): a selected SYNC_IN edge, or a SYNC0 event with its system time. -/
def Dev.sourceEvent (d : Dev) (k : SrcKind) (t sys : Nat) : Dev :=
  let e := max d.per.now t
  let d : Dev := match k with | .sync0 => d.syncPulse 0x2009 e | .syncIn => d
  let usable : Bool := match k with
    | .syncIn => decide (d.per.source = 1)
    | .sync0 => decide (d.per.source = 2 ∧ (d.net.al = 4 ∨ d.net.al = 8)) && d.sync0Active &&
        (match d.net.lastSys with | some y => decide (y < sys) | none => true)
  if !usable ∨ !d.canTick then d
  else
    let d := if k = .sync0 then { d with net := { d.net with lastSys := some sys } } else d
    match d.sourceArrives (e + 120) with
    | (.tick, d) => d.ownTick (e + 120)
    | (_, d) => d

def execSourceEvent (k : SrcKind) (t sys : Nat) (s : State) : Host.Outcome State Fault Refusal :=
  s.run fun d => if d.serving then d.sourceEvent k t sys else d

/-! ## Ticks that the Kraip makes for want of events -/

/-- HOLDOVER is entered anew: no event is tied, no run counts. -/
def Dev.intoHoldover (d : Dev) : Dev :=
  (d.modPer fun p => { p with ties := 0, run := 0, runLast := 0, newSetting := false }).setPState .holdover

/-- HOLDOVER_ENTRY (R25). -/
def execHoldoverEntry (s : State) : Host.Outcome State Fault Refusal :=
  s.run fun d =>
    if d.canTick ∧ d.per.pstate = .locked then ((d.count 3).intoHoldover).ownTick d.per.late else d

/-- HOLDOVER_TICK (R26). -/
def execHoldoverTick (s : State) : Host.Outcome State Fault Refusal :=
  s.run fun d => if d.canTick ∧ d.per.pstate = .holdover then d.ownTick d.per.nextHold else d

/-- ACQUIRE_TIMEOUT (R27): it stays in HOLDOVER. -/
def execAcquireTimeout (s : State) : Host.Outcome State Fault Refusal :=
  s.run fun d =>
    if d.canTick ∧ d.per.pstate = .acquiring ∧ !d.per.newSetting then d.intoHoldover.ownTick d.per.giveUp else d

/-- NEW_SETTING_TIMEOUT (R28). -/
def execNewSettingTimeout (s : State) : Host.Outcome State Fault Refusal :=
  s.run fun d =>
    if d.canTick ∧ d.per.pstate = .acquiring ∧ d.per.newSetting then ((d.count 3).intoHoldover).ownTick d.per.giveUp else d

/-! ## TICK flits and the lead (R306, R308) -/

/-- What a TICK flit tells of its sender (R305, R306). -/
def Dev.tickTells (d : Dev) (rate : BitVec 8) (head : ModId) (lead : Nat) : Dev :=
  let mine : Bool := !d.isHead && d.headFor head
  (d.modGrp fun g => { g with
    tickFrom := some head, headRate := if mine then rate else g.headRate
    lead := if mine then BitVec.ofNat 16 lead else g.lead }).reckonRole

/-- TICK_FLIT (R306): a Dependent ticks at the arrival plus L_T − d_m. -/
def Dev.tickFlit (d : Dev) (t gperiod : Nat) (rate : BitVec 8) (head : ModId) (lead : Nat) : Dev :=
  let e := max d.per.now t
  let d := d.tickTells rate head lead
  if d.isHead ∨ !d.headFor head ∨ d.per.source ≠ 3 ∨ !d.canTick then d
  else
    let take (d : Dev) : Dev := d.modGrp fun g => { g with gperiod := BitVec.ofNat 64 gperiod, lastG := BitVec.ofNat 64 gperiod }
    match d.sourceArrives e with
    | (.tick, d) => ((take d).modPer fun p => { p with lastSrc := e, base := e }).leadWait e d.tickDelay
    | (.accepted, d) => take d
    | (.nothing, d) => d

def execTickFlit (t gperiod : Nat) (rate _hstate : BitVec 8) (head : ModId) (lead _num _den : Nat) (s : State) :
    Host.Outcome State Fault Refusal :=
  s.run fun d => if d.serving then d.tickFlit t gperiod rate head lead else d

/-- TICK_LEAD_ELAPSED (R306). -/
def execTickLeadElapsed (s : State) : Host.Outcome State Fault Refusal :=
  s.run fun d =>
    match d.grp.leadTick with
    | some (_, t) => if d.serving then (d.modGrp fun g => { g with leadTick := none }).tickAt t else d
    | none => d

/-! ## Small events of a Period -/

/-- The first zeroing of a context's freed share that has not ended ends. -/
def endZeroing (c : CtxId) : List Zeroing → List Zeroing
  | [] => []
  | z :: l => if z.c = c ∧ !z.done then { z with done := true } :: l else z :: endZeroing c l

/-- SHARE_ZEROED (R43): the freed share reads zero in every scratchpad; its range is free at the next tick. -/
def Dev.shareZeroed (d : Dev) (c : CtxId) : Dev :=
  match d.zeroing.find? fun z => z.c = c && !z.done with
  | none => d
  | some z =>
    let d := { d with zeroing := endZeroing c d.zeroing }
    (List.finRange 208).foldl (fun d a => d.storePad a z.base (List.replicate (z.units * 262144) 0)) d

def execShareZeroed (c : CtxId) (s : State) : Host.Outcome State Fault Refusal :=
  s.run fun d => d.inService fun d => d.shareZeroed c

/-- SYNC_OUT_PULSE_END (R465). -/
def execSyncOutPulseEnd (s : State) : Host.Outcome State Fault Refusal :=
  s.run fun d =>
    if d.per.syncOutHigh then
      (d.modPer fun p => { p with syncOutHigh := false, now := max p.now p.pulseEnd }).emit (.syncOut false)
    else d

/-- COMPARATOR_FIRE (R50): a comparator that is held and armed reaches its offset, once in the Period; that of codec pacing
opens the codec reserve (R344). -/
def Dev.fire (d : Dev) (i : Fin 8) : Dev :=
  let x := d.cmp[i]
  if !x.armed ∨ x.fired then d
  else
    let latch (w : Twait) : Twait := if w.ci.toNat = i.val then { w with fired := true } else w
    let d := { d with ctx := d.ctx.map fun (y : Ctx) => { y with cp := { y.cp with twait := y.cp.twait.map latch } } }
    let d := (d.modCmp i fun y => { y with fired := true }).modPer fun p => { p with now := max p.now (p.lastTick + x.offset) }
    if x.holder = 0x2510 then { d with cod := { d.cod with reserve := true } } else d

def execComparatorFire (i : Fin 8) (s : State) : Host.Outcome State Fault Refusal :=
  s.run fun d => d.inService fun d => d.fire i

end Sys2Proof.Machine
end

