-- ==== Sys2Proof/Machine/Rcl.lean ====
section
/-!
DEFINITION. Machine/Rcl.lean: the companion link (R346 to R353): its state, the messages of Table 15-4 that the companion
sends, and the directory.
-/
namespace Sys2Proof.Machine

/-! ## The state of the link (R347, R348) -/

/-- The die is powered, out of reset and not shutting down. -/
def Dev.powered (d : Dev) : Bool := d.pwr.on && !d.pwr.inReset && !d.pwr.shutdown

/-- The link changes state, with its event (R347). -/
def Dev.rclState (d : Dev) (st : RclSt) : Dev :=
  let old := d.rcl.st
  if old = st then d
  else Dev.event { d with rcl := { d.rcl with st := st } } .rcl 0x0600 0 (BitVec.ofNat 32 (256 * old.code + st.code))

/-- The link goes DOWN: S lines are dropped, M lines and E lines stay (R348). -/
def Dev.rclFall (d : Dev) : Dev :=
  let d := d.rclState .down
  let x := d.rcl
  { d with rcl := { x with
    lines := x.lines.filter fun (l : Nat × LineSt) => !decide (l.2 = .s)
    retraining := false, asking := false, seq := 0xFFF, ack := 0xFFF, replay := [] } }

/-- A lane fails (R347). -/
def Dev.rclLaneFailed (d : Dev) (lane : Fin 16) : Dev :=
  let upper : Bool := decide (8 ≤ lane.val)
  match d.rcl.st with
  | .up16 =>
    let d := d.rclState .up8
    (({ d with rcl := { d.rcl with half := !upper, dropped := true, retraining := true, retrains := satInc d.rcl.retrains } }).count 24).noteReplace
  | .up8 => if upper = d.rcl.half then d.rclFall else d
  | _ => d

/-- The retrain to the surviving half ends (R347). -/
def Dev.rclRetrained (d : Dev) : Dev :=
  if d.rcl.retraining then Dev.recovered { d with rcl := { d.rcl with retraining := false } } else d

/-- A training attempt while DOWN: success leaves the link in TRAIN until it is up (R348). -/
def Dev.rclTrain (d : Dev) (ok : Bool) : Dev :=
  if d.rcl.st ≠ .down ∨ !d.powered then d
  else if ok then d.rclState .train else (d.rclState .train).rclState .down

/-- Modified lines go back to the companion (R348). -/
def Dev.writeBack (d : Dev) : Dev :=
  let ms := d.rcl.lines.filter fun (l : Nat × LineSt) => l.2 = .m
  let d := ms.foldl (fun d l => d.rclSend (.returnLine l.1 (Line.ofBytes (d.mem.read l.1 64)) (d.mem.bad l.1))) d
  { d with rcl := { d.rcl with lines := d.rcl.lines.filter fun (l : Nat × LineSt) => l.2 ≠ .m } }

/-- Every monitored line is asked for again, and so is what was not answered. -/
def Dev.askAgain (d : Dev) : Dev :=
  let asks := d.rcl.asks
  let d := asks.foldl (fun d a => d.rclSend (.ask a.kind a.addr)) d
  let d := d.rcl.probes.foldl (fun d (p : Probe) =>
    d.rclSend (if p.drop then .probeDrop p.addr else .probeDemote p.addr)) d
  d.rcl.monitor.foldl (fun d l => d.ask l .monitor) d

/-- Queues and rings go on: control blocks are read, records that waited are written, entries are fetched. -/
def Dev.resumeQueues (d : Dev) : Dev :=
  let d := allQueues.foldl (fun d p =>
    ((d.finishEnable p.1 p.2).drainRecs p.1 p.2 ((d.ctx[p.1].queue[p.2]).recs.length)).issueReads p.1 p.2 64) d
  ((List.finRange 16).foldl (fun d c => d.finishRing (some c)) d).finishRing none

/-- The link returns (R347, R348). -/
def Dev.rclReturn (d : Dev) : Dev :=
  if d.rcl.st ≠ .train ∨ !d.powered then d
  else (((d.rclState (if d.rcl.dropped then .up8 else .up16)).writeBack).askAgain).resumeQueues

/-! ## The companion reads and writes LPDDR (R350 to R353) -/

def apertureTop : Nat := 0x16800000000

/-- A full directory sends PROBE_DROP for the entry allocated longest ago (R351); an entry leaves as its probe is answered. -/
def dirMax : Nat := 262144
def Dev.dirEvict (d : Dev) : Dev :=
  let kept := d.rcl.dir.filter fun (e : Nat × Bool) => !d.rcl.probes.any fun (p : Probe) => p.addr = e.1 && p.drop
  if kept.length < dirMax then d
  else
    match kept with
    | (l, _) :: _ => d.probe l true
    | [] => d

/-- The directory's entry for a line, allocated where there is none. -/
def Dev.dirPut (d : Dev) (line : Nat) (sole : Bool) : Dev :=
  if d.rcl.dir.any fun e => e.1 = line then
    { d with rcl := { d.rcl with dir := d.rcl.dir.map fun e => if e.1 = line then (line, sole) else e } }
  else
    let d := d.dirEvict
    { d with rcl := { d.rcl with dir := d.rcl.dir ++ [(line, sole)] } }

/-- Answer a read of a line; a poisoned line leaves with POISON set (R353). The sparing reserve is the controllers' alone: it
reads as a protected region does (R251, R252; DEDUCED, log entry 100). -/
def Dev.answerLine (d : Dev) (line : Nat) : Dev :=
  if d.region line = .reserve then (d.protected line).rclSend (.ansLine line 0 false)
  else
  let bad := d.mem.bad line
  let d := if bad then Dev.poisonedRead { d with rcl := { d.rcl with poisonOut := satInc d.rcl.poisonOut } } line else d
  d.rclSend (.ansLine line (Line.ofBytes (d.mem.read line 64)) bad)

/-- The Kraip serves its home: the windows' regions are open and the address is LPDDR. -/
def Dev.atHome (d : Dev) (addr : Nat) (f : Nat → Dev → Dev) : Dev :=
  if d.windowsOpen ∧ addr < apertureTop then f (addr - addr % 64) d else d

/-- The companion takes a copy of a line, S or O. -/
def Dev.companionGet (d : Dev) (line : Nat) (sole : Bool) : Dev :=
  (d.dirPut line sole).answerLine line

def Dev.dirForget (d : Dev) (line : Nat) : Dev :=
  { d with rcl := { d.rcl with dir := d.rcl.dir.filter fun (e : Nat × Bool) => e.1 ≠ line } }

/-- The companion writes bytes of a line; the firmware region and the sparing reserve take none (R252, R351). -/
def Dev.companionPut (d : Dev) (line : Nat) (bs : List (Nat × List Byte)) (poison : Bool) : Dev :=
  let d := if poison then { d with rcl := { d.rcl with poisonIn := satInc d.rcl.poisonIn } } else d
  match d.region line with
  | .software =>
    let d := bs.foldl (fun d p => d.lpddrPut (line + p.1) p.2 false) d
    let d := if poison then { d with mem := d.mem.setPoison line } else d
    d.rclSend (.ansDone line)
  | _ => (d.protected line).rclSend (.ansDone line)

/-- The bytes a mask selects. -/
def maskedBytes (line : Line) (mask : BitVec 64) : List (Nat × List Byte) :=
  line.bytes.zipIdx.filterMap fun b => if mask.getLsbD b.2 then some (b.2, [b.1]) else none

/-- PUT_BYTES writes the bytes its mask selects. -/
def Dev.companionPutBytes (d : Dev) (line : Nat) (bytes : Line) (mask : BitVec 64) (poison : Bool) : Dev :=
  d.companionPut line (maskedBytes bytes mask) poison

/-- A modified line comes back: what the Kraip has written since it probed stays (R351). -/
def Dev.mergeReturned (d : Dev) (line : Nat) (bytes : Line) (poison : Bool) : Dev :=
  let mask := d.rcl.probes.foldl (fun m (p : Probe) => if p.addr = line then m ||| p.mask else m) 0
  let back := bytes.bytes.zipIdx.filterMap fun b =>
    if mask.getLsbD (2 * b.2) && mask.getLsbD (2 * b.2 + 1) then none
    else some (b.2, [halfMerge mask b.2 (memByte d.mem.cells (line + b.2)) b.1])
  (d.companionPut line back poison).fillLoads line (some bytes)

/-- RETURN of a line the companion holds in O. -/
def Dev.companionReturn (d : Dev) (line : Nat) (bytes : Line) (poison : Bool) : Dev :=
  if d.rcl.dir.contains (line, true) then (d.mergeReturned line bytes poison).dirForget line else d

/-! ## Probes of the companion (R352) -/

/-- The companion demands a line of its own memory: a modified line goes back, and with `keep` a clean copy stays. -/
def Dev.probed (d : Dev) (addr : Nat) (keep : Bool) : Dev :=
  let line := addr - addr % 64
  if !d.rclUp ∨ line < 2 ^ 51 then d
  else
    let st := d.lineState line
    let bad := d.mem.bad line
    let rest := d.rcl.lines.filter fun (l : Nat × LineSt) => l.1 ≠ line
    let lines := if keep && st.isSome then rest ++ [(line, .s)] else rest
    let d := { d with rcl := { d.rcl with lines := lines } }
    let d := if st = some .m then
        Dev.rclSend { d with rcl := { d.rcl with poisonOut := if bad then satInc d.rcl.poisonOut else d.rcl.poisonOut } }
          (.ansLine line (Line.ofBytes (d.mem.read line 64)) bad)
      else d.rclSend (.ansDone line)
    if !keep && d.rcl.monitor.contains line then d.ask line .monitor else d

/-! ## Answers to the Kraip -/

/-- A probe of an LPDDR line has been answered (R351). -/
def Dev.probeDone (d : Dev) (line : Nat) : Dev :=
  let drop := d.rcl.probes.any fun (p : Probe) => p.addr = line && p.drop
  let dir := if drop then d.rcl.dir.filter fun (e : Nat × Bool) => e.1 ≠ line
    else d.rcl.dir.map fun (e : Nat × Bool) => if e.1 = line then (line, false) else e
  { d with rcl := { d.rcl with dir := dir, probes := d.rcl.probes.filter fun (p : Probe) => p.addr ≠ line } }

/-- Flits kept until a line is at hand are tried again. -/
def Dev.resumeFlits (d : Dev) : Dev := if d.serving then d.redeliver else d

/-- ANS_DONE: a probe is done, or a request of a line that is held in S now holds it alone. -/
def Dev.answered (d : Dev) (addr : Nat) : Dev :=
  let line := addr - addr % 64
  if !d.rclUp then d
  else if line < 2 ^ 51 then (d.probeDone line).resumeFlits
  else if d.rcl.asks.any (fun a => a.addr = line && a.kind = .sole) && (d.lineState line).isSome then
    let written : Bool := d.rcl.asks.any fun a => a.addr = line && a.kind = .sole && a.mask ≠ 0
    (d.endAsk line .sole).cacheLine line (if written then .m else .e)
  else d

/-- The queue or ring whose monitored line has been re-read acts on it (R360, R367, R369). -/
def Dev.monitorRead (d : Dev) (line : Nat) (v : Line) (poison : Bool) : Dev :=
  let d := allQueues.foldl (fun d p =>
    let x := d.ctx[p.1].queue[p.2]
    if x.st = .enabled ∧ x.lineAddr 1 = line then d.tailLine p.1 p.2 v poison
    else if x.cplLine = line then d.cplRdLine p.1 p.2 v poison else d) d
  let rings : List (Option CtxId) := none :: (List.finRange 16).map some
  rings.foldl (fun d r => if (d.ringOf r).st = .enabled ∧ (d.ringOf r).lineAddr 1 = line then d.eventRdLine r v poison else d) d

/-- ANS_LINE: the line enters the cache or the monitor, a probe's line is merged (R349, R351, R353), and control blocks
that waited for it are read. -/
def Dev.lineAnswered (d : Dev) (addr : Nat) (v : Line) (poison : Bool) : Dev :=
  let line := addr - addr % 64
  if !d.rclUp then d
  else if line < 2 ^ 51 then
    if d.rcl.probes.any (·.addr = line) then ((d.mergeReturned line v poison).probeDone line).resumeFlits else d
  else
    match d.rcl.asks.find? (·.addr = line) with
    | none => d
    | some a =>
      match a.kind with
      | .monitor => (d.endAsk line .monitor).monitorRead line v poison
      | .once => (d.endAsk line .once).lineArrives line v poison
      | .clean => (((d.endAsk line .clean).lineArrives line v poison).cacheLine line .s).resumeQueues.resumeFlits
      | .sole =>
        let d := (d.endAsk line .sole).lineArrives line v poison a.mask
        let d := if poison then d.poisonedRead line else d
        (d.cacheLine line (if a.mask = 0 then .e else .m)).resumeQueues.resumeFlits

/-! ## Flits (R346) -/

/-- Everything that followed `ack` is sent again in order (R277). -/
def Dev.rclReplay (d : Dev) (ack : BitVec 12) : Dev :=
  if !d.rclUp then d
  else
    let d := { d with rcl := { d.rcl with
      replays := satInc d.rcl.replays
      replay := d.rcl.replay.filter fun t => decide (0 < seqAfter ack t.1 ∧ seqAfter ack t.1 < 2048) } }
    d.rcl.replay.foldl (fun d t => d.emit (.rcl t.2)) d

/-- Symbols corrected on a lane in the last 1 ms (R347). -/
def Dev.rclFixedMs (d : Dev) (l : Fin 16) : Nat :=
  (d.rcl.fixes.filter fun y => y.2 = l && decide (d.per.now < y.1 + msNs)).length

/-- An RCL flit arrives. One whose CRC fails is not taken, and a replay from the last good SEQ is asked for; the messages that a
good one carries are commands of their own. A lane on which more than 1,000 symbols are corrected within 1 ms fails (R347). -/
def Dev.rclFlit (d : Dev) (w : BitVec 640) (fixed : List (Fin 16)) : Dev :=
  if !d.rclUp then d
  else
    let d := { d with rcl := { d.rcl with
      fixes := fixed.map (fun l => (d.per.now, l)) ++ d.rcl.fixes.filter fun (y : Nat × Fin 16) => decide (d.per.now < y.1 + msNs) } }
    let f := flitOfWire w
    let d :=
      if flitOk w then
        let d := { d with rcl := { d.rcl with
          ack := if f.type ≠ 0 ∧ f.seq = d.rcl.ack + 1 then f.seq else d.rcl.ack
          replay := d.rcl.replay.filter fun t => decide (0 < seqAfter f.ack t.1 ∧ seqAfter f.ack t.1 < 2048) } }
        let d := if d.rcl.asking then Dev.recovered { d with rcl := { d.rcl with asking := false } } else d
        if f.nak then d.rclReplay f.ack else d
      else Dev.emit { d with rcl := { d.rcl with crcFail := satInc d.rcl.crcFail, asking := true } } (.rclNak d.rcl.ack)
    fixed.foldl (fun d l => if 1000 < d.rclFixedMs l then d.rclLaneFailed l else d) d

/-! ## Commands -/

/-- FLIT_RECEIVED (R276, R346). -/
def execFlitReceived (l : LinkEnd) (w : BitVec 640) (fixed : List (Fin 16)) (s : State) (limited : Bool := false) :
    Host.Outcome State Fault Refusal :=
  match l with
  | .chip p => s.run fun d => d.inService fun d =>
      d.flitArrives p w (fixed.filterMap fun x => if h : x.val < 12 then some ⟨x.val, h⟩ else none) limited
  | .rcl => s.run fun d => d.rclFlit w fixed

/-- NAK (R277, R346). -/
def execNak (l : LinkEnd) (ack : BitVec 12) (s : State) : Host.Outcome State Fault Refusal :=
  match l with
  | .chip p => s.run fun d => d.inService fun d => d.replayFrom p ack
  | .rcl => s.run fun d => d.rclReplay ack

/-- RCL_LANE_FAILED (R347). -/
def execRclLaneFailed (lane : Fin 16) (s : State) : Host.Outcome State Fault Refusal :=
  s.run fun d => d.rclLaneFailed lane

/-- RCL_DOWN (R348). -/
def execRclDown (s : State) : Host.Outcome State Fault Refusal := s.run Dev.rclFall

/-- RCL_TRAIN_ATTEMPT (R348). -/
def execRclTrainAttempt (ok : Bool) (s : State) : Host.Outcome State Fault Refusal := s.run fun d => d.rclTrain ok

/-- RCL_UP (R348). -/
def execRclUp (s : State) : Host.Outcome State Fault Refusal := s.run Dev.rclReturn

/-- RCL_HALF_RETRAINED (R347). -/
def execRclHalfRetrained (s : State) : Host.Outcome State Fault Refusal := s.run Dev.rclRetrained

/-- GET_CLEAN (R350). -/
def execGetClean (addr : Nat) (s : State) : Host.Outcome State Fault Refusal :=
  s.run fun d => d.atHome addr fun l d => d.companionGet l false

/-- GET_SOLE (R350). -/
def execGetSole (addr : Nat) (s : State) : Host.Outcome State Fault Refusal :=
  s.run fun d => d.atHome addr fun l d => d.companionGet l true

/-- GET_ONCE (R350). -/
def execGetOnce (addr : Nat) (s : State) : Host.Outcome State Fault Refusal :=
  s.run fun d => d.atHome addr fun l d => d.answerLine l

/-- PUT_LINE (R350): the companion keeps no copy. -/
def execPutLine (addr : Nat) (line : Line) (poison : Bool) (s : State) : Host.Outcome State Fault Refusal :=
  s.run fun d => d.atHome addr fun l d => (d.companionPut l [(0, line.bytes)] poison).dirForget l

/-- PUT_BYTES (R350). -/
def execPutBytes (addr : Nat) (line : Line) (mask : BitVec 64) (poison : Bool) (s : State) :
    Host.Outcome State Fault Refusal :=
  s.run fun d => d.atHome addr fun l d => d.companionPutBytes l line mask poison

/-- RETURN (R350). -/
def execReturnLine (addr : Nat) (line : Line) (poison : Bool) (s : State) : Host.Outcome State Fault Refusal :=
  s.run fun d => d.atHome addr fun l d => d.companionReturn l line poison

/-- LET_GO (R350). -/
def execLetGo (addr : Nat) (s : State) : Host.Outcome State Fault Refusal :=
  s.run fun d => d.atHome addr fun l d => d.dirForget l

/-- PROBE_DROP (R352). -/
def execProbeDrop (addr : Nat) (s : State) : Host.Outcome State Fault Refusal := s.run fun d => d.probed addr false

/-- PROBE_DEMOTE (R350). -/
def execProbeDemote (addr : Nat) (s : State) : Host.Outcome State Fault Refusal := s.run fun d => d.probed addr true

/-- ANS_DONE (R350). -/
def execAnsDone (addr : Nat) (s : State) : Host.Outcome State Fault Refusal := s.run fun d => d.answered addr

/-- ANS_LINE (R353). -/
def execAnsLine (addr : Nat) (line : Line) (poison : Bool) (s : State) : Host.Outcome State Fault Refusal :=
  s.run fun d => d.lineAnswered addr line poison

end Sys2Proof.Machine
end

