-- ==== Sys2Proof/Machine/Slots.lean ====
section
/-!
DEFINITION. Machine/Slots.lean: the meaning of every slot operation (Tables 08-3, 08-4, 08-6, 08-9, 08-11). A slot operation
is commanded with its own fields and the word whose other slots stand beside it; the word issues as one unit (R150 to
R153), which is the shared operation `Dev.clause`. The OP field of the slot is set by the operation.
-/
namespace Sys2Proof

/-- The word with `f` in its Q slot as operation `op`; likewise for the other slots. -/
def ClauseWord.withQ (w : ClauseWord) (op : BitVec 8) (f : QSlot) : ClauseWord := { w with q := { f with op := op } }
def ClauseWord.withT (w : ClauseWord) (op : BitVec 8) (f : TSlot) : ClauseWord := { w with t := { f with op := op } }
def ClauseWord.withV (w : ClauseWord) (op : BitVec 8) (f : VSlot) : ClauseWord := { w with v := { f with op := op } }
def ClauseWord.withA (w : ClauseWord) (op : BitVec 8) (f : ASlot) : ClauseWord := { w with a := { f with op := op } }
def ClauseWord.withS (w : ClauseWord) (sel : SSel) (op : BitVec 8) (f : SSlot) : ClauseWord :=
  match sel with
  | .s1 => { w with s1 := { f with op := op } }
  | .s0 => { w with s0 := { f with op := op } }
def ClauseWord.withNop (w : ClauseWord) : SlotName → ClauseWord
  | .q => { w with q := {} }
  | .t => { w with t := {} }
  | .v => { w with v := {} }
  | .a => { w with a := {} }
  | .s1 => { w with s1 := {} }
  | .s0 => { w with s0 := {} }

end Sys2Proof

namespace Sys2Proof.Machine

/-- The word `w` comes to issue while the block is in service. -/
def issueOn (c : CtxId) (w : ClauseWord) (s : State) : Host.Outcome State Fault Refusal :=
  s.run fun d => d.inService fun d => d.clause c w

/-- NOP in slot `n` (R150). -/
def execNop (c : CtxId) (n : SlotName) (w : ClauseWord) (s : State) : Host.Outcome State Fault Refusal :=
  issueOn c (ClauseWord.withNop w n) s

/-- FWAIT (R179, R180). -/
def execFwait (c : CtxId) (f : QSlot) (w : ClauseWord) (s : State) : Host.Outcome State Fault Refusal :=
  issueOn c (ClauseWord.withQ w 1 f) s

/-- FSET (R165, R179). -/
def execFset (c : CtxId) (f : QSlot) (w : ClauseWord) (s : State) : Host.Outcome State Fault Refusal :=
  issueOn c (ClauseWord.withQ w 2 f) s

/-- FADD (R165, R179). -/
def execFadd (c : CtxId) (f : QSlot) (w : ClauseWord) (s : State) : Host.Outcome State Fault Refusal :=
  issueOn c (ClauseWord.withQ w 3 f) s

/-- TWAIT (R166). -/
def execTwait (c : CtxId) (f : QSlot) (w : ClauseWord) (s : State) : Host.Outcome State Fault Refusal :=
  issueOn c (ClauseWord.withQ w 4 f) s

/-- POST (R158). -/
def execPost (c : CtxId) (f : QSlot) (w : ClauseWord) (s : State) : Host.Outcome State Fault Refusal :=
  issueOn c (ClauseWord.withQ w 5 f) s

/-- CMD (R160, R181). -/
def execCmd (c : CtxId) (f : QSlot) (w : ClauseWord) (s : State) : Host.Outcome State Fault Refusal :=
  issueOn c (ClauseWord.withQ w 6 f) s

/-- END (R157). -/
def execEndProgram (c : CtxId) (f : QSlot) (w : ClauseWord) (s : State) : Host.Outcome State Fault Refusal :=
  issueOn c (ClauseWord.withQ w 7 f) s

/-- MATRIX (R182, R183). -/
def execMatrix (c : CtxId) (f : TSlot) (w : ClauseWord) (s : State) : Host.Outcome State Fault Refusal :=
  issueOn c (ClauseWord.withT w 1 f) s

/-- ATTN (R182 to R184, R229). -/
def execAttn (c : CtxId) (f : TSlot) (w : ClauseWord) (s : State) : Host.Outcome State Fault Refusal :=
  issueOn c (ClauseWord.withT w 2 f) s

/-- VADDF (R186). -/
def execVaddf (c : CtxId) (f : VSlot) (w : ClauseWord) (s : State) : Host.Outcome State Fault Refusal :=
  issueOn c (ClauseWord.withV w 1 f) s

/-- VSUBF (R186). -/
def execVsubf (c : CtxId) (f : VSlot) (w : ClauseWord) (s : State) : Host.Outcome State Fault Refusal :=
  issueOn c (ClauseWord.withV w 2 f) s

/-- VMULF (R186). -/
def execVmulf (c : CtxId) (f : VSlot) (w : ClauseWord) (s : State) : Host.Outcome State Fault Refusal :=
  issueOn c (ClauseWord.withV w 3 f) s

/-- VFMAF (R186). -/
def execVfmaf (c : CtxId) (f : VSlot) (w : ClauseWord) (s : State) : Host.Outcome State Fault Refusal :=
  issueOn c (ClauseWord.withV w 4 f) s

/-- VMINF (R186). -/
def execVminf (c : CtxId) (f : VSlot) (w : ClauseWord) (s : State) : Host.Outcome State Fault Refusal :=
  issueOn c (ClauseWord.withV w 5 f) s

/-- VMAXF (R186). -/
def execVmaxf (c : CtxId) (f : VSlot) (w : ClauseWord) (s : State) : Host.Outcome State Fault Refusal :=
  issueOn c (ClauseWord.withV w 6 f) s

/-- VSF (R186, R202). -/
def execVsf (c : CtxId) (f : VSlot) (w : ClauseWord) (s : State) : Host.Outcome State Fault Refusal :=
  issueOn c (ClauseWord.withV w 7 f) s

/-- VPACK (R187). -/
def execVpack (c : CtxId) (f : VSlot) (w : ClauseWord) (s : State) : Host.Outcome State Fault Refusal :=
  issueOn c (ClauseWord.withV w 8 f) s

/-- VUNPK (R185). -/
def execVunpk (c : CtxId) (f : VSlot) (w : ClauseWord) (s : State) : Host.Outcome State Fault Refusal :=
  issueOn c (ClauseWord.withV w 9 f) s

/-- VBCAST (R185). -/
def execVbcast (c : CtxId) (f : VSlot) (w : ClauseWord) (s : State) : Host.Outcome State Fault Refusal :=
  issueOn c (ClauseWord.withV w 10 f) s

/-- VEXT (R185). -/
def execVext (c : CtxId) (f : VSlot) (w : ClauseWord) (s : State) : Host.Outcome State Fault Refusal :=
  issueOn c (ClauseWord.withV w 11 f) s

/-- VINS (R185). -/
def execVins (c : CtxId) (f : VSlot) (w : ClauseWord) (s : State) : Host.Outcome State Fault Refusal :=
  issueOn c (ClauseWord.withV w 12 f) s

/-- VSUMF (R186). -/
def execVsumf (c : CtxId) (f : VSlot) (w : ClauseWord) (s : State) : Host.Outcome State Fault Refusal :=
  issueOn c (ClauseWord.withV w 13 f) s

/-- VAND (R185). -/
def execVand (c : CtxId) (f : VSlot) (w : ClauseWord) (s : State) : Host.Outcome State Fault Refusal :=
  issueOn c (ClauseWord.withV w 16 f) s

/-- VOR (R185). -/
def execVor (c : CtxId) (f : VSlot) (w : ClauseWord) (s : State) : Host.Outcome State Fault Refusal :=
  issueOn c (ClauseWord.withV w 17 f) s

/-- VXOR (R185). -/
def execVxor (c : CtxId) (f : VSlot) (w : ClauseWord) (s : State) : Host.Outcome State Fault Refusal :=
  issueOn c (ClauseWord.withV w 18 f) s

/-- VADDI (R185). -/
def execVaddi (c : CtxId) (f : VSlot) (w : ClauseWord) (s : State) : Host.Outcome State Fault Refusal :=
  issueOn c (ClauseWord.withV w 19 f) s

/-- RUPLD (R188). -/
def execRupld (c : CtxId) (f : VSlot) (w : ClauseWord) (s : State) : Host.Outcome State Fault Refusal :=
  issueOn c (ClauseWord.withV w 32 f) s

/-- RURD (R188). -/
def execRurd (c : CtxId) (f : VSlot) (w : ClauseWord) (s : State) : Host.Outcome State Fault Refusal :=
  issueOn c (ClauseWord.withV w 33 f) s

/-- LDB (R189). -/
def execLdb (c : CtxId) (f : ASlot) (w : ClauseWord) (s : State) : Host.Outcome State Fault Refusal :=
  issueOn c (ClauseWord.withA w 1 f) s

/-- LDH (R189). -/
def execLdh (c : CtxId) (f : ASlot) (w : ClauseWord) (s : State) : Host.Outcome State Fault Refusal :=
  issueOn c (ClauseWord.withA w 2 f) s

/-- LDW (R189). -/
def execLdw (c : CtxId) (f : ASlot) (w : ClauseWord) (s : State) : Host.Outcome State Fault Refusal :=
  issueOn c (ClauseWord.withA w 3 f) s

/-- LDD (R189, R190). -/
def execLdd (c : CtxId) (f : ASlot) (w : ClauseWord) (s : State) : Host.Outcome State Fault Refusal :=
  issueOn c (ClauseWord.withA w 4 f) s

/-- LDWS (R189). -/
def execLdws (c : CtxId) (f : ASlot) (w : ClauseWord) (s : State) : Host.Outcome State Fault Refusal :=
  issueOn c (ClauseWord.withA w 5 f) s

/-- STB (R189). -/
def execStb (c : CtxId) (f : ASlot) (w : ClauseWord) (s : State) : Host.Outcome State Fault Refusal :=
  issueOn c (ClauseWord.withA w 8 f) s

/-- STH (R189). -/
def execSth (c : CtxId) (f : ASlot) (w : ClauseWord) (s : State) : Host.Outcome State Fault Refusal :=
  issueOn c (ClauseWord.withA w 9 f) s

/-- STW (R189). -/
def execStw (c : CtxId) (f : ASlot) (w : ClauseWord) (s : State) : Host.Outcome State Fault Refusal :=
  issueOn c (ClauseWord.withA w 10 f) s

/-- STD (R189, R190). -/
def execStd (c : CtxId) (f : ASlot) (w : ClauseWord) (s : State) : Host.Outcome State Fault Refusal :=
  issueOn c (ClauseWord.withA w 11 f) s

/-- VLD (R189). -/
def execVld (c : CtxId) (f : ASlot) (w : ClauseWord) (s : State) : Host.Outcome State Fault Refusal :=
  issueOn c (ClauseWord.withA w 12 f) s

/-- VST (R189). -/
def execVst (c : CtxId) (f : ASlot) (w : ClauseWord) (s : State) : Host.Outcome State Fault Refusal :=
  issueOn c (ClauseWord.withA w 13 f) s

/-- LEA (R189). -/
def execLea (c : CtxId) (f : ASlot) (w : ClauseWord) (s : State) : Host.Outcome State Fault Refusal :=
  issueOn c (ClauseWord.withA w 16 f) s

/-- LDTLD (R192). -/
def execLdtld (c : CtxId) (f : ASlot) (w : ClauseWord) (s : State) : Host.Outcome State Fault Refusal :=
  issueOn c (ClauseWord.withA w 17 f) s

/-- ADD (R193). -/
def execAdd (c : CtxId) (sel : SSel) (f : SSlot) (w : ClauseWord) (s : State) : Host.Outcome State Fault Refusal :=
  issueOn c (ClauseWord.withS w sel 1 f) s

/-- SUB (R193). -/
def execSub (c : CtxId) (sel : SSel) (f : SSlot) (w : ClauseWord) (s : State) : Host.Outcome State Fault Refusal :=
  issueOn c (ClauseWord.withS w sel 2 f) s

/-- AND (R193). -/
def execAndOp (c : CtxId) (sel : SSel) (f : SSlot) (w : ClauseWord) (s : State) : Host.Outcome State Fault Refusal :=
  issueOn c (ClauseWord.withS w sel 3 f) s

/-- OR (R193). -/
def execOrOp (c : CtxId) (sel : SSel) (f : SSlot) (w : ClauseWord) (s : State) : Host.Outcome State Fault Refusal :=
  issueOn c (ClauseWord.withS w sel 4 f) s

/-- XOR (R193). -/
def execXorOp (c : CtxId) (sel : SSel) (f : SSlot) (w : ClauseWord) (s : State) : Host.Outcome State Fault Refusal :=
  issueOn c (ClauseWord.withS w sel 5 f) s

/-- SHL (R193). -/
def execShl (c : CtxId) (sel : SSel) (f : SSlot) (w : ClauseWord) (s : State) : Host.Outcome State Fault Refusal :=
  issueOn c (ClauseWord.withS w sel 6 f) s

/-- SHR (R193). -/
def execShr (c : CtxId) (sel : SSel) (f : SSlot) (w : ClauseWord) (s : State) : Host.Outcome State Fault Refusal :=
  issueOn c (ClauseWord.withS w sel 7 f) s

/-- SAR (R193). -/
def execSar (c : CtxId) (sel : SSel) (f : SSlot) (w : ClauseWord) (s : State) : Host.Outcome State Fault Refusal :=
  issueOn c (ClauseWord.withS w sel 8 f) s

/-- MUL (R193). -/
def execMul (c : CtxId) (sel : SSel) (f : SSlot) (w : ClauseWord) (s : State) : Host.Outcome State Fault Refusal :=
  issueOn c (ClauseWord.withS w sel 9 f) s

/-- DIVU (R193). -/
def execDivu (c : CtxId) (sel : SSel) (f : SSlot) (w : ClauseWord) (s : State) : Host.Outcome State Fault Refusal :=
  issueOn c (ClauseWord.withS w sel 10 f) s

/-- REMU (R193). -/
def execRemu (c : CtxId) (sel : SSel) (f : SSlot) (w : ClauseWord) (s : State) : Host.Outcome State Fault Refusal :=
  issueOn c (ClauseWord.withS w sel 11 f) s

/-- MIN (R193). -/
def execMinOp (c : CtxId) (sel : SSel) (f : SSlot) (w : ClauseWord) (s : State) : Host.Outcome State Fault Refusal :=
  issueOn c (ClauseWord.withS w sel 12 f) s

/-- MAX (R193). -/
def execMaxOp (c : CtxId) (sel : SSel) (f : SSlot) (w : ClauseWord) (s : State) : Host.Outcome State Fault Refusal :=
  issueOn c (ClauseWord.withS w sel 13 f) s

/-- INSHI (R193). -/
def execInshi (c : CtxId) (sel : SSel) (f : SSlot) (w : ClauseWord) (s : State) : Host.Outcome State Fault Refusal :=
  issueOn c (ClauseWord.withS w sel 14 f) s

/-- CMPEQ (R193). -/
def execCmpeq (c : CtxId) (sel : SSel) (f : SSlot) (w : ClauseWord) (s : State) : Host.Outcome State Fault Refusal :=
  issueOn c (ClauseWord.withS w sel 16 f) s

/-- CMPNE (R193). -/
def execCmpne (c : CtxId) (sel : SSel) (f : SSlot) (w : ClauseWord) (s : State) : Host.Outcome State Fault Refusal :=
  issueOn c (ClauseWord.withS w sel 17 f) s

/-- CMPLT (R193). -/
def execCmplt (c : CtxId) (sel : SSel) (f : SSlot) (w : ClauseWord) (s : State) : Host.Outcome State Fault Refusal :=
  issueOn c (ClauseWord.withS w sel 18 f) s

/-- CMPLTU (R193). -/
def execCmpltu (c : CtxId) (sel : SSel) (f : SSlot) (w : ClauseWord) (s : State) : Host.Outcome State Fault Refusal :=
  issueOn c (ClauseWord.withS w sel 19 f) s

/-- CMPLE (R193). -/
def execCmple (c : CtxId) (sel : SSel) (f : SSlot) (w : ClauseWord) (s : State) : Host.Outcome State Fault Refusal :=
  issueOn c (ClauseWord.withS w sel 20 f) s

/-- CMPLEU (R193). -/
def execCmpleu (c : CtxId) (sel : SSel) (f : SSlot) (w : ClauseWord) (s : State) : Host.Outcome State Fault Refusal :=
  issueOn c (ClauseWord.withS w sel 21 f) s

/-- PAND (R193). -/
def execPand (c : CtxId) (sel : SSel) (f : SSlot) (w : ClauseWord) (s : State) : Host.Outcome State Fault Refusal :=
  issueOn c (ClauseWord.withS w sel 24 f) s

/-- POR (R193). -/
def execPor (c : CtxId) (sel : SSel) (f : SSlot) (w : ClauseWord) (s : State) : Host.Outcome State Fault Refusal :=
  issueOn c (ClauseWord.withS w sel 25 f) s

/-- PXOR (R193). -/
def execPxor (c : CtxId) (sel : SSel) (f : SSlot) (w : ClauseWord) (s : State) : Host.Outcome State Fault Refusal :=
  issueOn c (ClauseWord.withS w sel 26 f) s

/-- PANDN (R193). -/
def execPandn (c : CtxId) (sel : SSel) (f : SSlot) (w : ClauseWord) (s : State) : Host.Outcome State Fault Refusal :=
  issueOn c (ClauseWord.withS w sel 27 f) s

/-- ADDF (R193). -/
def execAddf (c : CtxId) (sel : SSel) (f : SSlot) (w : ClauseWord) (s : State) : Host.Outcome State Fault Refusal :=
  issueOn c (ClauseWord.withS w sel 32 f) s

/-- SUBF (R193). -/
def execSubf (c : CtxId) (sel : SSel) (f : SSlot) (w : ClauseWord) (s : State) : Host.Outcome State Fault Refusal :=
  issueOn c (ClauseWord.withS w sel 33 f) s

/-- MULF (R193). -/
def execMulf (c : CtxId) (sel : SSel) (f : SSlot) (w : ClauseWord) (s : State) : Host.Outcome State Fault Refusal :=
  issueOn c (ClauseWord.withS w sel 34 f) s

/-- FMAF (R193). -/
def execFmaf (c : CtxId) (sel : SSel) (f : SSlot) (w : ClauseWord) (s : State) : Host.Outcome State Fault Refusal :=
  issueOn c (ClauseWord.withS w sel 35 f) s

/-- MINF (R193). -/
def execMinf (c : CtxId) (sel : SSel) (f : SSlot) (w : ClauseWord) (s : State) : Host.Outcome State Fault Refusal :=
  issueOn c (ClauseWord.withS w sel 36 f) s

/-- MAXF (R193). -/
def execMaxf (c : CtxId) (sel : SSel) (f : SSlot) (w : ClauseWord) (s : State) : Host.Outcome State Fault Refusal :=
  issueOn c (ClauseWord.withS w sel 37 f) s

/-- CMPLTF (R193). -/
def execCmpltf (c : CtxId) (sel : SSel) (f : SSlot) (w : ClauseWord) (s : State) : Host.Outcome State Fault Refusal :=
  issueOn c (ClauseWord.withS w sel 38 f) s

/-- CMPEQF (R193). -/
def execCmpeqf (c : CtxId) (sel : SSel) (f : SSlot) (w : ClauseWord) (s : State) : Host.Outcome State Fault Refusal :=
  issueOn c (ClauseWord.withS w sel 39 f) s

/-- CVTIF (R193). -/
def execCvtif (c : CtxId) (sel : SSel) (f : SSlot) (w : ClauseWord) (s : State) : Host.Outcome State Fault Refusal :=
  issueOn c (ClauseWord.withS w sel 40 f) s

/-- CVTFI (R193). -/
def execCvtfi (c : CtxId) (sel : SSel) (f : SSlot) (w : ClauseWord) (s : State) : Host.Outcome State Fault Refusal :=
  issueOn c (ClauseWord.withS w sel 41 f) s

/-- BR (R194). -/
def execBr (c : CtxId) (f : SSlot) (w : ClauseWord) (s : State) : Host.Outcome State Fault Refusal :=
  issueOn c (ClauseWord.withS w .s1 48 f) s

/-- BRR (R194). -/
def execBrr (c : CtxId) (f : SSlot) (w : ClauseWord) (s : State) : Host.Outcome State Fault Refusal :=
  issueOn c (ClauseWord.withS w .s1 49 f) s

/-- CALL (R194). -/
def execCall (c : CtxId) (f : SSlot) (w : ClauseWord) (s : State) : Host.Outcome State Fault Refusal :=
  issueOn c (ClauseWord.withS w .s1 50 f) s

/-- LOOP (R194). -/
def execLoop (c : CtxId) (f : SSlot) (w : ClauseWord) (s : State) : Host.Outcome State Fault Refusal :=
  issueOn c (ClauseWord.withS w .s1 51 f) s

/-- RDPER (R195). -/
def execRdper (c : CtxId) (sel : SSel) (f : SSlot) (w : ClauseWord) (s : State) : Host.Outcome State Fault Refusal :=
  issueOn c (ClauseWord.withS w sel 56 f) s

/-- RDTIME (R195). -/
def execRdtime (c : CtxId) (sel : SSel) (f : SSlot) (w : ClauseWord) (s : State) : Host.Outcome State Fault Refusal :=
  issueOn c (ClauseWord.withS w sel 57 f) s

/-! ## The pair behind the processor -/

/-- LOAD_DATA_RETURN (R191): the oldest load in flight returns, with what its read of memory has found. -/
def execLoadDataReturn (c : CtxId) (s : State) (f : EccFinding := .clean) : Host.Outcome State Fault Refusal :=
  s.run fun d => d.inService fun d => d.loadDone c f

/-- CHECKPOINT_DURABLE (R171). -/
def execCheckpointDurable (c : CtxId) (s : State) : Host.Outcome State Fault Refusal :=
  s.run fun d => d.inService fun d => d.durable c

/-- INSTRUCTION_FETCH_RETURN (R170, R194): `count` words from offset `first` of the running image enter the instruction
buffer, which keeps its newest 4,096 words; words at or above WORDS are not fetched. -/
def execInstructionFetchReturn (c : CtxId) (first count : Nat) (s : State) : Host.Outcome State Fault Refusal :=
  s.run fun d => d.inService fun d =>
    match d.ctx[c].cp.prog, d.launchOf c with
    | some g, some l =>
      Dev.fetchCheck (c := c) <|
      let offs := (List.range (min count 4096)).map (first + ·) |>.filter (· < g.words)
      offs.foldl (fun d o =>
        let a := g.image + 64 * (o + 1)
        if !d.linesHeld a 64 then (linesOf a 64).foldl Dev.want d
        else
          let (bs, d) := d.loadSpace (.prog c l.q) c none 0 a 64
          d.modCp c fun cp =>
            let b := cp.ibuf.filter (·.1 ≠ a) ++ [(a, Line.ofBytes (bytesOf bs), anyBad bs)]
            { cp with ibuf := b.drop (b.length - 4096) }) d
    | _, _ => d

end Sys2Proof.Machine
end

