-- ==== Sys2Proof/Machine/Dispatch.lean ====
section
/-!
DEFINITION. Machine/Dispatch.lean: the meaning of every command, one arm per row of spec/opcode_table.json.
-/
namespace Sys2Proof.Machine

/-- The effect of a command on everything but the queue of commands that wait. -/
def exec (i : Instr) (s : State) : Host.Outcome State Fault Refusal :=
  match i with
  -- the Period (02)
  | .internalTick => Sys2Proof.Machine.execInternalTick s
  | .sourceEvent k t sys => Sys2Proof.Machine.execSourceEvent k t sys s
  | .holdoverEntry => Sys2Proof.Machine.execHoldoverEntry s
  | .holdoverTick => Sys2Proof.Machine.execHoldoverTick s
  | .acquireTimeout => Sys2Proof.Machine.execAcquireTimeout s
  | .newSettingTimeout => Sys2Proof.Machine.execNewSettingTimeout s
  | .shareZeroed c => Sys2Proof.Machine.execShareZeroed c s
  | .syncOutPulseEnd => Sys2Proof.Machine.execSyncOutPulseEnd s
  | .comparatorFire cmp => Sys2Proof.Machine.execComparatorFire cmp s
  -- registers and snapshots (00, 05, 07, 15)
  | .registerWrite w off v => Sys2Proof.Machine.execRegisterWrite w off v s
  | .fencePoisonClear c j v => Sys2Proof.Machine.execFencePoisonClear c j v s
  | .arrInject v => Sys2Proof.Machine.execArrInject v s
  | .take => Sys2Proof.Machine.execTake s
  | .ctxSnapTake c => Sys2Proof.Machine.execCtxSnapTake c s
  | .indirectWrite v => Sys2Proof.Machine.execIndirectWrite v s
  | .indirectRead => Sys2Proof.Machine.execIndirectRead s
  | .indirectComplete => Sys2Proof.Machine.execIndirectComplete s
  | .marginDone ch errors => Sys2Proof.Machine.execMarginDone ch errors s
  -- the Lexicon and the field network (16)
  | .lexReadInForce index sub => Sys2Proof.Machine.execLexReadInForce index sub s
  | .lexWrite index sub => Sys2Proof.Machine.execLexWrite index sub s
  | .lexReadPending index sub => Sys2Proof.Machine.execLexReadPending index sub s
  | .lexReadCaptured index sub => Sys2Proof.Machine.execLexReadCaptured index sub s
  | .lexReadDescription index sub => Sys2Proof.Machine.execLexReadDescription index sub s
  | .lexFlashReadDone ok => Sys2Proof.Machine.execLexFlashReadDone ok s
  | .coeSdoDownload index sub value complete => Sys2Proof.Machine.execCoeSdoDownload index sub value s complete
  | .coeSdoUpload index sub complete => Sys2Proof.Machine.execCoeSdoUpload index sub s complete
  | .coeSdoInformation r => Sys2Proof.Machine.execCoeSdoInformation r s
  | .alStateRequest st => Sys2Proof.Machine.execAlStateRequest st s
  | .fieldPortLink p up => Sys2Proof.Machine.execFieldPortLink p up s
  -- security (19)
  | .stageImage => Sys2Proof.Machine.execStageImage s
  | .confirm => Sys2Proof.Machine.execConfirm s
  | .discard => Sys2Proof.Machine.execDiscard s
  | .swap => Sys2Proof.Machine.execSwap s
  | .install => Sys2Proof.Machine.execInstall s
  | .quote => Sys2Proof.Machine.execQuote s
  | .extend => Sys2Proof.Machine.execExtend s
  | .getCerts => Sys2Proof.Machine.execGetCerts s
  | .unlock => Sys2Proof.Machine.execUnlock s
  | .spareReady => Sys2Proof.Machine.execSpareReady s
  | .spareReloaded => Sys2Proof.Machine.execSpareReloaded s
  -- queues (15)
  | .tailLineInvalidation c q line poison => Sys2Proof.Machine.execTailLineInvalidation c q line poison s
  | .entryFetched c q entry poison => Sys2Proof.Machine.execEntryFetched c q entry poison s
  | .cplRdInvalidation c q line => Sys2Proof.Machine.execCplRdInvalidation c q line s
  | .eventRdInvalidation ring line => Sys2Proof.Machine.execEventRdInvalidation ring line s
  | .entryDispatch c q => Sys2Proof.Machine.execEntryDispatch c q s
  | .commandReady id => Sys2Proof.Machine.execCommandReady id s
  | .launch id => Sys2Proof.Machine.execLaunch id s
  | .fenceSet id => Sys2Proof.Machine.execFenceSet id s
  | .fenceAdd id => Sys2Proof.Machine.execFenceAdd id s
  | .allReduce id => Sys2Proof.Machine.execAllReduce id s
  | .allGather id => Sys2Proof.Machine.execAllGather id s
  | .permute id => Sys2Proof.Machine.execPermute id s
  | .reshard id => Sys2Proof.Machine.execReshard id s
  | .sgather id => Sys2Proof.Machine.execSgather id s
  | .place id rooms => Sys2Proof.Machine.execPlace id s rooms
  | .scatter id => Sys2Proof.Machine.execScatter id s
  | .batch id => Sys2Proof.Machine.execBatch id s
  | .codOpen id => Sys2Proof.Machine.execCodOpen id s
  | .codEnc id => Sys2Proof.Machine.execCodEnc id s
  | .codDec id => Sys2Proof.Machine.execCodDec id s
  | .codRel id => Sys2Proof.Machine.execCodRel id s
  | .codClose id => Sys2Proof.Machine.execCodClose id s
  -- Clause slot operations (08)
  | .nop c n w => Sys2Proof.Machine.execNop c n w s
  | .fwait c f w => Sys2Proof.Machine.execFwait c f w s
  | .fset c f w => Sys2Proof.Machine.execFset c f w s
  | .fadd c f w => Sys2Proof.Machine.execFadd c f w s
  | .twait c f w => Sys2Proof.Machine.execTwait c f w s
  | .post c f w => Sys2Proof.Machine.execPost c f w s
  | .cmd c f w => Sys2Proof.Machine.execCmd c f w s
  | .endProgram c f w => Sys2Proof.Machine.execEndProgram c f w s
  | .matrix c f w => Sys2Proof.Machine.execMatrix c f w s
  | .attn c f w => Sys2Proof.Machine.execAttn c f w s
  | .vaddf c f w => Sys2Proof.Machine.execVaddf c f w s
  | .vsubf c f w => Sys2Proof.Machine.execVsubf c f w s
  | .vmulf c f w => Sys2Proof.Machine.execVmulf c f w s
  | .vfmaf c f w => Sys2Proof.Machine.execVfmaf c f w s
  | .vminf c f w => Sys2Proof.Machine.execVminf c f w s
  | .vmaxf c f w => Sys2Proof.Machine.execVmaxf c f w s
  | .vsf c f w => Sys2Proof.Machine.execVsf c f w s
  | .vpack c f w => Sys2Proof.Machine.execVpack c f w s
  | .vunpk c f w => Sys2Proof.Machine.execVunpk c f w s
  | .vbcast c f w => Sys2Proof.Machine.execVbcast c f w s
  | .vext c f w => Sys2Proof.Machine.execVext c f w s
  | .vins c f w => Sys2Proof.Machine.execVins c f w s
  | .vsumf c f w => Sys2Proof.Machine.execVsumf c f w s
  | .vand c f w => Sys2Proof.Machine.execVand c f w s
  | .vor c f w => Sys2Proof.Machine.execVor c f w s
  | .vxor c f w => Sys2Proof.Machine.execVxor c f w s
  | .vaddi c f w => Sys2Proof.Machine.execVaddi c f w s
  | .rupld c f w => Sys2Proof.Machine.execRupld c f w s
  | .rurd c f w => Sys2Proof.Machine.execRurd c f w s
  | .ldb c f w => Sys2Proof.Machine.execLdb c f w s
  | .ldh c f w => Sys2Proof.Machine.execLdh c f w s
  | .ldw c f w => Sys2Proof.Machine.execLdw c f w s
  | .ldd c f w => Sys2Proof.Machine.execLdd c f w s
  | .ldws c f w => Sys2Proof.Machine.execLdws c f w s
  | .stb c f w => Sys2Proof.Machine.execStb c f w s
  | .sth c f w => Sys2Proof.Machine.execSth c f w s
  | .stw c f w => Sys2Proof.Machine.execStw c f w s
  | .std c f w => Sys2Proof.Machine.execStd c f w s
  | .vld c f w => Sys2Proof.Machine.execVld c f w s
  | .vst c f w => Sys2Proof.Machine.execVst c f w s
  | .lea c f w => Sys2Proof.Machine.execLea c f w s
  | .ldtld c f w => Sys2Proof.Machine.execLdtld c f w s
  | .add c sel f w => Sys2Proof.Machine.execAdd c sel f w s
  | .sub c sel f w => Sys2Proof.Machine.execSub c sel f w s
  | .andOp c sel f w => Sys2Proof.Machine.execAndOp c sel f w s
  | .orOp c sel f w => Sys2Proof.Machine.execOrOp c sel f w s
  | .xorOp c sel f w => Sys2Proof.Machine.execXorOp c sel f w s
  | .shl c sel f w => Sys2Proof.Machine.execShl c sel f w s
  | .shr c sel f w => Sys2Proof.Machine.execShr c sel f w s
  | .sar c sel f w => Sys2Proof.Machine.execSar c sel f w s
  | .mul c sel f w => Sys2Proof.Machine.execMul c sel f w s
  | .divu c sel f w => Sys2Proof.Machine.execDivu c sel f w s
  | .remu c sel f w => Sys2Proof.Machine.execRemu c sel f w s
  | .minOp c sel f w => Sys2Proof.Machine.execMinOp c sel f w s
  | .maxOp c sel f w => Sys2Proof.Machine.execMaxOp c sel f w s
  | .inshi c sel f w => Sys2Proof.Machine.execInshi c sel f w s
  | .cmpeq c sel f w => Sys2Proof.Machine.execCmpeq c sel f w s
  | .cmpne c sel f w => Sys2Proof.Machine.execCmpne c sel f w s
  | .cmplt c sel f w => Sys2Proof.Machine.execCmplt c sel f w s
  | .cmpltu c sel f w => Sys2Proof.Machine.execCmpltu c sel f w s
  | .cmple c sel f w => Sys2Proof.Machine.execCmple c sel f w s
  | .cmpleu c sel f w => Sys2Proof.Machine.execCmpleu c sel f w s
  | .pand c sel f w => Sys2Proof.Machine.execPand c sel f w s
  | .por c sel f w => Sys2Proof.Machine.execPor c sel f w s
  | .pxor c sel f w => Sys2Proof.Machine.execPxor c sel f w s
  | .pandn c sel f w => Sys2Proof.Machine.execPandn c sel f w s
  | .addf c sel f w => Sys2Proof.Machine.execAddf c sel f w s
  | .subf c sel f w => Sys2Proof.Machine.execSubf c sel f w s
  | .mulf c sel f w => Sys2Proof.Machine.execMulf c sel f w s
  | .fmaf c sel f w => Sys2Proof.Machine.execFmaf c sel f w s
  | .minf c sel f w => Sys2Proof.Machine.execMinf c sel f w s
  | .maxf c sel f w => Sys2Proof.Machine.execMaxf c sel f w s
  | .cmpltf c sel f w => Sys2Proof.Machine.execCmpltf c sel f w s
  | .cmpeqf c sel f w => Sys2Proof.Machine.execCmpeqf c sel f w s
  | .cvtif c sel f w => Sys2Proof.Machine.execCvtif c sel f w s
  | .cvtfi c sel f w => Sys2Proof.Machine.execCvtfi c sel f w s
  | .br c f w => Sys2Proof.Machine.execBr c f w s
  | .brr c f w => Sys2Proof.Machine.execBrr c f w s
  | .call c f w => Sys2Proof.Machine.execCall c f w s
  | .loop c f w => Sys2Proof.Machine.execLoop c f w s
  | .rdper c sel f w => Sys2Proof.Machine.execRdper c sel f w s
  | .rdtime c sel f w => Sys2Proof.Machine.execRdtime c sel f w s
  -- the pair behind a Clause processor (07, 17)
  | .loadDataReturn c f => Sys2Proof.Machine.execLoadDataReturn c s f
  | .checkpointDurable c => Sys2Proof.Machine.execCheckpointDurable c s
  | .lockstepCompareFailure c => Sys2Proof.Machine.execLockstepCompareFailure c s
  | .cpFailover c => Sys2Proof.Machine.execCpFailover c s
  | .pairTestDone pair ok => Sys2Proof.Machine.execPairTestDone pair ok s
  | .supFailover => Sys2Proof.Machine.execSupFailover s
  -- tiles and arrays (04, 05, 09, 17)
  | .tileExpand c => Sys2Proof.Machine.execTileExpand c s
  | .arrayFree a => Sys2Proof.Machine.execArrayFree a s
  | .bPassLoaded a parity => Sys2Proof.Machine.execBPassLoaded a parity s
  | .multicastAdvance ch => Sys2Proof.Machine.execMulticastAdvance ch s
  | .rowRelease tile row flaw => Sys2Proof.Machine.execRowRelease tile row flaw s
  | .rowStaged tile row compareFailure => Sys2Proof.Machine.execRowStaged tile row compareFailure s
  | .bf16Compare tile => Sys2Proof.Machine.execBf16Compare tile s
  | .tileCommit tile => Sys2Proof.Machine.execTileCommit tile s
  | .rephraseDecision c => Sys2Proof.Machine.execRephraseDecision c s
  | .slotCopyDone slot dead => Sys2Proof.Machine.execSlotCopyDone slot s dead
  | .arrayTestDone a ok => Sys2Proof.Machine.execArrayTestDone a ok s
  | .fatalFault cause unit stop => Sys2Proof.Machine.execFatalFault cause unit s stop
  -- memory (11, 17)
  | .scratchpadScrub a word f => Sys2Proof.Machine.execScratchpadScrub a word f s
  | .lpddrScrub ch line f => Sys2Proof.Machine.execLpddrScrub ch line f s
  | .wcbAgeEvict k => Sys2Proof.Machine.execWcbAgeEvict k s
  | .channelSpared ch cause => Sys2Proof.Machine.execChannelSpared ch cause s
  | .migrationDone ch => Sys2Proof.Machine.execMigrationDone ch s
  -- chip links (12)
  | .flitReceived l w fixed limited => Sys2Proof.Machine.execFlitReceived l w fixed s limited
  | .nak l ack => Sys2Proof.Machine.execNak l ack s
  | .laneFailed p lane => Sys2Proof.Machine.execLaneFailed p lane s
  | .portDetect p answered => Sys2Proof.Machine.execPortDetect p answered s
  | .portTrained p ok idle => Sys2Proof.Machine.execPortTrained p ok s idle
  | .identExchange p far => Sys2Proof.Machine.execIdentExchange p far s
  | .portDown p => Sys2Proof.Machine.execPortDown p s
  | .routeUpdate routes lost => Sys2Proof.Machine.execRouteUpdate routes s lost
  | .neighbourTable m far => Sys2Proof.Machine.execNeighbourTable m far s
  | .announcementReceived m a => Sys2Proof.Machine.execAnnouncementReceived m a s
  | .csnAssignment sender members tag csn failed => Sys2Proof.Machine.execCsnAssignment sender members tag csn failed s
  | .reservationGrant => Sys2Proof.Machine.execReservationGrant s
  | .segmentSend csn seg down bad => Sys2Proof.Machine.execSegmentSend csn seg down s bad
  | .segDone csn seg child => Sys2Proof.Machine.execSegDone csn seg child s
  | .completionReport m csn => Sys2Proof.Machine.execCompletionReport m csn s
  | .memberLost m => Sys2Proof.Machine.execMemberLost m s
  -- groups (13)
  | .tickFlit t gperiod rate hstate head lead num den => Sys2Proof.Machine.execTickFlit t gperiod rate hstate head lead num den s
  | .delayEcho m trips => Sys2Proof.Machine.execDelayEcho m trips s
  | .headEnd => Sys2Proof.Machine.execHeadEnd s
  -- attention (10)
  | .spanMerge cmd row => Sys2Proof.Machine.execSpanMerge cmd row s
  | .poolInitDone c pool => Sys2Proof.Machine.execPoolInitDone c pool s
  -- codec (14)
  | .unitStart e => Sys2Proof.Machine.execUnitStart e s
  | .unitVisible e => Sys2Proof.Machine.execUnitVisible e s
  | .windowFetchDone e => Sys2Proof.Machine.execWindowFetchDone e s
  | .unitRecode e => Sys2Proof.Machine.execUnitRecode e s
  | .decodeTimeBound e => Sys2Proof.Machine.execDecodeTimeBound e s
  -- the companion link (15)
  | .rclLaneFailed lane => Sys2Proof.Machine.execRclLaneFailed lane s
  | .rclDown => Sys2Proof.Machine.execRclDown s
  | .rclTrainAttempt ok => Sys2Proof.Machine.execRclTrainAttempt ok s
  | .rclUp => Sys2Proof.Machine.execRclUp s
  | .getClean addr => Sys2Proof.Machine.execGetClean addr s
  | .getSole addr => Sys2Proof.Machine.execGetSole addr s
  | .getOnce addr => Sys2Proof.Machine.execGetOnce addr s
  | .putLine addr line poison => Sys2Proof.Machine.execPutLine addr line poison s
  | .putBytes addr line mask poison => Sys2Proof.Machine.execPutBytes addr line mask poison s
  | .returnLine addr line poison => Sys2Proof.Machine.execReturnLine addr line poison s
  | .letGo addr => Sys2Proof.Machine.execLetGo addr s
  | .winRead region off size => Sys2Proof.Machine.execWinRead region off size s
  | .winWrite region off size v => Sys2Proof.Machine.execWinWrite region off size v s
  | .probeDrop addr => Sys2Proof.Machine.execProbeDrop addr s
  | .probeDemote addr => Sys2Proof.Machine.execProbeDemote addr s
  | .ansDone addr => Sys2Proof.Machine.execAnsDone addr s
  | .ansLine addr line poison => Sys2Proof.Machine.execAnsLine addr line poison s
  -- power and reset (18, 19, 20)
  | .modEnAssert => Sys2Proof.Machine.execModEnAssert s
  | .railGood => Sys2Proof.Machine.execRailGood s
  | .railWindowExpired => Sys2Proof.Machine.execRailWindowExpired s
  | .serviceReached => Sys2Proof.Machine.execServiceReached s
  | .watchdogReset => Sys2Proof.Machine.execWatchdogReset s
  | .modEnDeassert => Sys2Proof.Machine.execModEnDeassert s
  | .rstNReset => Sys2Proof.Machine.execRstNReset s
  | .rstNRise => Sys2Proof.Machine.execRstNRise s
  | .inputOutOfRange mv => Sys2Proof.Machine.execInputOutOfRange mv s
  | .sensorSample r => Sys2Proof.Machine.execSensorSample r s
  | .overTemperatureTrip => Sys2Proof.Machine.execOverTemperatureTrip s
  | .histogramSecond => Sys2Proof.Machine.execHistogramSecond s
  | .lifetimeFlush ok => Sys2Proof.Machine.execLifetimeFlush ok s
  -- the rows the table ends with
  | .tickLeadElapsed => Sys2Proof.Machine.execTickLeadElapsed s
  | .prsntNChange p high => Sys2Proof.Machine.execPrsntNChange p high s
  | .laneGroupRetrained p => Sys2Proof.Machine.execLaneGroupRetrained p s
  | .rclHalfRetrained => Sys2Proof.Machine.execRclHalfRetrained s
  | .headStateReceived csnNext sets gperiod flying placed => Sys2Proof.Machine.execHeadStateReceived csnNext sets gperiod s flying placed
  | .takeoverReportRequest fromMod => Sys2Proof.Machine.execTakeoverReportRequest fromMod s
  | .takeoverReport m items carried => Sys2Proof.Machine.execTakeoverReport m items s carried
  | .streamPlacement stream ctx cost remove => Sys2Proof.Machine.execStreamPlacement stream ctx cost s remove
  | .shardGenerationsReceived gens => Sys2Proof.Machine.execShardGenerationsReceived gens s
  | .engineTestDone e ok => Sys2Proof.Machine.execEngineTestDone e ok s
  | .slotZeroed a => Sys2Proof.Machine.execSlotZeroed a s
  | .modEnHoldoffElapsed => Sys2Proof.Machine.execModEnHoldoffElapsed s
  | .testPortInstruction ir => Sys2Proof.Machine.execTestPortInstruction ir s
  | .ethercatDatagram adr value => Sys2Proof.Machine.execEthercatDatagram adr value s
  | .instructionFetchReturn c first count => Sys2Proof.Machine.execInstructionFetchReturn c first count s

end Sys2Proof.Machine
end

