-- ==== Sys2Proof/Machine/Step.lean ====
section
/-!
DEFINITION. Machine/Step.lean: one step of the block: the command at the front of the queue, or one nanosecond of the 1 GHz
timestamp count (R8) where none waits (assumption log 1).
-/
namespace Sys2Proof.Machine

/-- The timestamp count runs while the die is powered and out of reset. -/
def Dev.idle (d : Dev) : Dev :=
  { d with per := { d.per with now := d.per.now + (if d.pwr.on && !d.pwr.inReset then 1 else 0) }, out := [] }

/-- With no command waiting, the timestamp count advances (R8); nothing else happens. -/
def State.idle (s : State) : State := { s with dev := s.dev.idle }

/-- Take the command at the front of the queue and run it with the rest; idle on an empty queue. -/
def step (s : State) : Host.Outcome State Fault Refusal :=
  match s.pending with
  | [] => .next s.idle
  | c :: rest => exec c { s with pending := rest }

/-- The state with the command that a table word spells at the front of its queue. -/
def State.withFetchWord (s : State) (nbits w : Nat) : State :=
  match Sys2Proof.decodeTableWord nbits w with
  | some c => { s with pending := c :: s.pending }
  | none => s

end Sys2Proof.Machine
end

