-- ==== Sys2Proof/Safety.lean ====
section
/-!
DEFINITION. Safety.lean: the terms that claims are stated in: what an outcome answers, when a command runs at once, when a
clause word issues, and the invariants.
-/
namespace Sys2Proof.Machine

/-- The outcome is a next state with property `p`. -/
def Answers (o : Host.Outcome State Fault Refusal) (p : State → Prop) : Prop := ∃ t, o = .next t ∧ p t

/-- The memory of the device keeps its canonical form. -/
abbrev State.memWf (s : State) : Prop := Memory.wf s.dev.mem.cells

/-- The loop descriptor tables, the row-unit parameter tables and the ESC registers keep their canonical form. -/
abbrev State.tablesWf (s : State) : Prop :=
  (∀ c : CtxId, alWf 0 s.dev.ctx[c].ldt.entries ∧ alWf 0 s.dev.ctx[c].ldt.rup) ∧ alWf 0 s.dev.net.esc

/-- The device as a command finds it: nothing sent out yet and no read missed. -/
def Dev.seen (d : Dev) : Dev := { d with out := [], rcl := { d.rcl with missed := false } }

/-- The device `r` that a command has made of `d`, with the mark of missed reads as it was. -/
def Dev.after (d r : Dev) : Dev := { r with rcl := { r.rcl with missed := d.rcl.missed } }

/-- Every line that the change `f` reads is at hand, so that `f` takes effect at once (R348, R351). -/
abbrev Dev.runsNow (d : Dev) (f : Dev → Dev) : Prop := (f d.seen).rcl.missed = false

/-! ## A clause word that issues (R150 to R153) -/

/-- What the wait of the Q slot writes, none while it must wait; a word without a wait writes nothing by it. -/
def Dev.waitWrites (d : Dev) (c : CtxId) (x : Acts) : Option (List (Dest × Line)) :=
  match x.q with | some f => d.qWait c f | none => some []

/-- The loads that a word issues, and the device after it has issued them. -/
def Dev.loadsOf (d : Dev) (c : CtxId) (q : QId) (x : Acts) : List Load × Dev :=
  match x.a with
  | some f => if f.isLoad then ([(d.issueLoad c q f d.ctx[c].cp.r).1], (d.issueLoad c q f d.ctx[c].cp.r).2) else ([], d)
  | none => ([], d)

/-- The word after this one can issue: the program counter stays below WORDS and meets no uncorrectable error in the
instruction buffer (Table 07-6), or the word ends the program. -/
def Cp.nextOk (p : Cp) (g : Program) (x : Acts) : Bool :=
  x.qIs 7 ||
    (decide ((nextPc x.s1 p.r).toNat < g.words) &&
      match p.ibuf.find? (·.1 = g.wordAddr (nextPc x.s1 p.r)) with
      | some (_, _, true) => false
      | _ => true)

/-- The word `w` issues at once on context `c`: a program runs there, the instruction buffer holds this word or none at its
address, nothing that the word reads or writes is awaited, no wait holds it, the escape buffer has room, the word raises no
fault (R170, R178), every line it reads is at hand, and the word after it can issue. -/
def Dev.issues (d : Dev) (c : CtxId) (w : ClauseWord) : Bool :=
  let cp := d.ctx[c].cp
  let x := Acts.of cp.r w
  match cp.ready, d.launchOf c with
  | some g, some l =>
    (match cp.ibuf.find? (·.1 = g.wordAddr cp.r.pc) with
      | some (_, line, _) => decide (wordOfLine line = w)
      | none => true) &&
    !x.waitsResult cp.r && (d.waitWrites c x).isSome && d.roomFor c l.q x && decide (d.wordFault c x = 0) &&
    (d.cmdAwaits c x).isNone && decide (cmdFault x (d.cmdRead c l.q x).1 = 0) &&
    !((d.cmdRead c l.q x).2.loadsOf c l.q x).2.rcl.missed && cp.nextOk g x
  | _, _ => false

/-- The value that a register holds: a scalar register in the low 64 bits, a predicate in bit 0. -/
def Snap.get (r : Snap) : Dest → Line
  | .s i => (r.sr i).setWidth 512
  | .p i => bitLine (r.pr i)
  | .v i => r.vr i

/-- The registers of context `c`. -/
def State.regs (s : State) (c : CtxId) : Snap := s.dev.ctx[c].cp.r

/-- The word `w` issues at once on context `c` of a block in service. -/
abbrev State.Issues (s : State) (c : CtxId) (w : ClauseWord) : Prop := s.dev.serving = true ∧ s.dev.seen.issues c w = true

/-- The effects of context `c` that have not been released: those of the checkpoint in flight, then those in the escape
buffer (R171). -/
def State.escaped (s : State) (c : CtxId) : List Effect := s.dev.ctx[c].cp.escaped

/-- The guard of slot `n` of a word (R176). -/
def guardOf (r : Snap) (w : ClauseWord) (n : SlotName) : Bool :=
  match n with
  | .q => r.guard w.q.gp w.q.gn
  | .t => r.guard w.t.gp w.t.gn
  | .v => r.guard w.v.gp w.v.gn
  | .a => r.guard w.a.gp w.a.gn
  | .s1 => r.guard w.s1.gp w.s1.gn
  | .s0 => r.guard w.s0.gp w.s0.gn

/-- Slot `n` of a word does nothing: it holds a no-operation, an undefined encoding or a false guard. -/
def Acts.idle (x : Acts) (n : SlotName) : Bool :=
  match n with
  | .q => x.q.isNone
  | .t => x.t.isNone
  | .v => x.v.isNone
  | .a => x.a.isNone
  | .s1 => x.s1.isNone
  | .s0 => x.s0.isNone

/-- The word `w` has come to issue on context `c`: a program runs there, the word is the one at the program counter, and
no result that it reads or writes is awaited. -/
def Dev.atIssue (d : Dev) (c : CtxId) (w : ClauseWord) : Bool :=
  let cp := d.ctx[c].cp
  let x := Acts.of cp.r w
  match cp.ready with
  | some g =>
    (d.launchOf c).isSome && decide (cp.r.pc.toNat < g.words) &&
    (match cp.ibuf.find? (·.1 = g.wordAddr cp.r.pc) with
      | some (_, line, bad) => decide (wordOfLine line = w) && !bad
      | none => true) &&
    !x.waitsResult cp.r
  | none => false

/-- The class of the program fault that the word `w` raises as it comes to issue, 0 for none (R178). -/
def Dev.raises (d : Dev) (c : CtxId) (w : ClauseWord) : Nat :=
  let x := Acts.of d.ctx[c].cp.r w
  match d.launchOf c with
  | some l =>
    if d.atIssue c w && (d.waitWrites c x).isSome && d.roomFor c l.q x then
      if d.wordFault c x ≠ 0 then d.wordFault c x
      else if (d.cmdAwaits c x).isNone && !(d.cmdRead c l.q x).2.rcl.missed then cmdFault x (d.cmdRead c l.q x).1
      else 0
    else 0
  | none => 0

/-- The context and the word that a slot operation comes to issue, none for another command. -/
def slotWord (i : Instr) : Option (CtxId × ClauseWord) :=
  match i with
  | .nop c n w => some (c, ClauseWord.withNop w n)
  | .fwait c f w => some (c, ClauseWord.withQ w 1 f)
  | .fset c f w => some (c, ClauseWord.withQ w 2 f)
  | .fadd c f w => some (c, ClauseWord.withQ w 3 f)
  | .twait c f w => some (c, ClauseWord.withQ w 4 f)
  | .post c f w => some (c, ClauseWord.withQ w 5 f)
  | .cmd c f w => some (c, ClauseWord.withQ w 6 f)
  | .endProgram c f w => some (c, ClauseWord.withQ w 7 f)
  | .matrix c f w => some (c, ClauseWord.withT w 1 f)
  | .attn c f w => some (c, ClauseWord.withT w 2 f)
  | .vaddf c f w => some (c, ClauseWord.withV w 1 f)
  | .vsubf c f w => some (c, ClauseWord.withV w 2 f)
  | .vmulf c f w => some (c, ClauseWord.withV w 3 f)
  | .vfmaf c f w => some (c, ClauseWord.withV w 4 f)
  | .vminf c f w => some (c, ClauseWord.withV w 5 f)
  | .vmaxf c f w => some (c, ClauseWord.withV w 6 f)
  | .vsf c f w => some (c, ClauseWord.withV w 7 f)
  | .vpack c f w => some (c, ClauseWord.withV w 8 f)
  | .vunpk c f w => some (c, ClauseWord.withV w 9 f)
  | .vbcast c f w => some (c, ClauseWord.withV w 10 f)
  | .vext c f w => some (c, ClauseWord.withV w 11 f)
  | .vins c f w => some (c, ClauseWord.withV w 12 f)
  | .vsumf c f w => some (c, ClauseWord.withV w 13 f)
  | .vand c f w => some (c, ClauseWord.withV w 16 f)
  | .vor c f w => some (c, ClauseWord.withV w 17 f)
  | .vxor c f w => some (c, ClauseWord.withV w 18 f)
  | .vaddi c f w => some (c, ClauseWord.withV w 19 f)
  | .rupld c f w => some (c, ClauseWord.withV w 32 f)
  | .rurd c f w => some (c, ClauseWord.withV w 33 f)
  | .ldb c f w => some (c, ClauseWord.withA w 1 f)
  | .ldh c f w => some (c, ClauseWord.withA w 2 f)
  | .ldw c f w => some (c, ClauseWord.withA w 3 f)
  | .ldd c f w => some (c, ClauseWord.withA w 4 f)
  | .ldws c f w => some (c, ClauseWord.withA w 5 f)
  | .stb c f w => some (c, ClauseWord.withA w 8 f)
  | .sth c f w => some (c, ClauseWord.withA w 9 f)
  | .stw c f w => some (c, ClauseWord.withA w 10 f)
  | .std c f w => some (c, ClauseWord.withA w 11 f)
  | .vld c f w => some (c, ClauseWord.withA w 12 f)
  | .vst c f w => some (c, ClauseWord.withA w 13 f)
  | .lea c f w => some (c, ClauseWord.withA w 16 f)
  | .ldtld c f w => some (c, ClauseWord.withA w 17 f)
  | .add c sel f w => some (c, ClauseWord.withS w sel 1 f)
  | .sub c sel f w => some (c, ClauseWord.withS w sel 2 f)
  | .andOp c sel f w => some (c, ClauseWord.withS w sel 3 f)
  | .orOp c sel f w => some (c, ClauseWord.withS w sel 4 f)
  | .xorOp c sel f w => some (c, ClauseWord.withS w sel 5 f)
  | .shl c sel f w => some (c, ClauseWord.withS w sel 6 f)
  | .shr c sel f w => some (c, ClauseWord.withS w sel 7 f)
  | .sar c sel f w => some (c, ClauseWord.withS w sel 8 f)
  | .mul c sel f w => some (c, ClauseWord.withS w sel 9 f)
  | .divu c sel f w => some (c, ClauseWord.withS w sel 10 f)
  | .remu c sel f w => some (c, ClauseWord.withS w sel 11 f)
  | .minOp c sel f w => some (c, ClauseWord.withS w sel 12 f)
  | .maxOp c sel f w => some (c, ClauseWord.withS w sel 13 f)
  | .inshi c sel f w => some (c, ClauseWord.withS w sel 14 f)
  | .cmpeq c sel f w => some (c, ClauseWord.withS w sel 16 f)
  | .cmpne c sel f w => some (c, ClauseWord.withS w sel 17 f)
  | .cmplt c sel f w => some (c, ClauseWord.withS w sel 18 f)
  | .cmpltu c sel f w => some (c, ClauseWord.withS w sel 19 f)
  | .cmple c sel f w => some (c, ClauseWord.withS w sel 20 f)
  | .cmpleu c sel f w => some (c, ClauseWord.withS w sel 21 f)
  | .pand c sel f w => some (c, ClauseWord.withS w sel 24 f)
  | .por c sel f w => some (c, ClauseWord.withS w sel 25 f)
  | .pxor c sel f w => some (c, ClauseWord.withS w sel 26 f)
  | .pandn c sel f w => some (c, ClauseWord.withS w sel 27 f)
  | .addf c sel f w => some (c, ClauseWord.withS w sel 32 f)
  | .subf c sel f w => some (c, ClauseWord.withS w sel 33 f)
  | .mulf c sel f w => some (c, ClauseWord.withS w sel 34 f)
  | .fmaf c sel f w => some (c, ClauseWord.withS w sel 35 f)
  | .minf c sel f w => some (c, ClauseWord.withS w sel 36 f)
  | .maxf c sel f w => some (c, ClauseWord.withS w sel 37 f)
  | .cmpltf c sel f w => some (c, ClauseWord.withS w sel 38 f)
  | .cmpeqf c sel f w => some (c, ClauseWord.withS w sel 39 f)
  | .cvtif c sel f w => some (c, ClauseWord.withS w sel 40 f)
  | .cvtfi c sel f w => some (c, ClauseWord.withS w sel 41 f)
  | .br c f w => some (c, ClauseWord.withS w .s1 48 f)
  | .brr c f w => some (c, ClauseWord.withS w .s1 49 f)
  | .call c f w => some (c, ClauseWord.withS w .s1 50 f)
  | .loop c f w => some (c, ClauseWord.withS w .s1 51 f)
  | .rdper c sel f w => some (c, ClauseWord.withS w sel 56 f)
  | .rdtime c sel f w => some (c, ClauseWord.withS w sel 57 f)
  | _ => none

end Sys2Proof.Machine
end

