-- ==== Sys2Proof/Certificates/Slice0/Obligations.lean ====
section
/-!
DEFINITION. Certificates/Slice0/Obligations.lean: the statements for the provers, from the numbered rules of spec/.
-/
open Sys2Proof Sys2Proof.Machine

/-! ## The machine -/

/-- A step with a command at the front of the queue is that command's effect on the state with the queue's rest. On an empty
queue the block idles: a ns of the 1 GHz clock passes (the model's choice, log entry 1). -/
def Obligations.StepRunsFrontCommand : Prop :=
  (∀ (s : State) (c : Instr) (rest : List Instr), s.pending = c :: rest → step s = exec c { s with pending := rest }) ∧
  ∀ s : State, s.pending = [] → step s = .next s.idle

/-! ## Tables of the slot operations, from Tables 08-6, 08-9 and 08-11 -/

namespace Sys2Proof.Machine

/-- A scalar slot's command. -/
abbrev SCmd := CtxId → SSel → SSlot → ClauseWord → Instr
/-- A vector slot's command. -/
abbrev VCmd := CtxId → VSlot → ClauseWord → Instr
/-- An address slot's command. -/
abbrev ACmd := CtxId → ASlot → ClauseWord → Instr

/-- Bits [31:0] of a register, as FP32 operations read it, and their result as it is written (R193). -/
def low32 (x : DWord) : Word := x.setWidth 32
def high0 (x : Word) : DWord := x.setWidth 64

/-- Operations of Table 08-11 that write s[RD] from a = s[RA] and operand b: command, OP and result. -/
def scalarOps : List (SCmd × BitVec 8 × (Snap → SSlot → DWord)) :=
  [(.add, 0x01, fun r f => r.sr f.ra + f.b r),
   (.sub, 0x02, fun r f => r.sr f.ra - f.b r),
   (.andOp, 0x03, fun r f => r.sr f.ra &&& f.b r),
   (.orOp, 0x04, fun r f => r.sr f.ra ||| f.b r),
   (.xorOp, 0x05, fun r f => r.sr f.ra ^^^ f.b r),
   (.shl, 0x06, fun r f => r.sr f.ra <<< ((f.b r).toNat % 64)),
   (.shr, 0x07, fun r f => r.sr f.ra >>> ((f.b r).toNat % 64)),
   (.sar, 0x08, fun r f => (r.sr f.ra).sshiftRight ((f.b r).toNat % 64)),
   (.mul, 0x09, fun r f => r.sr f.ra * f.b r),
   (.divu, 0x0A, fun r f => if f.b r = 0 then BitVec.allOnes 64 else r.sr f.ra / f.b r),
   (.remu, 0x0B, fun r f => if f.b r = 0 then r.sr f.ra else r.sr f.ra % f.b r),
   (.minOp, 0x0C, fun r f => if (r.sr f.ra).slt (f.b r) then r.sr f.ra else f.b r),
   (.maxOp, 0x0D, fun r f => if (r.sr f.ra).slt (f.b r) then f.b r else r.sr f.ra),
   (.inshi, 0x0E, fun r f => BitVec.ofNat 64 (f.imm.toNat * 2 ^ 32 + (low32 (r.sr f.ra)).toNat)),
   (.addf, 0x20, fun r f => high0 (fadd32 (low32 (r.sr f.ra)) (low32 (f.b r)))),
   (.subf, 0x21, fun r f => high0 (fsub32 (low32 (r.sr f.ra)) (low32 (f.b r)))),
   (.mulf, 0x22, fun r f => high0 (fmul32 (low32 (r.sr f.ra)) (low32 (f.b r)))),
   (.fmaf, 0x23, fun r f => high0 (fma32 (low32 (r.sr f.ra)) (low32 (f.b r)) (low32 (r.sr f.rd)))),
   (.minf, 0x24, fun r f => high0 (minf (low32 (r.sr f.ra)) (low32 (f.b r)))),
   (.maxf, 0x25, fun r f => high0 (maxf (low32 (r.sr f.ra)) (low32 (f.b r)))),
   (.cvtif, 0x28, fun r f => high0 (intToF32 (r.sr f.ra).toInt)),
   (.cvtfi, 0x29, fun r f => cvtfi (low32 (r.sr f.ra)))]

/-- Operations of Table 08-11 that write p[PD]. -/
def predicateOps : List (SCmd × BitVec 8 × (Snap → SSlot → Bool)) :=
  [(.cmpeq, 0x10, fun r f => decide (r.sr f.ra = f.b r)),
   (.cmpne, 0x11, fun r f => decide (r.sr f.ra ≠ f.b r)),
   (.cmplt, 0x12, fun r f => decide ((r.sr f.ra).toInt < (f.b r).toInt)),
   (.cmpltu, 0x13, fun r f => decide ((r.sr f.ra).toNat < (f.b r).toNat)),
   (.cmple, 0x14, fun r f => decide ((r.sr f.ra).toInt ≤ (f.b r).toInt)),
   (.cmpleu, 0x15, fun r f => decide ((r.sr f.ra).toNat ≤ (f.b r).toNat)),
   (.pand, 0x18, fun r f => r.pr f.pa && r.pr f.pb),
   (.por, 0x19, fun r f => r.pr f.pa || r.pr f.pb),
   (.pxor, 0x1A, fun r f => r.pr f.pa ^^ r.pr f.pb),
   (.pandn, 0x1B, fun r f => r.pr f.pa && !r.pr f.pb),
   (.cmpltf, 0x26, fun r f => (f32 (low32 (r.sr f.ra))).lt (f32 (low32 (f.b r)))),
   (.cmpeqf, 0x27, fun r f => (f32 (low32 (r.sr f.ra))).eqv (f32 (low32 (f.b r))))]

/-- BF16 lane `l` of a vector register (R185). -/
def halfLane (v : Line) (l : Nat) : BitVec 16 := v.extractLsb' (16 * l) 16

/-- What VPACK puts into BF16 lane `l` (R187): lanes 0 to 15 from VA, lanes 16 to 31 from VB. -/
def packedHalf (r : Snap) (f : VSlot) (l : Nat) : BitVec 16 :=
  let x := if l < 16 then lane (r.vr f.va) l else lane (r.vr f.vb) (l - 16)
  let rnd := if f.rm = 4 then (srWord (low32 (r.sr 5)) f.imm ((r.sr f.sr).toNat + l)).toNat else 0
  BitVec.ofNat 16 (toBf16 ((RMode.ofCode f.rm.toNat).getD .rne) rnd (f32 x)).code

/-- A BF16 value as FP32; any NaN gives the quiet NaN of R54. -/
def unpacked (h : BitVec 16) : Word := if h.toNat % 2 ^ 15 ≤ 0x7F80 then h ++ (0 : BitVec 16) else 0x7FC00000

/-- Operations of Table 08-6 that write v[VD]: command, OP and what 32-bit lane `l` of it becomes. -/
def vectorOps : List (VCmd × BitVec 8 × (Snap → VSlot → Nat → Word)) :=
  [(.vaddf, 0x01, fun r f l => fadd32 (lane (r.vr f.va) l) (lane (r.vr f.vb) l)),
   (.vsubf, 0x02, fun r f l => fsub32 (lane (r.vr f.va) l) (lane (r.vr f.vb) l)),
   (.vmulf, 0x03, fun r f l => fmul32 (lane (r.vr f.va) l) (lane (r.vr f.vb) l)),
   (.vfmaf, 0x04, fun r f l => fma32 (lane (r.vr f.va) l) (lane (r.vr f.vb) l) (lane (r.vr f.vc) l)),
   (.vminf, 0x05, fun r f l => minf (lane (r.vr f.va) l) (lane (r.vr f.vb) l)),
   (.vmaxf, 0x06, fun r f l => maxf (lane (r.vr f.va) l) (lane (r.vr f.vb) l)),
   (.vpack, 0x08, fun r f l => packedHalf r f (2 * l + 1) ++ packedHalf r f (2 * l)),
   (.vunpk, 0x09, fun r f l => unpacked (halfLane (r.vr f.va) (16 * (f.ix.toNat % 2) + l))),
   (.vbcast, 0x0A, fun r f _ => low32 (r.sr f.sr)),
   (.vins, 0x0C, fun r f l => if l = f.ix.toNat then low32 (r.sr f.sr) else lane (r.vr f.va) l),
   (.vsumf, 0x0D, fun r f l => if l = 0 then sumLanes (r.vr f.va) else 0),
   (.vand, 0x10, fun r f l => lane (r.vr f.va) l &&& lane (r.vr f.vb) l),
   (.vor, 0x11, fun r f l => lane (r.vr f.va) l ||| lane (r.vr f.vb) l),
   (.vxor, 0x12, fun r f l => lane (r.vr f.va) l ^^^ lane (r.vr f.vb) l),
   (.vaddi, 0x13, fun r f l => lane (r.vr f.va) l + lane (r.vr f.vb) l)]

/-- Loads of Table 08-9: command, OP, bytes, whether the value is sign-extended, and the destination. -/
def loadOps : List (ACmd × BitVec 8 × Nat × Bool × (ASlot → Dest)) :=
  [(.ldb, 0x01, 1, false, fun f => .s f.rd), (.ldh, 0x02, 2, false, fun f => .s f.rd),
   (.ldw, 0x03, 4, false, fun f => .s f.rd), (.ldd, 0x04, 8, false, fun f => .s f.rd),
   (.ldws, 0x05, 4, true, fun f => .s f.rd), (.vld, 0x0C, 64, false, fun f => .v f.vr)]

/-- Stores of Table 08-9: command, OP, and the bytes stored. -/
def storeOps : List (ACmd × BitVec 8 × (Snap → ASlot → List Byte)) :=
  [(.stb, 0x08, fun r f => leBytes (r.sr f.rd).toNat 1), (.sth, 0x09, fun r f => leBytes (r.sr f.rd).toNat 2),
   (.stw, 0x0A, fun r f => leBytes (r.sr f.rd).toNat 4), (.std, 0x0B, fun r f => leBytes (r.sr f.rd).toNat 8),
   (.vst, 0x0D, fun r f => leBytes (r.vr f.vr).toNat 64)]

/-- What the slots of a word add to the effects of the program, slot by slot, in this order (the order within a word is the
model's choice but for the store, which its CMD sees, R181; log entry 113): the store of the A slot, the command of the T slot,
the table word of the V slot, the place of an LDTLD, and the effect of the Q slot, `entry` being what its CMD has read. -/
def storeOfWord (r : Snap) (w : ClauseWord) : List Effect := (Acts.of r w).ownStore r
def tensorOfWord (r : Snap) (w : ClauseWord) : List Effect := match (Acts.of r w).t with | some f => [tensorOf f r] | none => []
def tableOfWord (r : Snap) (w : ClauseWord) : List Effect :=
  match (Acts.of r w).v with | some f => if f.op = 0x20 then [.rup f.epi (f.ix.setWidth 4) (r.vr f.va)] else [] | none => []
def placeOfWord (r : Snap) (w : ClauseWord) : List Effect :=
  match (Acts.of r w).a with | some f => if f.op = 0x11 then [.ldtld f.ldti] else [] | none => []
def queueOfWord (r : Snap) (w : ClauseWord) (entry : Line) : List Effect :=
  match (Acts.of r w).q with | some f => qEffects f r (entry.bytes.map fun b => (b, false)) | none => []

/-- The effective address (R189). -/
def effAddr (r : Snap) (f : ASlot) : Nat :=
  (r.sr f.rb + r.sr f.ri * BitVec.ofNat 64 (2 ^ [0, 3, 6, 8].getD f.sc.toNat 0) + f.off.signExtend 64).toNat % 2 ^ 52

end Sys2Proof.Machine

/-! ## Slot operations (08) -/

/-- Table 08-11, R193: a scalar operation under a true guard writes its result to s[RD]; s0 reads 0 after it as before. -/
def Claims.ScalarOperationResult : Prop :=
  ∀ op ∈ scalarOps, ∀ (c : CtxId) (sel : SSel) (f : SSlot) (w : ClauseWord) (s : State),
    s.Issues c (w.withS sel op.2.1 f) → (s.regs c).guard f.gp f.gn = true →
    Answers (exec (op.1 c sel f w) s) fun t =>
      (t.regs c).sr f.rd = (if f.rd = 0 then 0 else op.2.2 (s.regs c) f) ∧ t.pending = s.pending

/-- Table 08-11: a compare or predicate operation under a true guard writes p[PD]; p0 reads 1 after it as before. -/
def Claims.PredicateOperationResult : Prop :=
  ∀ op ∈ predicateOps, ∀ (c : CtxId) (sel : SSel) (f : SSlot) (w : ClauseWord) (s : State),
    s.Issues c (w.withS sel op.2.1 f) → (s.regs c).guard f.gp f.gn = true →
    Answers (exec (op.1 c sel f w) s) fun t =>
      (t.regs c).pr f.pd = (if f.pd = 0 then true else op.2.2 (s.regs c) f) ∧ t.pending = s.pending

/-- R195, Table 08-11: RDPER writes the number of the Period in force, RDTIME the ns since its tick. -/
def Claims.ClockReadsOfScalarSlots : Prop :=
  ∀ (c : CtxId) (sel : SSel) (f : SSlot) (w : ClauseWord) (s : State), (s.regs c).guard f.gp f.gn = true →
    (s.Issues c (w.withS sel 0x38 f) → Answers (exec (.rdper c sel f w) s) fun t =>
      (t.regs c).sr f.rd = if f.rd = 0 then 0 else s.dev.per.number) ∧
    (s.Issues c (w.withS sel 0x39 f) → Answers (exec (.rdtime c sel f w) s) fun t =>
      (t.regs c).sr f.rd = if f.rd = 0 then 0 else BitVec.ofNat 64 (s.dev.per.now - s.dev.per.lastTick))

/-- Tables 08-11: the operations of the S slots that write a register. -/
def Obligations.ScalarAndPredicateOperations : Prop := Claims.ScalarOperationResult ∧ Claims.PredicateOperationResult ∧ Claims.ClockReadsOfScalarSlots

/-- Table 08-11, R194: a taken branch selects the word at its target, an untaken LOOP the next word; CALL writes the offset
of the next word, LOOP its count, and a LOOP whose RD is s0, which reads 0 after the write, is not taken. An END in the same
word keeps the program counter (Table 08-12). -/
def Claims.BranchTargets : Prop :=
  ∀ (c : CtxId) (f : SSlot) (w : ClauseWord) (s : State), (s.regs c).guard f.gp f.gn = true →
    (Acts.of (s.regs c) w).qIs 7 = false →
    (s.Issues c (w.withS .s1 0x30 f) → Answers (exec (.br c f w) s) fun t =>
      (t.regs c).pc = (s.regs c).pc + f.imm) ∧
    (s.Issues c (w.withS .s1 0x31 f) → Answers (exec (.brr c f w) s) fun t =>
      (t.regs c).pc = low32 ((s.regs c).sr f.ra)) ∧
    (s.Issues c (w.withS .s1 0x32 f) → Answers (exec (.call c f w) s) fun t =>
      (t.regs c).pc = (s.regs c).pc + f.imm ∧
      (t.regs c).sr f.rd = if f.rd = 0 then 0 else high0 ((s.regs c).pc + 1)) ∧
    (s.Issues c (w.withS .s1 0x33 f) → Answers (exec (.loop c f w) s) fun t =>
      (t.regs c).pc = (if f.rd = 0 ∨ (s.regs c).sr f.ra - 1 = 0 then (s.regs c).pc + 1 else (s.regs c).pc + f.imm) ∧
      (t.regs c).sr f.rd = if f.rd = 0 then 0 else (s.regs c).sr f.ra - 1)

/-- Table 08-6, R185 to R187: a vector operation under a true guard writes v[VD], lane by lane. -/
def Claims.VectorOperationResult : Prop :=
  ∀ op ∈ vectorOps, ∀ (c : CtxId) (f : VSlot) (w : ClauseWord) (s : State),
    s.Issues c (w.withV op.2.1 f) → (s.regs c).guard f.gp f.gn = true →
    Answers (exec (op.1 c f w) s) fun t =>
      (∀ l, l < 16 → lane ((t.regs c).vr f.vd) l = op.2.2 (s.regs c) f l) ∧ t.pending = s.pending

/-- Tables 08-6 and 08-7: VSF applies its function to each lane; VEXT writes a lane to a scalar register; RURD reads the
row-unit table word that the program sees (R188). -/
def Claims.VectorFunctionExtractAndTable : Prop :=
  ∀ (c : CtxId) (f : VSlot) (w : ClauseWord) (s : State), (s.regs c).guard f.gp f.gn = true →
    (s.Issues c (w.withV 0x07 f) → Answers (exec (.vsf c f w) s) fun t =>
      ∃ fn, Fn.ofCode f.fn.toNat = some fn ∧
        ∀ l, l < 16 → lane ((t.regs c).vr f.vd) l = fn.eval false (lane ((s.regs c).vr f.va) l)) ∧
    (s.Issues c (w.withV 0x0B f) → Answers (exec (.vext c f w) s) fun t =>
      (t.regs c).sr f.sr = if f.sr = 0 then 0 else high0 (lane ((s.regs c).vr f.va) f.ix.toNat)) ∧
    (s.Issues c (w.withV 0x21 f) → Answers (exec (.rurd c f w) s) fun t =>
      (t.regs c).vr f.vd = s.dev.rupSeen c f.epi f.ix.toNat)

/-- Tables 08-6 and 08-7: the operations of the V slot that write a register. -/
def Obligations.VectorOperations : Prop := Claims.VectorOperationResult ∧ Claims.VectorFunctionExtractAndTable

/-- R189, Table 08-9: LEA writes the effective address. -/
def Claims.LeaWritesEffectiveAddress : Prop :=
  ∀ (c : CtxId) (f : ASlot) (w : ClauseWord) (s : State),
    s.Issues c (w.withA 0x10 f) → (s.regs c).guard f.gp f.gn = true →
    Answers (exec (.lea c f w) s) fun t =>
      (t.regs c).sr f.rd = (if f.rd = 0 then 0 else BitVec.ofNat 64 (effAddr (s.regs c) f))

/-- R189, R191, Table 08-9: a load adds one load to those in flight, with its destination and, where the word holds no CMD and
its line of the software region is at hand with no store of the program's own pending, the bytes of memory at its effective
address. -/
def Claims.LoadsGoInFlight : Prop :=
  ∀ op ∈ loadOps, ∀ (c : CtxId) (f : ASlot) (w : ClauseWord) (s : State),
    s.Issues c (w.withA op.2.1 f) → (s.regs c).guard f.gp f.gn = true →
    Answers (exec (op.1 c f w) s) fun t =>
      ∃ l : Load, (t.regs c).loads = (s.regs c).loads ++ [l] ∧ l.dest = op.2.2.2.2 f ∧ l.signed = op.2.2.2.1 ∧
        l.bytes.length = op.2.2.1 ∧ l.ldt = none ∧
        (f.space = 0 → (Acts.of (s.regs c) w).qIs 6 = false → s.dev.region (effAddr (s.regs c) f) = .software →
          s.dev.atHand (effAddr (s.regs c) f - effAddr (s.regs c) f % 64) = true →
          (s.escaped c).all (fun e => !e.isStore) = true →
          l.companion = none ∧ l.bytes = s.dev.mem.read (effAddr (s.regs c) f) op.2.2.1)

/-- R192: LDTLD adds a load of 256 bytes that s[RD] and the entry LDTI both await, and its place to the effects of the program,
behind those of its word's T and V slots (their order within a word is the model's choice, log entry 113). -/
def Claims.LdtldGoesInFlight : Prop :=
  ∀ (c : CtxId) (f : ASlot) (w : ClauseWord) (s : State),
    s.Issues c (w.withA 0x11 f) → (s.regs c).guard f.gp f.gn = true →
    Answers (exec (.ldtld c f w) s) fun t =>
      (∃ l : Load, (t.regs c).loads = (s.regs c).loads ++ [l] ∧ l.dest = .s f.rd ∧ l.ldt = some f.ldti ∧ l.bytes.length = 256) ∧
      ∃ entry, t.escaped c = s.escaped c ++ tensorOfWord (s.regs c) w ++ tableOfWord (s.regs c) w ++ [.ldtld f.ldti] ++
        queueOfWord (s.regs c) w entry

/-- R171, R189, Table 08-9: a store goes behind the effects that wait in the escape buffer, before those of the other slots of
its word (R181), with its space, its effective address and its bytes. -/
def Claims.StoresWaitInEscapeBuffer : Prop :=
  ∀ op ∈ storeOps, ∀ (c : CtxId) (f : ASlot) (w : ClauseWord) (s : State),
    s.Issues c (w.withA op.2.1 f) → (s.regs c).guard f.gp f.gn = true →
    Answers (exec (op.1 c f w) s) fun t =>
      ∃ entry, t.escaped c = s.escaped c ++ [.store f.space.toNat (effAddr (s.regs c) f) (op.2.2 (s.regs c) f)] ++
        tensorOfWord (s.regs c) w ++ tableOfWord (s.regs c) w ++ queueOfWord (s.regs c) w entry

/-- Table 08-9: the operations of the A slot. -/
def Obligations.AddressSlotOperations : Prop := Claims.LeaWritesEffectiveAddress ∧ Claims.LoadsGoInFlight ∧ Claims.LdtldGoesInFlight ∧ Claims.StoresWaitInEscapeBuffer

/-- R171, R182, R183, R188, Tables 08-4 and 08-6: MATRIX and ATTN put their command, with the registers, waits, signal and seed
read at issue, behind what waits and the store of their word; RUPLD puts its table word behind the T slot's command. -/
def Claims.TensorAndTableEffects : Prop :=
  ∀ (c : CtxId) (w : ClauseWord) (s : State),
    let r := s.regs c
    (∀ f : TSlot, r.guard f.gp f.gn = true →
      let issue : Bool → Effect := fun attn => .tensor
        { attn := attn, ldt := f.ldt, shape := [f.rm, f.rn, f.rk, f.rp0, f.rp1, f.rp2].map fun i => (r.sr i).toNat
          waits := (if f.w0e then [⟨f.w0f, low32 (r.sr f.w0t)⟩] else []) ++ (if f.w1e then [⟨f.w1f, low32 (r.sr f.w1t)⟩] else [])
          sig := if f.se then some f.sf else none, seed := low32 (r.sr 5) }
      (s.Issues c (w.withT 1 f) → Answers (exec (.matrix c f w) s) fun t =>
        ∃ entry, t.escaped c = s.escaped c ++ storeOfWord r w ++ [issue false] ++ tableOfWord r w ++ placeOfWord r w ++
          queueOfWord r w entry) ∧
      (s.Issues c (w.withT 2 f) → Answers (exec (.attn c f w) s) fun t =>
        ∃ entry, t.escaped c = s.escaped c ++ storeOfWord r w ++ [issue true] ++ tableOfWord r w ++ placeOfWord r w ++
          queueOfWord r w entry)) ∧
    (∀ f : VSlot, s.Issues c (w.withV 0x20 f) → r.guard f.gp f.gn = true →
      Answers (exec (.rupld c f w) s) fun t =>
        ∃ entry, t.escaped c = s.escaped c ++ storeOfWord r w ++ tensorOfWord r w ++
          [.rup f.epi (f.ix.setWidth 4) (r.vr f.va)] ++ placeOfWord r w ++ queueOfWord r w entry)

/-- R157, R158, R160, R165, R171, R181, Table 08-3: FSET, FADD, POST, CMD and END put their effect last of their word; a CMD puts
the 64 bytes that it has read at s[SR], which hold an entry that a program may issue; END is the last word of the program. -/
def Claims.QOperationEffects : Prop :=
  ∀ (c : CtxId) (f : QSlot) (w : ClauseWord) (s : State), (s.regs c).guard f.gp f.gn = true →
    let r := s.regs c
    let a := (r.sr f.sr).toNat % 2 ^ 52
    let before := s.escaped c ++ storeOfWord r w ++ tensorOfWord r w ++ tableOfWord r w ++ placeOfWord r w
    (s.Issues c (w.withQ 2 f) → Answers (exec (.fset c f w) s) fun t =>
      t.escaped c = before ++ [.fset f.f (low32 (r.sr f.sr) + f.imm)]) ∧
    (s.Issues c (w.withQ 3 f) → Answers (exec (.fadd c f w) s) fun t => t.escaped c = before ++ [.fadd f.f f.imm]) ∧
    (s.Issues c (w.withQ 5 f) → Answers (exec (.post c f w) s) fun t => t.escaped c = before ++ [.post (f.imm.setWidth 16)]) ∧
    (s.Issues c (w.withQ 6 f) → Answers (exec (.cmd c f w) s) fun t =>
      ∃ l, t.escaped c = before ++ [.cmd l] ∧ entryRejected l = false ∧ ent l 0 1 ≠ 1 ∧
        (s.dev.region a = .software → s.dev.atHand a = true → (s.escaped c).all (fun e => !e.isStore) = true →
          storeOfWord r w = [] → l = Line.ofBytes (s.dev.mem.read a 64))) ∧
    (s.Issues c (w.withQ 7 f) → Answers (exec (.endProgram c f w) s) fun t =>
      t.escaped c = before ++ [.endp] ∧ t.dev.ctx[c].cp.ready = none)

/-- Tables 08-3, 08-4 and 08-6: the operations whose effects wait in the escape buffer. -/
def Obligations.EffectsOfTensorTableAndQSlots : Prop := Claims.TensorAndTableEffects ∧ Claims.QOperationEffects

/-- R166, R179: the word of an FWAIT issues with p[PD] the poison of its counter; the word of a TWAIT with p[PD] = 1 where
the comparator fired in the Period in which it began to wait, also when it is tried again after the tick, 0 where the context
does not hold it or the tick came first. -/
def Claims.WaitsWritePredicate : Prop :=
  ∀ (c : CtxId) (f : QSlot) (w : ClauseWord) (s : State), (s.regs c).guard f.gp f.gn = true →
    (s.Issues c (w.withQ 1 f) → Answers (exec (.fwait c f w) s) fun t =>
      (t.regs c).pr f.pd = (if f.pd = 0 then true else s.dev.fencePoisoned c f.f) ∧
      ((s.dev.fence c f.f) - (low32 ((s.regs c).sr f.sr) + f.imm)).toNat < 2 ^ 31) ∧
    (s.Issues c (w.withQ 4 f) → Answers (exec (.twait c f w) s) fun t =>
      (t.regs c).pr f.pd = (if f.pd = 0 then true else
        s.dev.ctx[c].cp.twait.any (·.fired) || (s.dev.holdsCmp c f.ci.toNat &&
          s.dev.ctx[c].cp.twait.all (fun w => decide (w.period = s.dev.per.number.toNat)) &&
          (s.dev.cmp[f.ci.toNat]'(f.ci.isLt)).fired)))

/-- R151, R179: a word whose FWAIT counter has not reached its target does not issue: no register changes, nothing enters the
escape buffer, and the processor reads WAITING on that counter. -/
def Claims.UnmetFwaitHoldsTheWord : Prop :=
  ∀ (c : CtxId) (f : QSlot) (w : ClauseWord) (s : State), s.dev.serving = true →
    s.dev.seen.atIssue c (w.withQ 1 f) = true → (s.regs c).guard f.gp f.gn = true → f.ci = 0 →
    2 ^ 31 ≤ ((s.dev.fence c f.f) - (low32 ((s.regs c).sr f.sr) + f.imm)).toNat →
    Answers (exec (.fwait c f w) s) fun t =>
      t.regs c = s.regs c ∧ t.escaped c = s.escaped c ∧ t.dev.ctx[c].cp.st = .waiting ∧ t.dev.ctx[c].cp.awaited = f.f

/-- R151, R166, R179: FWAIT and TWAIT. -/
def Obligations.WaitsOfTheQSlot : Prop := Claims.WaitsWritePredicate ∧ Claims.UnmetFwaitHoldsTheWord

/-- R149 to R153: a slot operation leaves every register that its word does not name as written, every fence counter and
poison bit, the loop descriptor and row-unit tables, every other context's processor, the commands, the Period and the
captures; a word that neither loads nor reads a CMD entry leaves all the rest of the device, every byte of memory included. -/
def Obligations.WordFrame : Prop :=
  ∀ (i : Instr) (c : CtxId) (w : ClauseWord) (s : State), slotWord i = some (c, w) → s.Issues c w →
    Answers (exec i s) fun t =>
      (∀ y : Dest, Res.d y ∉ (Acts.of (s.regs c) w).writes → (t.regs c).get y = (s.regs c).get y) ∧
      (∃ es, t.escaped c = s.escaped c ++ es) ∧
      t.dev.ctx[c].cp.fence = s.dev.ctx[c].cp.fence ∧ t.dev.ctx[c].cp.poison = s.dev.ctx[c].cp.poison ∧
      t.dev.ctx[c].ldt = s.dev.ctx[c].ldt ∧ (∀ c', c' ≠ c → t.dev.ctx[c'].cp = s.dev.ctx[c'].cp) ∧
      t.dev.cmds = s.dev.cmds ∧ t.dev.per = s.dev.per ∧
      t.pending = s.pending ∧ t.snap = s.snap ∧ t.ctxSnap = s.ctxSnap ∧
      ((Acts.of (s.regs c) w).a.all (fun f => !f.isLoad) = true → (Acts.of (s.regs c) w).qIs 6 = false →
        ({ t.dev with ctx := s.dev.ctx, out := s.dev.out } : Dev) = s.dev ∧
        ({ t.dev.ctx[c] with cp := s.dev.ctx[c].cp } : Ctx) = s.dev.ctx[c] ∧
        ∀ k, memByte t.dev.mem.cells k = memByte s.dev.mem.cells k)

/-- R150: a slot names a guard predicate and a negate bit; a field of zeros does nothing; a slot whose guard is false has no
effect of any kind, the rest of the word unaffected: its word does what the word with a field of zeros there does. -/
def Obligations.FalseGuardIsNoOperation : Prop :=
  (∀ (r : Snap) (w : ClauseWord) (n : SlotName), (Acts.of r (w.withNop n)).idle n = true) ∧
  (∀ (r : Snap) (w : ClauseWord), [SlotName.q, .t, .v, .a, .s1, .s0].map (guardOf r w) =
    [(w.q.gp, w.q.gn), (w.t.gp, w.t.gn), (w.v.gp, w.v.gn), (w.a.gp, w.a.gn), (w.s1.gp, w.s1.gn), (w.s0.gp, w.s0.gn)].map
      fun (g : BitVec 3 × Bool) => r.pr g.1 != g.2) ∧
  ∀ (i : Instr) (c : CtxId) (w : ClauseWord) (n : SlotName) (s : State), slotWord i = some (c, w) →
    guardOf (s.regs c) w n = false → s.dev.ctx[c].cp.ibuf = [] → exec i s = exec (.nop c n w) s

/-- R152, R153, R194: where the S1 slot does not act and no END is in the word, the next word follows. -/
def Claims.SequentialProgramCounter : Prop :=
  ∀ (i : Instr) (c : CtxId) (w : ClauseWord) (s : State), slotWord i = some (c, w) → s.Issues c w →
    (Acts.of (s.regs c) w).qIs 7 = false →
    ((Acts.of (s.regs c) w).s1 = none ∨ ∃ f, (Acts.of (s.regs c) w).s1 = some f ∧ f.op.toNat < 0x30) →
    Answers (exec i s) fun t => (t.regs c).pc = (s.regs c).pc + 1

/-- R152, R153, R194: where the program goes after a word. -/
def Obligations.ProgramCounterOfAWord : Prop := Claims.BranchTargets ∧ Claims.SequentialProgramCounter

/-- R152, R170, R178: a word that raises a program fault has no effect: its registers, program counter and loads stay, and
nothing enters the escape buffer. The program issues no word after it; while earlier effects wait to become durable, the
class and the offset stand with the program. -/
def Obligations.FaultingWordHasNoEffect : Prop :=
  ∀ (i : Instr) (c : CtxId) (w : ClauseWord) (s : State), slotWord i = some (c, w) → s.dev.serving = true →
    s.dev.seen.raises c w ≠ 0 →
    Answers (exec i s) fun t =>
      t.regs c = s.regs c ∧ t.escaped c = s.escaped c ∧ t.dev.ctx[c].cp.ready = none ∧
      (s.escaped c ≠ [] → ∃ p, t.dev.ctx[c].cp.prog = some p ∧
        p.faulted = some (BitVec.ofNat 8 (s.dev.seen.raises c w), (s.regs c).pc))

/-! ## The pair behind a processor (07) -/

/-- R191, R259, R266, Table 08-9: the oldest load in flight whose bytes are known writes its destination, s0 excepted, and
leaves the others in flight; with an uncorrectable error, from before or found as memory returns the data, its destination is
marked; an error that is corrected, or none, changes no byte of memory. -/
def Claims.LoadReturnWritesDestination : Prop :=
  ∀ (c : CtxId) (l : Load) (rest : List Load) (f : EccFinding) (s : State), s.dev.serving = true →
    s.dev.ctx[c].cp.failed = false → (s.regs c).loads = l :: rest → l.companion = none → l.need = [] → l.ldt = none →
    let bad := l.bad || (l.key.isSome && decide (f = .uncorrectable))
    Answers (exec (.loadDataReturn c f) s) fun t =>
      (t.regs c).get l.dest = (match l.dest with
        | .s i => if i = 0 then 0 else ((loadValue l.signed l.bytes).setWidth 64).setWidth 512
        | .p i => if i = 0 then bitLine true else bitLine ((loadValue l.signed l.bytes).getLsbD 0)
        | .v _ => loadValue l.signed l.bytes) ∧
      (t.regs c).loads = rest ∧
      (∀ y, y ≠ l.dest → (t.regs c).get y = (s.regs c).get y) ∧
      (bad = false → (t.regs c).bad = (s.regs c).bad) ∧
      (bad = true → l.dest ≠ .s 0 → l.dest ∈ (t.regs c).bad) ∧
      t.dev.ctx[c].cp.fence = s.dev.ctx[c].cp.fence ∧
      (f = .clean ∨ l.key = none → t.dev.mem = s.dev.mem) ∧ (f = .corrected → t.dev.mem.cells = s.dev.mem.cells)

/-- R135, R171, R192: the bytes of an LDTLD are checked as they return: s[RD] is 0 where the entry is accepted, else the number
of the check that failed, 0xFF with an uncorrectable error; the entry, with TYPE 0 where it is refused, takes the place that
the LDTLD has kept among the effects of the program, and is in the table at once where its checkpoint waits for it alone. -/
def Claims.LdtldReturnChecksEntry : Prop :=
  ∀ (c : CtxId) (l : Load) (rest : List Load) (f : EccFinding) (i : BitVec 8) (rd : BitVec 6) (s : State),
    s.dev.serving = true → s.dev.ctx[c].cp.failed = false →
    (s.regs c).loads = l :: rest → l.companion = none → l.need = [] → l.ldt = some i → l.dest = .s rd →
    let bad := l.bad || (l.key.isSome && decide (f = .uncorrectable))
    let check : BitVec 8 := if bad then 0xFF else BitVec.ofNat 8 (ldtCheck (BitVec.ofNat 2048 (leNat l.bytes)))
    ∃ e : BitVec 2048, (check = 0 → e = BitVec.ofNat 2048 (leNat l.bytes)) ∧ (check ≠ 0 → ldtType e = 0) ∧
      Answers (exec (.loadDataReturn c f) s) fun t =>
        ((t.regs c).sr rd = if rd = 0 then 0 else check.setWidth 64) ∧
        (s.dev.ctx[c].cp.drained = false → (t.regs c).loads = rest) ∧
        (∀ before after, s.escaped c = before ++ .ldtld i :: after → Effect.ldtld i ∉ before ++ after →
          s.dev.ctx[c].cp.drained = false → t.escaped c = before ++ .ldt i e check :: after) ∧
        (∀ snap, s.dev.ctx[c].cp.drained = true → s.dev.ctx[c].cp.ckpt = some (snap, [.ldtld i]) →
          s.dev.ctx[c].cp.escape.contains (.ldtld i) = false → (∀ p, s.dev.ctx[c].cp.prog = some p → p.faulted = none) →
          s.tablesWf → t.dev.ldtEntry c i.toNat = e ∧ t.dev.ctx[c].cp.durable = snap)

/-- R161, R165, R167, R171, R188, R192: a checkpoint that becomes durable releases its effects: an FSET writes its counter and
clears poison, an FADD adds and leaves poison, a store writes its bytes and no others, an LDTLD's entry and an RUPLD's word
enter their tables, and the state of the checkpoint is the durable one; one that still holds the place of an LDTLD waits for
its data. -/
def Obligations.DurableCheckpointReleases : Prop :=
  ∀ (c : CtxId) (snap : Snap) (e : Effect) (s : State), s.dev.serving = true →
    s.dev.ctx[c].cp.ckpt = some (snap, [e]) → s.dev.ctx[c].cp.failed = false →
    (∀ p, s.dev.ctx[c].cp.prog = some p → p.faulted = none) → s.tablesWf →
    (∀ f v, e = .fset f v → Answers (exec (.checkpointDurable c) s) fun t =>
      t.dev.fence c f = v ∧ t.dev.fencePoisoned c f = false ∧ t.dev.ctx[c].cp.durable = snap ∧
      ∀ f', f' ≠ f → t.dev.fence c f' = s.dev.fence c f') ∧
    (∀ f n, e = .fadd f n → Answers (exec (.checkpointDurable c) s) fun t =>
      t.dev.fence c f = s.dev.fence c f + n ∧ t.dev.ctx[c].cp.poison = s.dev.ctx[c].cp.poison ∧
      t.dev.ctx[c].cp.durable = snap ∧ ∀ f', f' ≠ f → t.dev.fence c f' = s.dev.fence c f') ∧
    (∀ a bs, e = .store 0 a bs → s.memWf → 0 < bs.length → a % 64 + bs.length ≤ 64 → s.dev.region a = .software → s.dev.rcl.dir = [] →
      Answers (exec (.checkpointDurable c) s) fun t =>
        t.dev.mem.read a bs.length = bs ∧ t.dev.ctx[c].cp.durable.pc = snap.pc ∧
        (∀ y : Dest, (t.regs c).get y = (s.regs c).get y) ∧
        ∀ k, k < a ∨ a + bs.length ≤ k → memByte t.dev.mem.cells k = memByte s.dev.mem.cells k) ∧
    (∀ i, e = .ldtld i → Answers (exec (.checkpointDurable c) s) fun t =>
      t.dev.ctx[c].cp.drained = true ∧ t.dev.ctx[c].cp.ckpt = some (snap, [e]) ∧ t.dev.ctx[c].ldt = s.dev.ctx[c].ldt ∧
      t.dev.ctx[c].cp.durable = s.dev.ctx[c].cp.durable) ∧
    (∀ i v check, e = .ldt i v check → Answers (exec (.checkpointDurable c) s) fun t =>
      t.dev.ldtEntry c i.toNat = v ∧ t.dev.ctx[c].cp.durable = snap ∧
      ∀ j, j ≠ i.toNat → t.dev.ldtEntry c j = s.dev.ldtEntry c j) ∧
    (∀ epi i v, e = .rup epi i v → Answers (exec (.checkpointDurable c) s) fun t =>
      t.dev.epiWord c epi.toNat i.toNat = v ∧ t.dev.ctx[c].cp.durable = snap)

/-! ## The Period (02) -/

namespace Sys2Proof.Machine

/-- The ticks that the Kraip makes by its own means: the command, when it applies, and the source time of the tick, in ns
(R24 to R28). -/
def ownTicks : List (Instr × (Period → Bool) × (Period → Nat)) :=
  [(.internalTick, fun p => decide (p.source = 0), fun p => p.epoch + p.k * (1000000000 * p.den) / p.num),
   (.holdoverEntry, fun p => decide (p.pstate = .locked),
    fun p => p.lastSrc + (1005 * (1000000000 * p.den) + (1000 * p.num - 1)) / (1000 * p.num)),
   (.holdoverTick, fun p => decide (p.pstate = .holdover), fun p =>
    p.base + if p.intervals.length = 16 then p.intervals.sum / 16 else 1000000000 * p.den / p.num),
   (.acquireTimeout, fun p => decide (p.pstate = .acquiring) && !p.newSetting,
    fun p => p.lastSrc + (3 * (1000000000 * p.den) + (2 * p.num - 1)) / (2 * p.num)),
   (.newSettingTimeout, fun p => decide (p.pstate = .acquiring) && p.newSetting,
    fun p => p.lastSrc + (3 * (1000000000 * p.den) + (2 * p.num - 1)) / (2 * p.num))]

/-- The number of the Period in force and the time of its tick. -/
def Dev.periodOf (d : Dev) : DWord × Nat := (d.per.number, d.per.lastTick)

/-- A source event that the Kraip uses: that of the source in force, SYNC0 under the conditions of R398. -/
def Dev.usesEvent (d : Dev) (k : SrcKind) (sys : Nat) : Prop :=
  match k with
  | .syncIn => d.per.source = 1
  | .sync0 => d.per.source = 2 ∧ (d.net.al = 4 ∨ d.net.al = 8) ∧ d.sync0Active = true ∧ ∀ y, d.net.lastSys = some y → y < sys

end Sys2Proof.Machine

/-- R24 to R28, R29: a tick that the Kraip makes by its own means, at a module that no tick lead holds back, starts the next
Period at its source time; a Dependent in HOLDOVER keeps its distance to it (R306). -/
def Claims.OwnTicksStartPeriods : Prop :=
  ∀ k ∈ ownTicks, ∀ s : State, s.dev.canTick = true → k.2.1 s.dev.per = true → s.dev.leads = false →
    Answers (exec k.1 s) fun t =>
      t.dev.periodOf = (s.dev.per.number + 1, k.2.2 s.dev.per +
        if s.dev.per.source = 3 && !s.dev.isHead then s.dev.per.lastTick - s.dev.per.lastSrc else 0) ∧
      t.pending = s.pending ∧ t.snap = s.snap ∧ t.ctxSnap = s.ctxSnap

/-- A message to a module is on its way (Table 12-4): it has left, or its flit waits at a port. -/
def Sent (t : State) (m : ModId) (x : GrpMsg) : Prop :=
  Output.group m x ∈ t.dev.out ∨ ∃ p : PortId, ∃ f ∈ t.dev.port[p].txq, f.msg = some (m, x)

/-- R306: the Head of a group with another member sends its TICK flits, with the number of the group Period that comes, and
ticks when the lead has elapsed. -/
def Claims.HeadSendsTicksAndWaits : Prop :=
  (∀ k ∈ ownTicks, ∀ s : State, s.dev.canTick = true → k.2.1 s.dev.per = true → s.dev.leads = true →
    Answers (exec k.1 s) fun t =>
      t.dev.periodOf = s.dev.periodOf ∧
      t.dev.grp.leadTick = some (k.2.2 s.dev.per, k.2.2 s.dev.per + s.dev.grp.lead.toNat) ∧
      ∀ m ∈ s.dev.others, ∃ h, Sent t m (.tick s.dev.nextG.toNat s.dev.per.rate h s.dev.grp.module
        s.dev.grp.lead.toNat s.dev.per.num s.dev.per.den)) ∧
  (∀ (s : State) (a e : Nat), s.dev.serving = true → s.dev.per.started = true → s.dev.grp.leadTick = some (a, e) →
    Answers (exec .tickLeadElapsed s) fun t => t.dev.periodOf = (s.dev.per.number + 1, e))

/-- R24 to R29, R306: the ticks that the Kraip makes itself, alone and as the Head of a group. -/
def Obligations.TicksOfTheModule : Prop := Claims.OwnTicksStartPeriods ∧ Claims.HeadSendsTicksAndWaits

/-- R25 to R28: what an event of the source in force does, at a module that no tick lead holds back, by the time x since the
last tick: in LOCKED a tick inside 0.995 T to 1.005 T and none outside; in ACQUIRING a tick inside 0.5 T to 1.5 T (that 1.5 T
bounds it is the model's reading, log entry 33); in HOLDOVER a tick within 0.005 T of the tick that is due. -/
def Claims.SourceEventWindows : Prop :=
  ∀ (k : SrcKind) (at_ sys : Nat) (s : State), s.dev.canTick = true → s.dev.usesEvent k sys → s.dev.leads = false →
    let p := s.dev.per
    let e := max p.now at_ + 120
    let x := e - p.lastSrc
    let T := 1000000000 * p.den
    let due := p.base + if p.intervals.length = 16 then p.intervals.sum / 16 else T / p.num
    let ticks := Answers (exec (.sourceEvent k at_ sys) s) fun t => t.dev.periodOf = (p.number + 1, e)
    let stays := Answers (exec (.sourceEvent k at_ sys) s) fun t => t.dev.periodOf = s.dev.periodOf
    (p.pstate = .locked → 1000 * p.num * x < 995 * T → stays) ∧
    (p.pstate = .locked → 995 * T ≤ 1000 * p.num * x → 1000 * p.num * x ≤ 1005 * T → ticks) ∧
    (p.pstate = .locked → 1005 * T < 1000 * p.num * x → stays) ∧
    (p.pstate = .acquiring → T ≤ 2 * p.num * x → 2 * p.num * x ≤ 3 * T → ticks) ∧
    (p.pstate = .acquiring → 2 * p.num * x < T ∨ 3 * T < 2 * p.num * x → stays) ∧
    (p.pstate = .holdover → 200 * p.num * (due - e) ≤ T → 200 * p.num * (e - due) ≤ T → ticks)

/-- R306: a Dependent takes a TICK flit of its Head that comes inside the window of R25, and ticks L_T − d_m after it; a flit of
another sender moves nothing. -/
def Claims.TickFlitSetsDependentTick : Prop :=
  ∀ (at_ g lead num den : Nat) (rate h : BitVec 8) (m : ModId) (s : State), s.dev.canTick = true → s.dev.isHead = false →
    let p := s.dev.per
    let e := max p.now at_
    let x := e - p.lastSrc
    (s.dev.headFor m = true → p.source = 3 → p.pstate = .locked → 995 * (1000000000 * p.den) ≤ 1000 * p.num * x →
        1000 * p.num * x ≤ 1005 * (1000000000 * p.den) →
      Answers (exec (.tickFlit at_ g rate h m lead num den) s) fun t =>
        t.dev.grp.leadTick = some (e, e + ((BitVec.ofNat 16 lead).toNat -
          if s.dev.grp.myDelay = 0xFFFF then 0 else s.dev.grp.myDelay.toNat)) ∧
        t.dev.grp.gperiod = BitVec.ofNat 64 g ∧ t.dev.periodOf = s.dev.periodOf) ∧
    (s.dev.headFor m = false → Answers (exec (.tickFlit at_ g rate h m lead num den) s) fun t =>
        t.dev.grp.leadTick = none ∧ t.dev.grp.gperiod = s.dev.grp.gperiod ∧ t.dev.per = p)

/-- R25 to R28, R306: events of a source and TICK flits of the Head. -/
def Obligations.TickSourcesAndWindows : Prop := Claims.SourceEventWindows ∧ Claims.TickFlitSetsDependentTick

/-- R43, R50, R344, R465: the zeroing of a freed share zeroes its bytes in every scratchpad and no other byte; SYNC_OUT falls
at the end of its pulse; a comparator that is armed fires once, for every processor that waits on it too (R166). -/
def Obligations.SmallEventsOfThePeriod : Prop :=
  ∀ s : State,
    (∀ (c : CtxId) (z : Zeroing), s.dev.serving = true → s.dev.zeroing.find? (fun z => z.c = c && !z.done) = some z →
      z.base + z.units * 262144 ≤ padSize → s.memWf →
      Answers (exec (.shareZeroed c) s) fun t =>
        (∀ (a : ArrId) (o : Nat), o < padSize → memByte t.dev.mem.cells (padKey a.val o) =
          if z.base ≤ o ∧ o < z.base + z.units * 262144 then 0 else memByte s.dev.mem.cells (padKey a.val o)) ∧
        (∀ k, k < 2 ^ 52 → memByte t.dev.mem.cells k = memByte s.dev.mem.cells k) ∧
        t.dev.zeroing.length = s.dev.zeroing.length ∧
        (t.dev.zeroing.filter fun z => !z.done).length + 1 = (s.dev.zeroing.filter fun z => !z.done).length ∧
        t.dev.ctx = s.dev.ctx) ∧
    (s.dev.per.syncOutHigh = true → Answers (exec .syncOutPulseEnd s) fun t =>
      t.dev.per = { s.dev.per with syncOutHigh := false, now := max s.dev.per.now s.dev.per.pulseEnd } ∧
      t.dev.out = [.syncOut false]) ∧
    (∀ i : Fin 8, s.dev.serving = true → s.dev.cmp[i].armed = true → s.dev.cmp[i].fired = false →
      Answers (exec (.comparatorFire i) s) fun t =>
        t.dev.cmp = s.dev.cmp.set i { s.dev.cmp[i] with fired := true } ∧ t.dev.per.number = s.dev.per.number ∧
        t.dev.cod.reserve = (decide (s.dev.cmp[i].holder = 0x2510) || s.dev.cod.reserve) ∧
        (∀ c : CtxId, t.dev.ctx[c] = { s.dev.ctx[c] with cp := { s.dev.ctx[c].cp with
          twait := s.dev.ctx[c].cp.twait.map fun w => if w.ci.toNat = i.val then { w with fired := true } else w } }) ∧
        t.dev.cmds = s.dev.cmds ∧ t.dev.mem = s.dev.mem)

/-! ## Queues, launches and fences (15, 07) -/

namespace Sys2Proof.Machine

/-- The monitored companion line at `a` can be re-read at once, and the Kraip itself has written no byte of it since (R349). -/
abbrev Dev.monitors (d : Dev) (a : Nat) : Prop :=
  d.rclUp = true ∧ ringAddrOk a 64 = true ∧ d.rcl.monitor.contains a = true ∧ d.ownMask a = 0

end Sys2Proof.Machine

/-- R360: the re-read of the line that holds TAIL gives its new value, and the queue stays ENABLED; a TAIL more than SIZE
above HEAD stops it with CAUSE 2. -/
def Claims.TailLineIsTaken : Prop :=
  ∀ (c : CtxId) (q : QId) (line : Line) (s : State),
    let x := s.dev.ctx[c].queue[q]
    s.dev.serving = true → x.st = .enabled → s.memWf → s.dev.monitors (x.lineAddr 1) →
    Answers (exec (.tailLineInvalidation c q line false) s) fun t =>
      t.dev.ctx[c].queue[q].tail = line.setWidth 64 ∧ t.dev.ctx[c].queue[q].head = x.head ∧
      (((line.setWidth 64 : DWord) - x.head).toNat ≤ x.size → t.dev.ctx[c].queue[q].st = .enabled) ∧
      (x.size < ((line.setWidth 64 : DWord) - x.head).toNat →
        t.dev.ctx[c].queue[q].st = .error ∧ t.dev.ctx[c].queue[q].cause = 2) ∧
      t.dev.per = s.dev.per ∧ t.dev.cmds = s.dev.cmds

/-- R360, R362: an entry that has been fetched is held with the number of the next Period and HEAD rises by one; an entry
whose read was poisoned stops an enabled queue with CAUSE 3. (A queue that is being enabled again waits for the entries on
their way, the model's choice, log entry 109, and then begins at 0.) -/
def Claims.FetchedEntryIsHeld : Prop :=
  ∀ (c : CtxId) (q : QId) (e : Line) (poison : Bool) (s : State),
    let x := s.dev.ctx[c].queue[q]
    s.dev.serving = true → s.dev.rclUp = true → x.issued ≠ x.head →
    Answers (exec (.entryFetched c q e poison) s) fun t =>
      t.dev.ctx[c].queue[q].held = x.held ++
        [{ no := x.head.toNat, line := e, period := s.dev.per.number.toNat + 1, poison := poison }] ∧
      (x.st ≠ .enabling → t.dev.ctx[c].queue[q].head = x.head + 1) ∧
      (poison = true → x.st = .enabled → t.dev.ctx[c].queue[q].st = .error ∧ t.dev.ctx[c].queue[q].cause = 3) ∧
      (poison = false → x.st ≠ .enabling → t.dev.ctx[c].queue[q].st = x.st) ∧
      t.dev.per = s.dev.per ∧ t.dev.cmds = s.dev.cmds

/-- R367, R369: the re-read of the line that holds CPL_RD or an event ring's RD gives its new value. -/
def Claims.ReadPointerLinesAreTaken : Prop :=
  (∀ (c : CtxId) (q : QId) (line : Line) (s : State), s.dev.serving = true → s.memWf →
    s.dev.monitors s.dev.ctx[c].queue[q].cplLine →
    Answers (exec (.cplRdInvalidation c q line) s) fun t =>
      t.dev.ctx[c].queue[q].cplRd = line.setWidth 64 ∧
      t.dev.ctx[c].queue[q].seq = s.dev.ctx[c].queue[q].seq ∧ t.dev.cmds = s.dev.cmds ∧ t.dev.per = s.dev.per) ∧
  (∀ (r : Option CtxId) (line : Line) (s : State), s.dev.serving = true → s.memWf →
    (s.dev.ringOf r).st = .enabled → s.dev.monitors ((s.dev.ringOf r).lineAddr 1) →
    Answers (exec (.eventRdInvalidation r line) s) fun t =>
      t.dev.ringOf r = { s.dev.ringOf r with rd := line.setWidth 64 } ∧ t.dev.cmds = s.dev.cmds)

/-- R360, R362, R367, R369: lines of queues and rings that the companion has written. -/
def Obligations.QueueLinesAreTaken : Prop := Claims.TailLineIsTaken ∧ Claims.FetchedEntryIsHeld ∧ Claims.ReadPointerLinesAreTaken

/-- R155, R362, R364: the queue whose turn it is dispatches its oldest entry: it becomes a command with the entry's waits and
signal, and a LAUNCH holds its queue; an entry that was poisoned or is rejected becomes no command and completes. -/
def Obligations.DispatchMakesTheCommand : Prop :=
  ∀ (c : CtxId) (q : QId) (h : Held) (rest : List Held) (s : State), s.dev.serving = true →
    s.dev.ctx[c].resident = true → s.dev.turnOf c = some q → s.dev.ctx[c].queue[q].held = h :: rest →
    s.dev.ctx[c].noPair = false → s.dev.ctx[c].g.quota ≠ 0 → (∀ x ∈ s.dev.cmds, x.id < s.dev.nextId) →
    Answers (exec (.entryDispatch c q) s) fun t =>
      t.dev.ctx[c].queue[q].held = rest ∧ t.dev.ctx[c].turn = q + 1 ∧ t.dev.nextId = s.dev.nextId + 1 ∧
      ((h.poison = false ∧ entryRejected h.line = false) →
        t.dev.cmds = s.dev.cmds ++ [{ entryCmd c q h with id := s.dev.nextId }] ∧
        t.dev.ctx[c].queue[q].launch = (if ent h.line 0 1 = 1 then some s.dev.nextId else none) ∧
        t.dev.ctx[c].queue[q].seq = s.dev.ctx[c].queue[q].seq) ∧
      ((h.poison = true ∨ entryRejected h.line = true) →
        t.dev.cmds = s.dev.cmds ∧ t.dev.ctx[c].queue[q].seq = s.dev.ctx[c].queue[q].seq + 1)

namespace Sys2Proof.Machine

/-- Command `x`, numbered `id`, is ready to run in a block in service and is of one of `kinds`. -/
abbrev Dev.hasReady (d : Dev) (id : Nat) (x : Cmd) (kinds : List Nat) : Prop :=
  d.serving = true ∧ d.cmd? id = some x ∧ x.phase = .ready ∧ x.kind ∈ kinds

/-- The 64 bytes of a launch's image header, where they can be read at once. -/
abbrev Dev.headerAt (d : Dev) (a : Nat) : Prop :=
  a % 64 = 0 ∧ d.region a = .software ∧ d.atHand a = true ∧ d.mem.bad a = false

/-- The image that a LAUNCH entry names. -/
def imageOf (x : Cmd) : Nat := ent x.entry 16 8 % 2 ^ 52

end Sys2Proof.Machine

/-- R156, Tables 07-4 and 07-5: a LAUNCH whose header passes the checks starts its program at the entry word with the
registers of Table 07-5 and an empty escape buffer. -/
def Claims.LaunchStartsProgram : Prop :=
  ∀ (id : Nat) (x : Cmd) (s : State), s.dev.hasReady id x [0x01] → s.dev.ctx[x.c].cp.prog = none →
    s.dev.ctx[x.c].cp.pair.isSome = true → ent x.entry 36 28 = 0 → s.dev.headerAt (imageOf x) →
    let h := s.dev.mem.read (imageOf x) 64
    headerOk h s.dev.ctx[x.c].g.units = true →
    BitVec.ofNat 8 (natAt h 17 1) &&& ~~~s.dev.ctx[x.c].heldMc = 0 → BitVec.ofNat 8 (natAt h 18 1) &&& ~~~s.dev.ctx[x.c].heldCmp = 0 →
    Answers (exec (.launch id) s) fun t =>
      let r := t.regs x.c
      t.dev.ctx[x.c].cp.prog = some { launch := x.id, image := imageOf x, words := natAt h 8 4, build := BitVec.ofNat 32 (natAt h 20 4) } ∧
      r.pc = BitVec.ofNat 32 (natAt h 12 4) ∧ r.sr 1 = BitVec.ofNat 64 (ent x.entry 24 8) ∧
      r.sr 2 = BitVec.ofNat 64 (x.period % 2 ^ 32) ∧ r.sr 3 = BitVec.ofNat 64 x.c.val ∧ r.sr 4 = BitVec.ofNat 64 x.entryNo ∧
      r.sr 5 = BitVec.ofNat 64 (ent x.entry 32 4) ∧ r.sr 6 = BitVec.ofNat 64 s.dev.ctx[x.c].g.base ∧
      r.sr 7 = BitVec.ofNat 64 (s.dev.flt.pool + 256 * s.dev.ctx[x.c].g.quota) ∧
      (∀ i : BitVec 6, 8 ≤ i.toNat → r.sr i = 0) ∧ (∀ i, r.vr i = 0) ∧ (∀ i : BitVec 3, i ≠ 0 → r.pr i = false) ∧
      t.escaped x.c = [] ∧ t.dev.ctx[x.c].cp.st = .running

/-- R156, R170: a LAUNCH whose image is not a multiple of 64, or whose body is not zero above its fields, is a program fault
of class 7 before any word: it ends with no program, and the processor's registers tell class and offset. -/
def Claims.LaunchFaultsOnBadImage : Prop :=
  ∀ (id : Nat) (x : Cmd) (s : State), s.dev.hasReady id x [0x01] → s.dev.ctx[x.c].cp.prog = none →
    s.dev.ctx[x.c].cp.pair.isSome = true → (imageOf x % 64 ≠ 0 ∨ ent x.entry 36 28 ≠ 0) →
    Answers (exec (.launch id) s) fun t =>
      t.dev.cmd? id = none ∧ t.dev.ctx[x.c].cp.prog = none ∧ t.dev.ctx[x.c].cp.fault = 7 ∧
      t.dev.ctx[x.c].cp.faultPc = 0xFFFFFFFF ∧ t.regs x.c = s.regs x.c

/-- R156, R170: a LAUNCH that starts its program and one that is a fault. -/
def Obligations.LaunchOfAProgram : Prop := Claims.LaunchStartsProgram ∧ Claims.LaunchFaultsOnBadImage

/-- R366, R163 to R165: a FENCE of a queue sets its counter and clears its poison, or adds to it and leaves its poison; its own
signal then advances by one; no other counter of any context changes. -/
def Claims.FenceCommandsMoveTheirCounter : Prop :=
  ∀ (id : Nat) (x : Cmd) (s : State), s.dev.hasReady id x [0x02] → x.launch = none →
    let f : BitVec 8 := BitVec.ofNat 8 (ent x.entry 17 1)
    let v : Word := BitVec.ofNat 32 (ent x.entry 20 4)
    let more : BitVec 8 → Word := fun g => if x.sig = some g then 1 else 0
    (ent x.entry 16 1 = 0 → Answers (exec (.fenceSet id) s) fun t =>
      t.dev.fence x.c f = v + more f ∧ t.dev.fencePoisoned x.c f = false ∧ t.dev.cmd? id = none ∧
      (∀ g, g ≠ f → t.dev.fence x.c g = s.dev.fence x.c g + more g ∧
        t.dev.fencePoisoned x.c g = s.dev.fencePoisoned x.c g) ∧
      ∀ c', c' ≠ x.c → t.dev.ctx[c'].cp = s.dev.ctx[c'].cp) ∧
    (ent x.entry 16 1 = 1 → Answers (exec (.fenceAdd id) s) fun t =>
      t.dev.fence x.c f = s.dev.fence x.c f + v + more f ∧
      (∀ g, t.dev.fencePoisoned x.c g = s.dev.fencePoisoned x.c g) ∧ t.dev.cmd? id = none ∧
      (∀ g, g ≠ f → t.dev.fence x.c g = s.dev.fence x.c g + more g) ∧
      ∀ c', c' ≠ x.c → t.dev.ctx[c'].cp = s.dev.ctx[c'].cp)

/-- R367, R370, Table 15-12: the completion record of a queue entry, here of a FENCE: while the companion cannot be reached it
waits behind the records of its queue; with room in the ring and none waiting it stands in the ring, PHASE told by how often
the ring has been walked. -/
def Claims.CompletionRecordOfAnEntry : Prop :=
  ∀ (id : Nat) (x : Cmd) (s : State), s.dev.hasReady id x [0x02] → x.launch = none → ent x.entry 16 1 = 0 →
    let y := s.dev.ctx[x.c].queue[x.q]
    let late := s.dev.ctx[x.c].g.skip = false ∧ x.period < s.dev.per.number.toNat
    let r : CplRec :=
      { seq := y.seq, status := if late then 0x03 else 0x00, flags := 0, kind := 1, cmd := 2
        entry := BitVec.ofNat 32 x.entryNo, arg0 := x.arg0, arg1 := x.arg1, period := x.period, fault := x.fault }
    (s.dev.rclUp = false → Answers (exec (.fenceSet id) s) fun t =>
      (∃ l, l <:+ y.recs ∧ t.dev.ctx[x.c].queue[x.q].recs = l ++ [.cpl r]) ∧ t.dev.ctx[x.c].queue[x.q].seq = y.seq + 1) ∧
    (s.dev.rclUp = true → y.recs = [] → y.cplSize ≠ 0 → y.cplNext - y.cplRd.toNat < y.cplSize →
      2 ^ 51 ≤ y.cplRing → y.cplRing + 32 * y.cplSize ≤ 2 ^ 52 → y.cplRing % 32 = 0 → s.memWf →
      Answers (exec (.fenceSet id) s) fun t =>
        t.dev.ctx[x.c].queue[x.q].recs = [] ∧ t.dev.ctx[x.c].queue[x.q].cplNext = y.cplNext + 1 ∧
        t.dev.ctx[x.c].queue[x.q].seq = y.seq + 1 ∧
        t.dev.mem.read (y.cplRing + 32 * (y.cplNext % y.cplSize)) 32 =
          leBytes r.seq.toNat 4 ++ [r.status, 0, 1, 2] ++ leBytes r.entry.toNat 4 ++ leBytes r.arg0.toNat 4 ++
            leBytes r.arg1.toNat 4 ++ leBytes r.period 4 ++ leBytes (s.dev.per.now - s.dev.per.lastTick) 4 ++
            [BitVec.ofNat 8 (min 255 (s.dev.per.number.toNat - r.period)), r.fault,
             BitVec.ofNat 8 (64 * x.q.val + x.c.val), if y.cplNext / y.cplSize % 2 = 0 then 0x80 else 0])

/-- R163 to R165, R366, R367, R370: the direct fence commands and the record of one. -/
def Obligations.FencesAndCompletionRecords : Prop := Claims.FenceCommandsMoveTheirCounter ∧ Claims.CompletionRecordOfAnEntry

/-! ## Registers, captures and the indirect pair (00, 15) -/

namespace Sys2Proof.Machine

/-- The privileged window takes writes: windows are open, the block is not halted and not in recovery (R420, R441). -/
abbrev Dev.takesWrites (d : Dev) : Prop := d.windowsOpen = true ∧ d.dump.halted = false ∧ d.sec.stage ≠ .recovery

/-- The two ways a write of a privileged register reaches the block: as itself, and as a window write of 4 bytes. -/
def privWrites (off : Nat) (v : Word) : List Instr := [.registerWrite .priv off v, .winWrite 0 off 4 v]

/-- Privileged offsets below 0x40_0000 that a write changes something at, RWP registers apart. -/
def writableAt (x : Nat) : Bool :=
  x = 0x18 || (decide (0x10000 ≤ x ∧ x < 0x20000) && decide (0x800 ≤ x % 4096 ∧ x % 4096 < 0x820)) || x = 0x20600 ||
    x / 0x10000 = 0xB || x = 0xD0000 || [0xE0100, 0xE0104, 0xE0108, 0xE010C, 0x100000, 0x100004, 0x100008].contains x

/-- Nothing but the answers sent out differs. -/
abbrev SameButOut (s t : State) : Prop := { t with dev := { t.dev with out := s.dev.out } } = s

end Sys2Proof.Machine

/-- R9, R11, R12, R374, R420: what a write of a register does: an RWP register keeps the value pending and in force what it
was; SUP_OVERRUN loses the bits written 1; IND_ADDR takes offset and a DOMAIN that Table 15-17 defines; a register that is
not writable keeps its value; and while the block is halted the write only counts. -/
def Claims.RegisterWriteEffects : Prop :=
  ∀ (off : Nat) (v : Word) (s : State), off % 4 = 0 → off < 0x400000 → ∀ i ∈ privWrites off v,
    (s.dev.takesWrites → rwpMask off ≠ 0 → Answers (exec i s) fun t =>
      t.dev.readPending off = v &&& rwpMask off ∧ t.dev.ctx = s.dev.ctx ∧ t.dev.lex = s.dev.lex ∧ t.dev.ring = s.dev.ring ∧
      ∀ x, x ≠ off → rwpMask x ≠ 0 → t.dev.readPending x = s.dev.readPending x) ∧
    (s.dev.takesWrites → off = 0x18 → Answers (exec i s) fun t =>
      t.dev = { s.dev with per := { s.dev.per with overrun := s.dev.per.overrun &&& ~~~(v.setWidth 16) }, out := [] }) ∧
    (s.dev.takesWrites → off = 0x100000 → s.dev.ind.busy = false → Answers (exec i s) fun t =>
      t.dev.ind.offset = v.setWidth 24 ∧
      t.dev.ind.domain = (if 1 ≤ bits v 24 8 ∧ bits v 24 8 ≤ 0x13 then BitVec.ofNat 8 (bits v 24 8) else s.dev.ind.domain)) ∧
    (s.dev.takesWrites → rwpMask off = 0 → writableAt off = false → Answers (exec i s) (SameButOut s)) ∧
    (s.dev.windowsOpen = true → s.dev.dump.halted = true → ¬(0xB0000 ≤ off ∧ off < 0xC0000) → Answers (exec i s) fun t =>
      t.dev = (({ s.dev with out := [] } : Dev).count 0) ∧ t.snap = s.snap)

/-- R9, R124, R174: a write of CTX_FENCE_POISON clears the poison of the counters whose bits are 1; ARR_INJECT with ARM set is
armed for an array that is in service and disarmed for one that is not; the one that was armed before goes, also from the tile
that it was bound to. -/
def Claims.PoisonClearAndInject : Prop :=
  ∀ s : State, s.dev.takesWrites →
    (∀ (c : CtxId) (j : Fin 8) (v : Word), Answers (exec (.fencePoisonClear c j v) s) fun t =>
      (∀ f : BitVec 8, t.dev.fencePoisoned c f =
        (s.dev.fencePoisoned c f && !(decide (f.toNat / 32 = j.val) && v.getLsbD (f.toNat % 32)))) ∧
      t.dev.ctx[c].cp.fence = s.dev.ctx[c].cp.fence ∧ (∀ c', c' ≠ c → t.dev.ctx[c'] = s.dev.ctx[c']) ∧
      ({ t.dev with ctx := s.dev.ctx, out := s.dev.out } : Dev) = s.dev) ∧
    (∀ (v : Word) (a : ArrId), v.getLsbD 31 = true → bits v 16 8 = a.val → Answers (exec (.arrInject v) s) fun t =>
      t.dev = { s.dev with
        inject := if s.dev.arr[a].st = .inService then some { arr := a, row := bits v 8 8, col := bits v 0 7 } else none
        tiles := s.dev.tiles.map fun y =>
          if s.dev.inject.any (fun i => i.tile = some y.uid) then { y with injectAt := none } else y
        out := [] })

/-- R13, R355, R356: a read of 4 aligned bytes of a window answers the register's value and changes nothing; any other access
of a window answers 0 for a read, changes no register, and forms one record of the fault logger. -/
def Claims.WindowAccesses : Prop :=
  ∀ (off size : Nat) (v : Word) (s : State), s.dev.windowsOpen = true →
    (off % 4 = 0 → (off = 0xB000C → s.dev.lex.busy = false) → Answers (exec (.winRead 0 off 4) s) fun t =>
      t.dev = { s.dev with out := [.window 0 off (s.readPriv off)] } ∧ t.snap = s.snap ∧ t.ctxSnap = s.ctxSnap ∧ t.pending = s.pending) ∧
    (∀ c : CtxId, off % 4 = 0 → off < 65536 → Answers (exec (.winRead 1 (65536 * c.val + off) 4) s) fun t =>
      t.dev = { s.dev with out := [.window 1 (65536 * c.val + off) (s.readCtxWin c off)] }) ∧
    (∀ r : Fin 3, r = 2 ∨ size ≠ 4 ∨ off % 4 ≠ 0 →
      (Answers (exec (.winRead r off size) s) fun t =>
        Output.window r.val off 0 ∈ t.dev.out ∧ t.dev.seqs.fault = s.dev.seqs.fault + 1 ∧ t.dev.ctx = s.dev.ctx ∧ t.snap = s.snap) ∧
      (Answers (exec (.winWrite r off size v) s) fun t =>
        t.dev.seqs.fault = s.dev.seqs.fault + 1 ∧ t.dev.ctx = s.dev.ctx ∧ t.dev.lex = s.dev.lex ∧ t.dev.rwp = s.dev.rwp ∧
        t.snap = s.snap))

/-- R376, R377, R379: TAKE captures the whole device at once and counts; a context's capture takes its own; and the holding
register of the Period number reads what was captured, whatever has happened since. -/
def Claims.CapturesHoldTheMoment : Prop :=
  ∀ s : State, s.dev.takesWrites →
    (Answers (exec .take s) fun t =>
      t.snap = some { s.dev with out := [] } ∧ t.dev = { s.dev with takes := s.dev.takes + 1, out := [] } ∧
      t.ctxSnap = s.ctxSnap ∧
      ∀ d : Dev, State.readHold { t with dev := d } 8 = loWord s.dev.per.number ∧
        State.readHold { t with dev := d } 0xC = hiWord s.dev.per.number) ∧
    (∀ c : CtxId, Answers (exec (.ctxSnapTake c) s) fun t =>
      t.ctxSnap = s.ctxSnap.set c (some { s.dev with out := [] }) ∧ t.snap = s.snap ∧
      t.dev = { s.dev with ctxTakes := s.dev.ctxTakes.set c (s.dev.ctxTakes[c] + 1), out := [] })

/-- R13, R355, R356, R376, R377, R379: accesses of the windows and captures. -/
def Obligations.WindowReadsAndCaptures : Prop := Claims.WindowAccesses ∧ Claims.CapturesHoldTheMoment

/-- R375: an access of the indirect pair: a write of IND_DATA or a READ starts it, a second one meanwhile sets OVERRUN and
does nothing else; it completes with the domain's value, or with ERR where its offset names nothing, and steps the offset
with AUTO_INC. R269, R270: a margin run ends with its errors, held at all ones, and returns its channel to service. -/
def Claims.IndirectPairAndMargin : Prop :=
  ∀ (v : Word) (s : State),
    (s.dev.takesWrites → s.dev.ind.busy = false →
      (Answers (exec (.indirectWrite v) s) fun t =>
        t.dev = { s.dev with ind := { s.dev.ind with data := v, busy := true, err := false, wr := some v }, out := [] }) ∧
      (Answers (exec .indirectRead s) fun t =>
        t.dev = { s.dev with ind := { s.dev.ind with busy := true, err := false, wr := none }, out := [] })) ∧
    (s.dev.takesWrites → s.dev.ind.busy = true → ∀ i ∈ [Instr.indirectWrite v, .indirectRead],
      Answers (exec i s) fun t => t.dev = { s.dev with ind := { s.dev.ind with overrun := true }, out := [] }) ∧
    (s.dev.ind.busy = true → s.dev.ind.wr = none → Answers (exec .indirectComplete s) fun t =>
      t.dev = { s.dev with
        ind := { s.dev.ind with
          data := s.dev.indValue.getD 0, err := s.dev.indValue.isNone, busy := false
          offset := if s.dev.ind.autoInc then s.dev.ind.offset + 4 else s.dev.ind.offset }
        out := [] }) ∧
    (∀ (ch : Fin 192) (n : Nat), s.dev.mem.ch[ch].mrgRun = true → Answers (exec (.marginDone ch n) s) fun t =>
      t.dev.mem.ch[ch].mrgDone = true ∧ t.dev.mem.ch[ch].mrgRun = false ∧
      t.dev.mem.ch[ch].mrgErrors.toNat = min n 65535 ∧
      t.dev.mem.ch[ch].st = (if s.dev.mem.ch[ch].st = .held then .inService else s.dev.mem.ch[ch].st) ∧
      t.dev.mem.cells = s.dev.mem.cells)

/-- R9, R11, R12, R124, R174, R374, R375, R420: writes of registers and the indirect pair. -/
def Obligations.RegisterWritesAndIndirectPair : Prop := Claims.RegisterWriteEffects ∧ Claims.PoisonClearAndInject ∧ Claims.IndirectPairAndMargin

/-! ## The Lexicon (16) -/

namespace Sys2Proof.Machine

/-- A mailbox operation on entry (i, j) ends with `code` and, for a read, the bytes `bs`; no value in force changes, and
outside the Lexicon nothing does. -/
abbrev MailboxEnds (s t : State) (code : Word) (bs : List Byte) : Prop :=
  t.dev.lex.result = code ∧ t.dev.lex.busy = false ∧ t.dev.lex.count = s.dev.lex.count + 1 ∧
    t.dev.lex.len = BitVec.ofNat 11 bs.length ∧ t.dev.lex.data = lexWords bs ∧ t.dev.lex.vals = s.dev.lex.vals ∧
    t.dev.lex.buf = s.dev.lex.buf ∧ ({ t.dev with lex := s.dev.lex, out := s.dev.out } : Dev) = s.dev ∧ t.snap = s.snap

/-- The mailbox can start an operation. -/
abbrev Dev.mailboxFree (d : Dev) : Prop := d.windowsOpen = true ∧ d.sec.stage ≠ .recovery ∧ d.lex.busy = false

end Sys2Proof.Machine

/-- R380 to R385: the mailbox reads of an entry that is not in flash: in force, pending for the next tick, captured by TAKE
for an Immediate entry, and the description; an entry that does not exist is refused with no bytes. -/
def Claims.MailboxReads : Prop :=
  ∀ (i : BitVec 16) (j : BitVec 8) (s : State), s.dev.mailboxFree →
    (∀ x ∈ [Instr.lexReadInForce i j, .lexReadPending i j, .lexReadCaptured i j, .lexReadDescription i j],
      lexExists i.toNat j.toNat ≠ 0 → Answers (exec x s) fun t => MailboxEnds s t (lexExists i.toNat j.toNat) []) ∧
    (∀ r, lexExists i.toNat j.toNat = 0 → lexRow i.toNat j.toNat = some r →
      (Answers (exec (.lexReadDescription i j) s) fun t => MailboxEnds s t 0 (lexDescription r)) ∧
      (lexFlash i.toNat j.toNat = false →
        (Answers (exec (.lexReadInForce i j) s) fun t => MailboxEnds s t 0 (s.dev.lexLive i.toNat j.toNat)) ∧
        (Answers (exec (.lexReadPending i j) s) fun t => MailboxEnds s t 0
          (match s.dev.lexPending i.toNat j.toNat with | some v => leBytes v r.ty.bytes | none => s.dev.lexLive i.toNat j.toNat)) ∧
        (Answers (exec (.lexReadCaptured i j) s) fun t => MailboxEnds s t 0
          (if r.ap = .immediate then (s.snap.getD s.dev).lexLive i.toNat j.toNat else s.dev.lexLive i.toNat j.toNat))))

/-- R383: a read of an entry in flash keeps the mailbox busy, and ends with the entry's bytes or with 0x0606_0000; a CoE
upload that waits for one is answered. -/
def Claims.MailboxReadsOfFlash : Prop :=
  ∀ (i : BitVec 16) (j : BitVec 8) (s : State),
    (s.dev.mailboxFree → lexExists i.toNat j.toNat = 0 → lexFlash i.toNat j.toNat = true →
      ∀ x ∈ [Instr.lexReadInForce i j, .lexReadPending i j, .lexReadCaptured i j], Answers (exec x s) fun t =>
        t.dev.lex.busy = true ∧ t.dev.lex.flashWait = some (i.toNat, j.toNat) ∧ t.dev.lex.result = s.dev.lex.result ∧
        t.dev.lex.count = s.dev.lex.count) ∧
    (∀ ok, s.dev.lex.flashWait = some (i.toNat, j.toNat) → Answers (exec (.lexFlashReadDone ok) s) fun t =>
        MailboxEnds s t (if ok then 0 else 0x06060000) (if ok then s.dev.lexLive i.toNat j.toNat else [])) ∧
    (∀ ok, s.dev.lex.flashWait = none → s.dev.lex.coeWait = some (i.toNat, j.toNat) →
      Answers (exec (.lexFlashReadDone ok) s) fun t =>
        t.dev.lex.coeWait = none ∧
        t.dev.out = [if ok then .sdo 0 (s.dev.lexLive i.toNat j.toNat) else .sdo 0x06060000 []])

/-- R380 to R385: reads of the Lexicon by mailbox and CoE. -/
def Obligations.LexiconReads : Prop := Claims.MailboxReads ∧ Claims.MailboxReadsOfFlash

/-- R386, R387, R389: a write, by mailbox or by CoE, that passes every check waits in the buffer for the tick and a later
one replaces it; one that fails a check is refused with that check's code and counted. Neither changes a value in force. A complete access by CoE
is aborted and reaches no entry (Table 16-7). -/
def Claims.LexiconWritesWaitForTheTick : Prop :=
  ∀ (i : BitVec 16) (j : BitVec 8) (bs : List Byte) (s : State),
    (s.dev.mailboxFree → bs = s.dev.lex.bytes.take s.dev.lex.len.toNat → Answers (exec (.lexWrite i j) s) fun t =>
      let code := s.dev.lexCheck false i.toNat j.toNat bs
      t.dev.lex.result = code ∧ t.dev.lex.busy = false ∧ t.dev.lex.vals = s.dev.lex.vals ∧
      (code = 0 → t.dev.lexPending i.toNat j.toNat = some (leNat bs) ∧ t.dev.lex.refused = s.dev.lex.refused ∧
        ∀ i' j', lexKey i' j' ≠ lexKey i.toNat j.toNat → t.dev.lexPending i' j' = s.dev.lexPending i' j') ∧
      (code ≠ 0 → t.dev.lex.buf = s.dev.lex.buf ∧ t.dev.lex.refused = satInc s.dev.lex.refused)) ∧
    (s.dev.coeOpen = true → Answers (exec (.coeSdoDownload i j bs true) s) fun t =>
      t.dev = { s.dev with out := [.sdo 0x06010000 []] }) ∧
    (s.dev.coeOpen = true → Answers (exec (.coeSdoDownload i j bs false) s) fun t =>
      let code := s.dev.lexCheck true i.toNat j.toNat bs
      t.dev.out = [.sdo code []] ∧ t.dev.lex.vals = s.dev.lex.vals ∧ t.dev.lex.busy = s.dev.lex.busy ∧
      (code = 0 → t.dev.lexPending i.toNat j.toNat = some (leNat bs)) ∧
      (code ≠ 0 → t.dev.lex.buf = s.dev.lex.buf ∧ t.dev.lex.refused = satInc s.dev.lex.refused))

/-- Table 16-3: a write is refused while the block is halted; of an entry that does not exist; of one that is read-only;
by CoE outside the scope in force, the security entries always; and with a length that is not its type's. -/
def Claims.LexiconWriteChecks : Prop :=
  ∀ (coe : Bool) (i j : Nat) (bs : List Byte) (d : Dev),
    (d.dump.halted = true → d.lexCheck coe i j bs = 0x08000022) ∧
    (d.dump.halted = false → lexExists i j ≠ 0 → d.lexCheck coe i j bs = lexExists i j) ∧
    (∀ r, d.dump.halted = false → lexExists i j = 0 → lexRow i j = some r →
      (r.rw = false → d.lexCheck coe i j bs = 0x06010002) ∧
      (r.rw = true → coe = true →
        (0x2A00 ≤ i ∧ i ≤ 0x2AFF) ∨ d.lexVal 0x2A01 1 = 0 ∨ (d.lexVal 0x2A01 1 = 1 ∧ ¬(0x2000 ≤ i ∧ i ≤ 0x20FF)) →
        d.lexCheck coe i j bs = 0x08000021) ∧
      (r.rw = true → coe = false → (∀ n, r.ty ≠ .ostr n) → r.ty ≠ .vstr → bs.length ≠ r.ty.bytes →
        d.lexCheck coe i j bs = 0x06070010))

/-- R386, R387, R389, Table 16-3: writes of the Lexicon by mailbox and CoE. -/
def Obligations.LexiconWrites : Prop := Claims.LexiconWritesWaitForTheTick ∧ Claims.LexiconWriteChecks

/-- R395 to R399: a CoE upload answers the bytes in force, or waits for the flash, and a complete access is aborted; an SDO Information request what it asks for; a request for a state
is answered with the state taken; links and distributed-clock registers hold what they are told; none of them changes the
Lexicon in force, its buffer or the Period. -/
def Obligations.FieldNetworkCommands : Prop :=
  ∀ s : State,
    (∀ (i : BitVec 16) (j : BitVec 8), s.dev.coeOpen = true → lexExists i.toNat j.toNat = 0 → lexFlash i.toNat j.toNat = false →
      Answers (exec (.coeSdoUpload i j false) s) fun t =>
        t.dev = { s.dev with out := [.sdo 0 (s.dev.lexLive i.toNat j.toNat)] }) ∧
    (∀ (i : BitVec 16) (j : BitVec 8), s.dev.coeOpen = true → lexExists i.toNat j.toNat = 0 → lexFlash i.toNat j.toNat = true →
      Answers (exec (.coeSdoUpload i j false) s) fun t =>
        t.dev = { s.dev with lex := { s.dev.lex with coeWait := some (i.toNat, j.toNat) }, out := [] }) ∧
    (∀ (i : BitVec 16) (j : BitVec 8), s.dev.coeOpen = true → lexExists i.toNat j.toNat ≠ 0 →
      Answers (exec (.coeSdoUpload i j false) s) fun t => t.dev = { s.dev with out := [.sdo (lexExists i.toNat j.toNat) []] }) ∧
    (∀ (i : BitVec 16) (j : BitVec 8), s.dev.coeOpen = true →
      Answers (exec (.coeSdoUpload i j true) s) fun t => t.dev = { s.dev with out := [.sdo 0x06010000 []] }) ∧
    (∀ r, s.dev.coeOpen = true → Answers (exec (.coeSdoInformation r) s) fun t =>
      t.dev = { s.dev with out := [.sdoInfo (sdoInfoAnswer r).1 (sdoInfoAnswer r).2] }) ∧
    (∀ st, s.dev.fieldRuns = true → Answers (exec (.alStateRequest st) s) fun t =>
      (st = 3 → t.dev.net.al = s.dev.net.al ∧ t.dev.out = [.al s.dev.net.al 0x0011]) ∧
      ((st = 1 ∨ st = 2 ∨ st = 4 ∨ st = 8) → (st ≤ s.dev.net.al ∨ st = 2 * s.dev.net.al) →
        t.dev.net.al = st ∧ t.dev.out = [.al st 0]) ∧
      t.dev.lex.buf = s.dev.lex.buf ∧ t.dev.lex.vals = s.dev.lex.vals ∧ t.dev.per = s.dev.per) ∧
    (∀ (p : Fin 2) (up : Bool), Answers (exec (.fieldPortLink p up) s) fun t =>
      t.dev.net.link0 = (if p = 0 then up else s.dev.net.link0) ∧ t.dev.net.link1 = (if p = 1 then up else s.dev.net.link1) ∧
      ({ t.dev with net := s.dev.net, out := s.dev.out } : Dev) = s.dev) ∧
    (∀ (a : BitVec 16) (v : BitVec 64), s.dev.fieldRuns = true → Answers (exec (.ethercatDatagram a v) s) fun t =>
      (escWidth a.toNat ≠ 0 → s.tablesWf → alGet 0 t.dev.net.esc a.toNat = v.toNat % 256 ^ escWidth a.toNat) ∧
      (∀ x, x ≠ a.toNat → alGet 0 t.dev.net.esc x = alGet 0 s.dev.net.esc x) ∧ t.dev.per = s.dev.per)

/-! ## Security (19) -/

namespace Sys2Proof.Machine

/-- Security command `op` starts at once: it is served, and none runs. -/
abbrev Dev.secFree (d : Dev) (op : Nat) : Prop := d.secServes op = true ∧ d.sec.busy = false

/-- A security command has ended with a status and a DETAIL, and touched neither contexts, commands nor the Period. -/
abbrev SecEnds (s t : State) (op : BitVec 4) (st : BitVec 8) (detail : Nat) : Prop :=
  t.dev.sec.status = st ∧ t.dev.sec.detail = BitVec.ofNat 8 detail ∧ t.dev.sec.lastOp = op ∧ t.dev.sec.busy = false ∧
    t.dev.ctx = s.dev.ctx ∧ t.dev.cmds = s.dev.cmds ∧ t.dev.per = s.dev.per ∧ t.pending = s.pending

/-- The bytes that the security command finds at its address, of an image as it is streamed. -/
def Dev.streamed (d : Dev) : List Byte :=
  (Dev.readStream { d with out := [] } d.secAddr d.sec.len.toNat).1

/-- The lines of the statement at the address of a security command are at hand. -/
abbrev Dev.statementHeld (d : Dev) : Prop := (Dev.readOpen d.seen .unit d.secAddr stmtBytes).2.rcl.missed = false

end Sys2Proof.Machine

/-- R450, R451: STAGE_IMAGE is held while a slot is TRIAL and exceeds above 64 MiB; an image that fails a check of R439 ends
with its reason and changes neither slot; one that passes stands in the slot that does not run, which becomes TRIAL, and the
running slot keeps its state. -/
def Claims.StageImage : Prop :=
  ∀ s : State, s.dev.secFree 1 → s.dev.sec.stage ≠ .recovery →
    let img := s.dev.streamed
    let r : ImgRead := fun o n => (img.drop o).take n
    let e := s.dev.imgCheck false r s.dev.sec.floor.toNat
    let other := !s.dev.sec.slot
    (s.dev.sec.trial.isSome = true → Answers (exec .stageImage s) fun t =>
      SecEnds s t 1 0x11 0 ∧ t.dev.sec.slots = s.dev.sec.slots ∧ t.dev.sec.flash = s.dev.sec.flash) ∧
    (s.dev.sec.trial = none → 2 ^ 26 < s.dev.sec.len.toNat → Answers (exec .stageImage s) fun t =>
      SecEnds s t 1 0x10 0 ∧ t.dev.sec.slots = s.dev.sec.slots ∧ t.dev.sec.flash = s.dev.sec.flash) ∧
    (s.dev.sec.trial = none → s.dev.sec.len.toNat ≤ 2 ^ 26 → Answers (exec .stageImage s) fun t =>
      SecEnds s t 1 (if e = 0 then 0 else 0x10) e ∧
      (e ≠ 0 → t.dev.sec.slots = s.dev.sec.slots ∧ t.dev.sec.flash = s.dev.sec.flash) ∧
      (e = 0 →
        t.dev.sec.img other = { st := .trial, rollback := BitVec.ofNat 16 (stRollback (imgStmt r)), version := BitVec.ofNat 32 (stVersion (imgStmt r)) } ∧
        (∀ i, i < img.length → some (flashByte t.dev.sec.flash (slotBase other + i)) = img[i]?) ∧
        t.dev.sec.recordSeq = s.dev.sec.recordSeq + 1) ∧
      t.dev.sec.img s.dev.sec.slot = s.dev.sec.img s.dev.sec.slot ∧ t.dev.sec.preferred = s.dev.sec.preferred)

/-- R450, R452, R457: CONFIRM makes the TRIAL slot CONFIRMED and preferred and raises the floor to its ROLLBACK, never
lowers it; DISCARD empties it; SWAP waits for the tick once the spare pair is ready; without a TRIAL slot, or a ready pair,
each is held. -/
def Claims.TrialCommands : Prop :=
  ∀ s : State,
    (s.dev.secFree 2 → ∀ b, s.dev.sec.trial = some b → Answers (exec .confirm s) fun t =>
      SecEnds s t 2 0 0 ∧ t.dev.sec.img b = { s.dev.sec.img b with st := .confirmed } ∧
      t.dev.sec.img (!b) = s.dev.sec.img (!b) ∧ t.dev.sec.preferred = b ∧
      t.dev.sec.floor.toNat = max s.dev.sec.floor.toNat (s.dev.sec.img b).rollback.toNat) ∧
    (s.dev.secFree 3 → ∀ b, s.dev.sec.trial = some b → Answers (exec .discard s) fun t =>
      SecEnds s t 3 0 0 ∧ t.dev.sec.img b = {} ∧ t.dev.sec.img (!b) = s.dev.sec.img (!b) ∧
      t.dev.sec.preferred = s.dev.sec.preferred ∧ t.dev.sec.floor = s.dev.sec.floor ∧ t.dev.sec.spareReady = false) ∧
    (s.dev.sec.trial = none →
      (s.dev.secFree 2 → Answers (exec .confirm s) fun t => SecEnds s t 2 0x11 0 ∧ t.dev.sec.slots = s.dev.sec.slots) ∧
      (s.dev.secFree 3 → Answers (exec .discard s) fun t => SecEnds s t 3 0x11 0 ∧ t.dev.sec.slots = s.dev.sec.slots)) ∧
    (s.dev.secFree 4 → Answers (exec .swap s) fun t =>
      SecEnds s t 4 (if s.dev.sec.spareReady then 0 else 0x11) 0 ∧
      t.dev.sec.swap = (s.dev.sec.spareReady || s.dev.sec.swap) ∧ t.dev.sec.slots = s.dev.sec.slots ∧ t.dev.sec.slot = s.dev.sec.slot)

/-- R450 to R452, R457: an image is staged, confirmed, discarded and swapped in. -/
def Obligations.ImagesOnTrial : Prop := Claims.StageImage ∧ Claims.TrialCommands

/-- R445, R446: INSTALL of a valid delegation signed by the root puts its key into the lowest empty slot, a revocation that takes
effect leaves no delegation of its key, and an invalid one exceeds the plan; UNLOCK with a token
that answers the challenge, is for this module and is signed by a key that may unlock unlocks the test port; any other
statement exceeds the plan and changes neither the keys nor the port. -/
def Claims.DelegationAndUnlock : Prop :=
  ∀ s : State,
    (let b := (Dev.readOpen s.dev.seen .unit s.dev.secAddr stmtBytes).1
     s.dev.secFree 5 → s.dev.statementHeld → Answers (exec .install s) fun t =>
      (∃ st, SecEnds s t 5 st 0 ∧ (st ≠ 0 → t.dev.sec.deleg = s.dev.sec.deleg)) ∧
      (∀ i : Fin 4, s.dev.stValid b = true → stKind b = 4 → stSigner b = 0 →
          (List.finRange 4).find? (fun i : Fin 4 => s.dev.sec.deleg[i].isNone) = some i →
          ((stField b 148 4).testBit 0 = true → s.dev.ownerSlot = none) →
        t.dev.sec.status = 0 ∧ t.dev.sec.deleg = s.dev.sec.deleg.set i (some
          { key := stKey b, owner := (stField b 148 4).testBit 0, debug := (stField b 148 4).testBit 1 })) ∧
      (s.dev.stValid b = true → stKind b = 5 → stSigner b = 0 → t.dev.sec.status = 0 →
        ∀ (i : Fin 4) (x : Deleg), t.dev.sec.deleg[i] = some x → x.key ≠ stKey b) ∧
      (s.dev.stValid b = false → t.dev.sec.status = 0x10)) ∧
    (let b := (Dev.readOpen s.dev.seen .unit s.dev.secAddr stmtBytes).1
     s.dev.secFree 9 → s.dev.statementHeld →
      let ok := s.dev.stValid b && stKind b = 7 && stSerial b = Config.serial.toNat &&
        leNat (stDigest b) = s.dev.sec.chal.toNat && s.dev.mayUnlock (stSigner b)
      Answers (exec .unlock s) fun t =>
        SecEnds s t 9 (if ok then 0 else 0x10) 0 ∧ t.dev.sec.unlocked = (ok || s.dev.sec.unlocked) ∧
        t.dev.sec.deleg = s.dev.sec.deleg)

/-- R443, R447, R448: EXTEND folds the digest of the bytes into M7 and no other measurement; QUOTE is held without an
identity and exceeds a short buffer, and else leaves its body behind the nonce; GET_CERTS exceeds a short buffer, and else
leaves the certificates. -/
def Claims.MeasureQuoteAndCertificates : Prop :=
  ∀ s : State, s.memWf →
    (s.dev.secFree 7 → 1 ≤ s.dev.sec.len.toNat → s.dev.sec.len.toNat ≤ 2 ^ 24 → Answers (exec .extend s) fun t =>
      SecEnds s t 7 0 0 ∧
      t.dev.sec.meas = s.dev.sec.meas.set 7 (digestLine (lineBytes s.dev.sec.meas[7] ++ digest s.dev.streamed))) ∧
    (s.dev.secFree 6 → s.dev.sec.idOk = false → Answers (exec .quote s) fun t => SecEnds s t 6 0x11 0 ∧ t.dev.mem = s.dev.mem) ∧
    (s.dev.secFree 6 → s.dev.sec.idOk = true → s.dev.sec.len.toNat < 50944 → Answers (exec .quote s) fun t =>
      SecEnds s t 6 0x10 0 ∧ t.dev.mem = s.dev.mem) ∧
    (s.dev.secFree 6 → s.dev.sec.idOk = true → 50944 ≤ s.dev.sec.len.toNat → s.dev.secAddr + 50944 ≤ 2 ^ 52 →
      s.dev.secAddr % 64 = 0 → s.dev.atHand s.dev.secAddr = true → Answers (exec .quote s) fun t =>
        SecEnds s t 6 0 0 ∧ t.dev.mem.read (s.dev.secAddr + 64) 1024 =
          s.dev.quoteBody (Dev.readOpen s.dev.seen .unit s.dev.secAddr 64).1) ∧
    (s.dev.secFree 8 → s.dev.sec.len.toNat < 60096 → Answers (exec .getCerts s) fun t => SecEnds s t 8 0x10 0 ∧ t.dev.mem = s.dev.mem) ∧
    (s.dev.secFree 8 → 60096 ≤ s.dev.sec.len.toNat → s.dev.secAddr + 60096 ≤ 2 ^ 52 → Answers (exec .getCerts s) fun t =>
        SecEnds s t 8 0 0 ∧ t.dev.mem.read s.dev.secAddr 60096 = (List.range 60096).map Config.certByte)

/-- R443, R445 to R448: the other commands of the security block. -/
def Obligations.DelegationMeasurementAndQuote : Prop := Claims.DelegationAndUnlock ∧ Claims.MeasureQuoteAndCertificates

/-- R446, R456, R457: the spare pair is ready when it has loaded the TRIAL image; the pair that loads after a swap becomes the
spare; and the test port serves its private instructions only when unlocked, taking any other for BYPASS. -/
def Claims.SpareSupervisorAndTestPort : Prop :=
  ∀ s : State,
    (s.dev.serving = true → s.dev.sec.spareLoads = true → s.dev.sec.trial.isSome = true → s.dev.spareSup.isSome = true →
      Answers (exec .spareReady s) fun t =>
        t.dev = { s.dev with sec := { s.dev.sec with spareReady := true, spareLoads := false }, out := [] }) ∧
    (s.dev.serving = true → Answers (exec .spareReloaded s) fun t =>
      (∀ k : Fin 2, t.dev.flt.sup[k] = if s.dev.flt.sup[k].loading then { s.dev.flt.sup[k] with loading := false, st := .spare }
        else s.dev.flt.sup[k]) ∧
      t.dev.flt.pair = s.dev.flt.pair ∧ t.dev.sec = s.dev.sec ∧ t.dev.ctx = s.dev.ctx) ∧
    (∀ i, s.dev.pwr.on = true → Answers (exec (.testPortInstruction i) s) fun t =>
      t.dev = { s.dev with out := [.test (match i with | .other n => if s.dev.sec.unlocked then .other n else .bypass | j => j)] })

/-! ## Power, reset and the halted state (18, 19, 20) -/

namespace Sys2Proof.Machine

/-- The die has left reset for the ROM step: every register but those of the security block is at its reset value, nothing is
captured, and the ROM has started an image or recovery. -/
abbrev Booted (s t : State) : Prop :=
  (t.dev.sec.stage = .loading ∨ t.dev.sec.stage = .recovery) ∧ t.dev.per = {} ∧ t.dev.lex = {} ∧
    t.dev.ctx = Vector.replicate 16 {} ∧ t.dev.mem = {} ∧ t.dev.cmds = [] ∧ t.dev.tiles = [] ∧ t.dev.rcl = {} ∧
    t.snap = none ∧ t.ctxSnap = Vector.replicate 16 none ∧ t.dev.life.latest = s.dev.life.latest ∧ t.pending = s.pending

/-- The rails are off: nothing but the module flash and the power pins is left. -/
abbrev RailsOff (s t : State) : Prop :=
  t.dev.pwr.on = false ∧ t.dev.pwr.rails = 0 ∧ t.dev.pwr.shutdown = false ∧ t.dev.sec.stage = .rom ∧ t.dev.per = {} ∧
    t.dev.mem = {} ∧ t.dev.cmds = [] ∧ t.dev.ctx = Vector.replicate 16 {} ∧ t.snap = none ∧
    t.dev.sec.flash = s.dev.sec.flash ∧ t.dev.life.latest = s.dev.life.latest ∧ t.dev.pwr.modEn = s.dev.pwr.modEn

/-- An orderly shutdown is under way (R462): the links and RCL are down, no tile runs, the last image is written. -/
abbrev ShutsDown (s t : State) : Prop :=
  t.dev.pwr.shutdown = true ∧ t.dev.serving = false ∧ t.dev.tiles = [] ∧ t.dev.rcl.st = .down ∧
    (∀ p : PortId, t.dev.port[p].st = (if s.dev.port[p].st = .disabled then .disabled else .down)) ∧
    t.dev.life.busy = true ∧ (s.dev.dump.halted = false → t.dev.life.reason = 1) ∧
    t.dev.ctx = s.dev.ctx ∧ t.dev.cmds = s.dev.cmds ∧ t.dev.periodOf = s.dev.periodOf

end Sys2Proof.Machine

/-- R433, R435, R436, R461, Table 20-6: how the block starts: MOD_EN raises the rails of a module that may start and whose
input lies in the operating range, or waits for the hold-off; the input's return starts a module that waits for it (that a value in
the range tells the return is the model's reading, log entry 114); the last rail, the end of RST_N and the watchdog before SERVICE bring it to the ROM step. -/
def Claims.PowerUpRows : Prop :=
  ∀ s : State, let p := s.dev.pwr
    (p.lockedOff = false → p.shutdown = false → p.holdoff = false → p.on = false → p.inReset = false → p.supplied = true →
      Answers (exec .modEnAssert s) fun t =>
        t.dev.pwr.on = true ∧ t.dev.pwr.modEn = true ∧ t.dev.pwr.rails = 0 ∧ t.dev.sec.stage = .rom ∧ t.dev.per = {}) ∧
    (p.lockedOff = false → p.holdoff = true → p.modEn = false → Answers (exec .modEnAssert s) fun t =>
      t.dev = { s.dev with pwr := { p with modEn := true, rise := true }, out := [] }) ∧
    (p.on = true → p.rails < 7 → Answers (exec .railGood s) fun t =>
      t.dev = { s.dev with pwr := { p with rails := p.rails + 1 }, out := [] }) ∧
    (p.on = true → p.rails = 7 → p.inReset = false → Answers (exec .railGood s) fun t =>
      Booted s t ∧ t.dev.pwr.rails = 8 ∧ t.dev.pwr.on = true) ∧
    (p.on = true → p.rails = 8 → p.inReset = true → Answers (exec .rstNRise s) fun t =>
      Booted s t ∧ t.dev.pwr.inReset = false) ∧
    (p.on = true → p.rails = 8 → p.inReset = false → s.dev.sec.stage ≠ .service → p.shutdown = false →
      Answers (exec .watchdogReset s) fun t => Booted s t) ∧
    (p.holdoff = true → p.modEn = true → p.lockedOff = false → p.inReset = false → p.supplied = true →
      Answers (exec .modEnHoldoffElapsed s) fun t => t.dev.pwr.on = true ∧ t.dev.pwr.rails = 0 ∧ t.dev.per = {}) ∧
    (∀ mv : Int, p.on = false → p.modEn = true → p.lockedOff = false → p.holdoff = false → p.inReset = false →
      34000 ≤ mv → mv ≤ 46000 → Answers (exec (.inputOutOfRange mv) s) fun t =>
        t.dev.pwr.on = true ∧ t.dev.pwr.rails = 0 ∧ t.dev.pwr.supply = mv ∧ t.dev.per = {}) ∧
    (p.holdoff = true → p.modEn = false → Answers (exec .modEnHoldoffElapsed s) fun t =>
      t.dev = { s.dev with pwr := { p with holdoff := false, rise := false, lockedOff := false }, out := [] })

/-- R435, R461 to R463, R470, Table 20-2: how it stops: a rail late, an input out of its absolute range or MOD_EN before the
first Period take the rails at once; RST_N holds the die in reset; MOD_EN in service and the over-temperature trip start the
orderly shutdown, the trip to stay off. -/
def Obligations.PowerDownRows : Prop :=
  ∀ s : State, let p := s.dev.pwr
    (p.on = true → p.rails < 8 → Answers (exec .railWindowExpired s) fun t =>
      RailsOff s t ∧ t.dev.pwr.lockedOff = true) ∧
    (∀ mv : Int, p.on = true → mv < 32000 ∨ 48000 < mv → Answers (exec (.inputOutOfRange mv) s) fun t => RailsOff s t) ∧
    (∀ mv : Int, p.on = true → 32000 ≤ mv → mv ≤ 48000 → Answers (exec (.inputOutOfRange mv) s) fun t =>
      t.dev = { s.dev with pwr := { p with supply := mv, range := decide (mv < 34000 ∨ 46000 < mv) }, out := [] }) ∧
    (p.shutdown = false → p.on = true → p.rails = 8 → Answers (exec .rstNReset s) fun t =>
      t.dev.pwr.inReset = true ∧ t.dev.sec.stage = .rom ∧ t.dev.per = {} ∧ t.dev.ctx = Vector.replicate 16 {} ∧
      t.dev.mem = {} ∧ t.dev.cmds = [] ∧ t.snap = none ∧ t.dev.sec.flash = s.dev.sec.flash) ∧
    (p.modEn = true → p.shutdown = false → p.on = true → s.dev.per.started = false → Answers (exec .modEnDeassert s) fun t =>
      t.dev.pwr.on = false ∧ t.dev.pwr.modEn = false ∧ t.dev.pwr.rails = 0) ∧
    (p.modEn = true → p.shutdown = false → p.on = true → s.dev.per.started = true → Answers (exec .modEnDeassert s) fun t =>
      ShutsDown s t ∧ t.dev.pwr.modEn = false) ∧
    (p.on = true → p.shutdown = false → s.dev.firmwareRuns = true → Answers (exec .overTemperatureTrip s) fun t =>
      ShutsDown s t ∧ t.dev.pwr.lockedOff = true ∧ t.dev.pwr.trip = true)

/-- R433, R439: reaching SERVICE, with every component of the image as its manifest says, from a start that has run no Period starts Period 0 at that time, and the boot counts as one
that reached service. -/
def Claims.ServiceStartsPeriodZero : Prop :=
  ∀ s : State, s.dev.booted = true → s.dev.sec.stage = .loading → s.dev.per.started = false → s.dev.componentsOk = true →
    Answers (exec .serviceReached s) fun t =>
      t.dev.periodOf = (0, s.dev.per.now) ∧ t.dev.per.started = true ∧ t.dev.serving = true ∧ t.dev.sec.lastFails = 0

/-- R433, R435, R436, R439, R461, Table 20-6: from MOD_EN to Period 0. -/
def Obligations.StartOfTheBlock : Prop := Claims.PowerUpRows ∧ Claims.ServiceStartsPeriodZero

/-- R425, R426, R429, R469, R471, R472: a reading of the sensors is the last value of each and raises its highest; WARN follows
the die sensors and RANGE the input; a powered second counts as one; the flush of an image that has been programmed makes it
the latest, one that failed goes into the next sector. -/
def Obligations.SensorsAndLifetime : Prop :=
  ∀ s : State,
    (∀ r : Reading, s.dev.awake = true → Answers (exec (.sensorSample r) s) fun t =>
      (∀ i : Fin 74, t.dev.pwr.temp[i] = r.temps.getD i.val 0 ∧
        t.dev.pwr.tempMax[i].toInt = max s.dev.pwr.tempMax[i].toInt (r.temps.getD i.val 0).toInt) ∧
      t.dev.pwr.vin = r.vin ∧ t.dev.pwr.iin = r.iin ∧ t.dev.pwr.pin = r.pin ∧
      t.dev.pwr.pinMax.toNat = max s.dev.pwr.pinMax.toNat r.pin.toNat ∧
      t.dev.pwr.range = decide (r.vin.toNat < 34000 ∨ 46000 < r.vin.toNat) ∧
      (t.dev.pwr.warn = true ↔ ∃ i : Fin 16, (16 * s.dev.lexVal 0x2902 4 : Int) ≤ (r.temps.getD i.val 0).toInt) ∧
      ({ t.dev with pwr := s.dev.pwr, out := s.dev.out } : Dev) = s.dev) ∧
    (s.dev.awake = true → Answers (exec .histogramSecond s) fun t =>
      t.dev.life.powered = s.dev.life.powered + 1 ∧ t.dev.life.sinceImage = s.dev.life.sinceImage + 1 ∧
      t.dev.life.nextS.toNat = s.dev.life.nextS.toNat - 1 ∧
      ({ t.dev with life := s.dev.life, out := s.dev.out } : Dev) = s.dev) ∧
    (∀ (ok : Bool) (m : Image), s.dev.firmwareRuns = true → s.dev.life.busy = true → s.dev.life.writing = some m →
      s.dev.pwr.shutdown = false → Answers (exec (.lifetimeFlush ok) s) fun t =>
        (ok = true → t.dev.life.latest = some m ∧ t.dev.life.busy = false ∧ t.dev.life.writing = none ∧
          (∀ i, i < 17216 → some (flashByte t.dev.sec.flash (sectorAddr s.dev.life.sector + i)) = m.bytes[i]?)) ∧
        (ok = false → t.dev.life = { s.dev.life with sector := s.dev.life.sector + 1 })) ∧
    (∀ m : Image, s.dev.firmwareRuns = true → s.dev.life.busy = true → s.dev.life.writing = some m →
      s.dev.pwr.shutdown = true → Answers (exec (.lifetimeFlush true) s) fun t =>
        t.dev.pwr.on = false ∧ t.dev.life.latest = some m)

/-- R428: a powered second adds one to the temperature bin of the hottest die sensor and to the voltage bin of the input, and to
no other bin. -/
def Obligations.PoweredSecondCountsTwoBins : Prop :=
  ∀ (s : State) (hot : BitVec 16), s.dev.awake = true → alWf 0 s.dev.life.hist →
    (∃ k : Fin 16, s.dev.pwr.temp[k.val] = hot) → (∀ k : Fin 16, s.dev.pwr.temp[k.val].toInt ≤ hot.toInt) →
    let t16 : Int := hot.toInt / 16
    let temperature : Nat := if t16 < 0 then 0 else if 127 < t16 then 127 else t16.toNat
    let mv : Nat := s.dev.pwr.vin.toNat
    let voltage : Nat := if mv < 25000 then 0 else if 255 < (mv - 25000) / 100 then 255 else (mv - 25000) / 100
    Answers (exec .histogramSecond s) fun t => ∀ j, alGet 0 t.dev.life.hist j =
      (if j = temperature ∨ j = 128 + voltage then min (2 ^ 32 - 1) (alGet 0 s.dev.life.hist j + 1) else alGet 0 s.dev.life.hist j)

/-- R418 to R420, Table 18-1: a fatal fault halts the block: the state is captured, every command has ended, the processors are
idle, no tile runs, every port is DOWN, the dump tells CAUSE and UNIT, and an image with reason 2 is written; so it does when a
further fault stops the dump, which its state then tells. -/
def Obligations.FatalFaultHalts : Prop :=
  ∀ (cause : FatalCause) (unit : Word) (stop : Option DumpStop) (s : State), s.dev.serving = true →
    Answers (exec (.fatalFault cause unit stop) s) fun t =>
      t.dev.dump.halted = true ∧ t.dev.serving = false ∧ t.dev.flt.fatal = true ∧
      (stop = none → t.dev.dump.st = 2 ∧ t.dev.dump.flags.getLsbD 3 = false) ∧
      (∀ n, stop = some (.region n) → t.dev.dump.st = 3 ∧ t.dev.dump.flags.getLsbD 3 = true) ∧
      t.dev.dump.cause = FatalCauseOf cause ∧ t.dev.dump.unit = unit ∧ t.dev.dump.period = s.dev.per.number ∧
      t.dev.cmds = [] ∧ t.dev.tiles = [] ∧ (∀ c : CtxId, t.dev.ctx[c].cp.st = .idle ∧ t.dev.ctx[c].cp.prog = none) ∧
      (∀ c : CtxId, t.dev.ctx[c].queue.toList.all (fun q => q.held.isEmpty) = true) ∧
      (∀ p : PortId, t.dev.port[p].st = .down) ∧ t.dev.life.busy = true ∧ t.dev.life.reason = 2 ∧
      t.dev.periodOf = s.dev.periodOf ∧
      ∃ d, t.snap = some d ∧ d.per = s.dev.per ∧ d.ctx = s.dev.ctx ∧ d.cmds = s.dev.cmds ∧ d.mem = s.dev.mem

/-- R420: a halted block stays halted, whatever the command, until a reset or the loss of power: no Period begins, no command
is taken or ends, and no processor moves. -/
def Obligations.HaltedStays : Prop :=
  ∀ (i : Instr) (s : State), s.dev.dump.halted = true →
    Answers (exec i s) fun t =>
      (t.dev.dump.halted = true ∧ t.dev.periodOf = s.dev.periodOf ∧ t.dev.cmds = s.dev.cmds ∧
        ∀ c : CtxId, t.dev.ctx[c].cp.st = s.dev.ctx[c].cp.st ∧ t.dev.ctx[c].cp.prog = s.dev.ctx[c].cp.prog ∧
          (t.regs c).pc = (s.regs c).pc ∧ (t.regs c).s = (s.regs c).s ∧ (t.regs c).p = (s.regs c).p ∧ (t.regs c).v = (s.regs c).v ∧
          t.dev.ctx[c].st = s.dev.ctx[c].st) ∨
      (t.dev.dump.halted = false ∧ t.dev.per.started = false ∧ t.dev.cmds = [])

/-- R461, R463: a module whose rails are off stays off, with no Period and nothing of the security block running, but for
MOD_EN, the end of its hold-off, the end of RST_N and an input that lies in the operating range. -/
def Obligations.OffStays : Prop :=
  ∀ (i : Instr) (s : State), s.dev.pwr.on = false → i ≠ .modEnAssert → i ≠ .modEnHoldoffElapsed → i ≠ .rstNRise →
    (∀ mv : Int, 34000 ≤ mv → mv ≤ 46000 → i ≠ .inputOutOfRange mv) → Answers (exec i s) fun t =>
      t.dev.pwr.on = false ∧ t.dev.pwr.rails = s.dev.pwr.rails ∧ t.dev.sec.stage = s.dev.sec.stage ∧
      t.dev.sec.flash = s.dev.sec.flash ∧ t.dev.periodOf = s.dev.periodOf ∧ t.dev.cmds = s.dev.cmds

/-! ## Faults, repair and memory (11, 17) -/

/-- R172, R408, R409: a lockstep compare of a running pair that fails stops its processor and discards what has not escaped, with a spare pair to
take over; the failover resumes from the last durable checkpoint on the spare, and the pair that failed goes to TEST; a test's
end makes it spare or retires it; and the spare Supervisor pair takes over likewise. -/
def Claims.PairsFailOver : Prop :=
  ∀ s : State, s.dev.serving = true →
    (∀ (c : CtxId) (k : Fin 18), s.dev.ctx[c].cp.pair = some k → s.dev.ctx[c].cp.failed = false → s.dev.sparePair.isSome = true →
      Answers (exec (.lockstepCompareFailure c) s) fun t =>
        t.dev.ctx[c].cp.st = .failover ∧ t.dev.ctx[c].cp.failed = true ∧ t.escaped c = [] ∧ t.regs c = s.regs c ∧
        t.dev.ctx[c].cp.durable = s.dev.ctx[c].cp.durable ∧ t.dev.ctx[c].cp.fence = s.dev.ctx[c].cp.fence ∧
        t.dev.recovering = true ∧ t.dev.flt.pair[k].fails = satInc s.dev.flt.pair[k].fails ∧
        (∀ c', c' ≠ c → t.dev.ctx[c'] = s.dev.ctx[c']) ∧ t.dev.mem = s.dev.mem ∧ t.dev.cmds = s.dev.cmds) ∧
    (∀ (c : CtxId) (k : Fin 18), s.dev.ctx[c].cp.failed = true → s.dev.sparePair = some k →
      Answers (exec (.cpFailover c) s) fun t =>
        t.regs c = s.dev.ctx[c].cp.durable ∧ t.dev.ctx[c].cp.failed = false ∧ t.dev.ctx[c].cp.pair = some k ∧
        t.dev.ctx[c].cp.st = (if s.dev.ctx[c].cp.prog.isSome then .running else .idle) ∧
        t.dev.ctx[c].cp.failovers = satInc s.dev.ctx[c].cp.failovers ∧ t.dev.ctx[c].cp.fence = s.dev.ctx[c].cp.fence ∧
        t.dev.flt.pair[k].st = .active ∧ t.dev.flt.pair[k].logical = some c ∧
        (∀ o, s.dev.ctx[c].cp.pair = some o → o ≠ k → t.dev.flt.pair[o].st = .test ∧ t.dev.flt.pair[o].testing = true) ∧
        t.dev.flt.recovered = satInc s.dev.flt.recovered ∧ t.dev.cmds = s.dev.cmds ∧
        ∀ c', c' ≠ c → t.dev.ctx[c'].cp = s.dev.ctx[c'].cp) ∧
    (∀ (k : Fin 18) (ok : Bool), s.dev.flt.pair[k].st = .test → s.dev.flt.pair[k].testing = true →
      s.dev.flt.pair[k].returning = false → Answers (exec (.pairTestDone ⟨k.val, by omega⟩ ok) s) fun t =>
        t.dev.flt.pair[k].st = (if ok = false ∨
          2 ≤ (s.dev.flt.pair[k].failTimes.filter fun x => decide (s.dev.per.now < x + 86400000000000)).length
          then .retired else .spare) ∧
        t.dev.flt.pair[k].testing = false ∧ t.dev.ctx = s.dev.ctx ∧ t.dev.flt.sup = s.dev.flt.sup) ∧
    (∀ k j : Fin 2, s.dev.activeSup = some k → s.dev.spareSup = some j → Answers (exec .supFailover s) fun t =>
        t.dev.flt.sup[k].st = .test ∧ t.dev.flt.sup[j].st = .active ∧ t.dev.flt.recovered = satInc s.dev.flt.recovered ∧
        t.dev.dump.halted = false ∧ t.dev.ctx = s.dev.ctx ∧ t.dev.cmds = s.dev.cmds)

/-- R409, R412, R418: with no spare Supervisor pair the failure of the active one is fatal. -/
def Claims.SupervisorWithoutSpareHalts : Prop :=
  ∀ (s : State) (k : Fin 2), s.dev.serving = true → s.dev.activeSup = some k → s.dev.spareSup = none →
    Answers (exec .supFailover s) fun t =>
      t.dev.dump.halted = true ∧ t.dev.dump.cause = 2 ∧ t.dev.dump.unit = BitVec.ofNat 32 k.val ∧ t.dev.cmds = []

/-- R172, R408, R409, R412, R418, R446, R456, R457: processor and Supervisor pairs, and the test port. -/
def Obligations.PairsFailOverAndReload : Prop := Claims.PairsFailOver ∧ Claims.SupervisorWithoutSpareHalts ∧ Claims.SpareSupervisorAndTestPort

/-- R405, R406, R414, R415: a slot moves to the array that has its copy; an array that fails its test retires and one that
passes is a spare; a zeroed array's scratchpad holds zeros and no other byte changes; an engine that passes its test is in
service. -/
def Obligations.ArraysAndEnginesAreRepaired : Prop :=
  ∀ s : State, s.dev.serving = true → s.memWf →
    (∀ (x : Fin 192) (a b : ArrId), s.dev.flt.slot[x].arr = some a → s.dev.flt.slot[x].copyTo = some b → a ≠ b →
      (∀ y : ArrId, s.dev.arr[y].slot = some x → y = a) → s.dev.arr[b].st = .inService →
      Answers (exec (.slotCopyDone x false) s) fun t =>
        t.dev.flt.slot[x].arr = some b ∧ t.dev.arr[b].slot = some x ∧ t.dev.arr[a].slot = none ∧ t.dev.ctx = s.dev.ctx) ∧
    (∀ (a : ArrId) (ok : Bool), s.dev.arr[a].st = .test → s.dev.arr[a].testing = true → s.dev.arr[a].returning = true →
      Answers (exec (.arrayTestDone a ok) s) fun t =>
        t.dev.arr[a].st = (if ok then .spare else .retired) ∧ t.dev.arr[a].testing = false ∧ t.dev.flt.slot = s.dev.flt.slot) ∧
    (∀ a : ArrId, s.dev.arr[a].zeroing = true → s.dev.arr[a].st = .spare → Answers (exec (.slotZeroed a) s) fun t =>
        (∀ o, o < padSize → memByte t.dev.mem.cells (padKey a.val o) = 0) ∧
        (∀ k, k < padKey a.val 0 ∨ padKey a.val 0 + padSize ≤ k → memByte t.dev.mem.cells k = memByte s.dev.mem.cells k) ∧
        t.dev.arr = s.dev.arr.set a { s.dev.arr[a] with zeroing := false, zeroed := true }) ∧
    (∀ (e : EngId) (ok : Bool), s.dev.cod.eng[e].testing = true → Answers (exec (.engineTestDone e ok) s) fun t =>
        t.dev.cod.eng = s.dev.cod.eng.set e
          { s.dev.cod.eng[e] with testing := false, st := if ok then .inService else .outOfService } ∧
        t.dev.cod.sess = s.dev.cod.sess ∧ t.dev.ctx = s.dev.ctx)

/-- R267, R268, R410: a channel whose tracking fails, or whose errors reach a threshold, is spared while the reserve allows it, and else asks for replacement; a
channel that stops answering poisons every line it held; the migration's end makes it spared. -/
def Claims.ChannelsAreSpared : Prop :=
  ∀ (ch : Fin 192) (s : State), s.dev.serving = true →
    (s.dev.mem.ch[ch].st = .inService → s.dev.mem.spares.length < s.dev.reserveK →
      Answers (exec (.channelSpared ch .tracking) s) fun t =>
        t.dev.mem.ch[ch].st = .sparing ∧
        t.dev.mem.spares = s.dev.mem.spares ++ [{
          channel := ch, reserve := s.dev.reserveK, copied := 0, since := s.dev.per.now
          lines := (relocOf s.dev.mem.relocs ch.val s.dev.reserveK).lines }] ∧
        t.dev.flt.replace = s.dev.flt.replace ∧ t.dev.ctx = s.dev.ctx) ∧
    (s.dev.mem.ch[ch].st = .inService → s.dev.reserveK ≤ s.dev.mem.spares.length →
      Answers (exec (.channelSpared ch .tracking) s) fun t =>
        t.dev.mem.ch[ch].st = .inService ∧ t.dev.mem.spares = s.dev.mem.spares ∧ t.dev.flt.replace.getLsbD 3 = true) ∧
    exec (.channelSpared ch .thresholds) s = (if s.dev.overThreshold ch then exec (.channelSpared ch .tracking) s
      else .next { s with dev := { s.dev with out := [] } }) ∧
    (∀ line, 64 * line < 2 ^ 51 → s.dev.mem.channel line = ch →
      s.dev.ring.st ≠ .enabled → Answers (exec (.channelSpared ch .silent) s) fun t => t.dev.mem.bad (64 * line) = true) ∧
    (s.dev.mem.ch[ch].st = .sparing → Answers (exec (.migrationDone ch) s) fun t =>
        t.dev.mem.ch[ch].st = .spared ∧ t.dev.mem.cells = s.dev.mem.cells ∧
        t.dev.mem.spares.length = s.dev.mem.spares.length ∧ t.dev.flt.recovered = satInc s.dev.flt.recovered ∧
        ∀ u ∈ t.dev.mem.spares, u.channel = ch → u.progress = 100)

/-- R254, R259, R264, R266: a scrub that finds an uncorrectable error poisons the granule and counts it, one that corrects
counts it and poisons nothing; the age limit evicts the oldest entry of a write-combining buffer that has reached it, a
partial one as a read-modify-write. -/
def Claims.ScrubsAndAgeEviction : Prop :=
  ∀ s : State, s.dev.serving = true →
    (∀ (a : ArrId) (w : Nat), w < 2 ^ 22 →
      (Answers (exec (.scratchpadScrub a w .uncorrectable) s) fun t =>
        t.dev.arr[a].ue = (if s.dev.mem.bad (padKey a.val (8 * w)) then s.dev.arr[a].ue else satInc s.dev.arr[a].ue) ∧ t.dev.arr[a].ce = s.dev.arr[a].ce ∧
        (s.dev.ring.st ≠ .enabled → t.dev.mem.bad (padKey a.val (8 * w)) = true)) ∧
      (Answers (exec (.scratchpadScrub a w .corrected) s) fun t =>
        t.dev.arr[a].ce = satInc s.dev.arr[a].ce ∧ t.dev.arr[a].ue = s.dev.arr[a].ue ∧
        t.dev.mem.poison = s.dev.mem.poison ∧ t.dev.mem.cells = s.dev.mem.cells)) ∧
    (∀ (ch : Fin 192) (line : Nat), s.dev.mem.channel line = ch → 64 * line < 0x16800000000 → s.dev.mem.ch[ch].st ≠ .held →
      (Answers (exec (.lpddrScrub ch line .uncorrectable) s) fun t =>
        t.dev.mem.ch[ch].ue = satInc s.dev.mem.ch[ch].ue ∧
        (s.dev.ring.st ≠ .enabled → t.dev.mem.bad (64 * line) = true)) ∧
      (Answers (exec (.lpddrScrub ch line .corrected) s) fun t =>
        t.dev.mem.ch[ch].ce = satInc s.dev.mem.ch[ch].ce ∧ t.dev.mem.poison = s.dev.mem.poison ∧
        t.dev.mem.cells = s.dev.mem.cells)) ∧
    (∀ (k : Fin 48) (e : WcEntry),
      s.dev.mem.wcb[k].entries.find? (fun e => decide (e.time + s.dev.lexVal 0x2303 1 ≤ s.dev.per.now)) = some e →
      Answers (exec (.wcbAgeEvict k) s) fun t =>
        t.dev.mem.wcb[k].entries = s.dev.mem.wcb[k].entries.filter (· ≠ e) ∧
        t.dev.mem.wcb[k].rmw = (if e.mask = BitVec.allOnes 128 then s.dev.mem.wcb[k].rmw else satInc s.dev.mem.wcb[k].rmw) ∧
        t.dev.mem.cells = s.dev.mem.cells ∧ ∀ j, j ≠ k → t.dev.mem.wcb[j] = s.dev.mem.wcb[j])

/-- R254, R259, R264, R266 to R268, R410: LPDDR channels, scrubs and the write-combining buffers. -/
def Obligations.ChannelsAreSparedAndScrubbed : Prop := Claims.ChannelsAreSpared ∧ Claims.ScrubsAndAgeEviction

/-! ## The companion link (15) -/

/-- R347, R348: a lane that fails halves a full link, and takes down the half in use; a link that goes DOWN drops its S lines
and keeps the others; training brings TRAIN, or DOWN again; the link that returns is full unless it has been halved, and gives
back every modified line. -/
def Obligations.CompanionLinkStates : Prop :=
  ∀ s : State,
    (∀ lane : Fin 16, s.dev.rcl.st = .up16 → Answers (exec (.rclLaneFailed lane) s) fun t =>
      t.dev.rcl.st = .up8 ∧ t.dev.rcl.half = decide (lane.val < 8) ∧ t.dev.rcl.dropped = true ∧
      t.dev.rcl.retrains = satInc s.dev.rcl.retrains ∧ t.dev.cmds = s.dev.cmds) ∧
    (∀ lane : Fin 16, s.dev.rcl.st = .up8 → Answers (exec (.rclLaneFailed lane) s) fun t =>
      t.dev.rcl.st = if decide (8 ≤ lane.val) = s.dev.rcl.half then .down else .up8) ∧
    (Answers (exec .rclDown s) fun t =>
      t.dev.rcl.st = .down ∧ t.dev.rcl.lines = s.dev.rcl.lines.filter (fun l => l.2 ≠ .s) ∧
      t.dev.rcl.asks = s.dev.rcl.asks ∧ t.dev.mem = s.dev.mem ∧ t.dev.ctx = s.dev.ctx ∧ t.dev.cmds = s.dev.cmds) ∧
    (∀ ok : Bool, s.dev.rcl.st = .down → s.dev.powered = true → Answers (exec (.rclTrainAttempt ok) s) fun t =>
      t.dev.rcl.st = (if ok then .train else .down) ∧ t.dev.ctx = s.dev.ctx) ∧
    (s.dev.rcl.st = .train → s.dev.powered = true → Answers (exec .rclUp s) fun t =>
      t.dev.rcl.st = (if s.dev.rcl.dropped then .up8 else .up16) ∧ t.dev.cmds = s.dev.cmds ∧ t.dev.per = s.dev.per ∧
      ∀ l, (l, LineSt.m) ∈ s.dev.rcl.lines → ∃ v b, Output.rcl (.returnLine l v b) ∈ t.dev.out) ∧
    (Answers (exec .rclHalfRetrained s) fun t =>
      t.dev = { s.dev with
        rcl := { s.dev.rcl with retraining := false }
        flt := { s.dev.flt with recovered := if s.dev.rcl.retraining then satInc s.dev.flt.recovered else s.dev.flt.recovered }
        out := [] })

namespace Sys2Proof.Machine

/-- A line of LPDDR without poison that the companion may use: the windows are open, and the directory has room. -/
abbrev Dev.homeLine (d : Dev) (addr line : Nat) : Prop :=
  d.windowsOpen = true ∧ addr < 0x16800000000 ∧ line = addr - addr % 64 ∧ d.mem.bad line = false ∧ d.rcl.dir.length < 262144

/-- The half-bytes of a line of LPDDR that the Kraip has written since it probed for it. -/
def Dev.probeMask (d : Dev) (line : Nat) : BitVec 128 :=
  d.rcl.probes.foldl (fun m (p : Probe) => if p.addr = line then m ||| p.mask else m) 0

/-- Every queue and ring is at rest and no flit is kept, so that the return of a line moves none of them. -/
abbrev Dev.queuesAtRest (d : Dev) : Prop :=
  d.cjn.held = [] ∧
  (∀ (c : CtxId) (q : QId), d.ctx[c].queue[q].st ≠ .enabling ∧ d.ctx[c].queue[q].recs = [] ∧
    d.ctx[c].queue[q].issued = d.ctx[c].queue[q].tail) ∧ (∀ c : CtxId, d.ctx[c].ring.st ≠ .enabling) ∧ d.ring.st ≠ .enabling

end Sys2Proof.Machine

/-- R251, R350, R351: the companion's reads of LPDDR are answered with the line, and GET_CLEAN and GET_SOLE enter it into the
directory as S and O; LET_GO takes it out. A line of the sparing reserve gives zeros and the event of a protected access (that it
does is the model's inference, log entry 100). -/
def Claims.CompanionReadsLines : Prop :=
  ∀ (addr line : Nat) (s : State), s.dev.homeLine addr line →
    let ans := Output.rcl (.ansLine line (Line.ofBytes (s.dev.mem.read line 64)) false)
    let rest := s.dev.rcl.dir.filter fun e => e.1 ≠ line
    (s.dev.region line ≠ .reserve →
      (∀ sole : Bool, Answers (exec (if sole then .getSole addr else .getClean addr) s) fun t =>
        t.dev.out = [ans] ∧ (∀ e, e ∈ t.dev.rcl.dir ↔ e = (line, sole) ∨ e ∈ rest) ∧ t.dev.mem = s.dev.mem ∧ t.dev.ctx = s.dev.ctx) ∧
      (Answers (exec (.getOnce addr) s) fun t =>
        t.dev.out = [ans] ∧ t.dev.rcl.dir = s.dev.rcl.dir ∧ ({ t.dev with rcl := s.dev.rcl, out := s.dev.out } : Dev) = s.dev)) ∧
    (s.dev.region line = .reserve → Answers (exec (.getOnce addr) s) fun t =>
      .rcl (.ansLine line 0 false) ∈ t.dev.out ∧ t.dev.seqs.fault = s.dev.seqs.fault + 1 ∧ t.dev.rcl.dir = s.dev.rcl.dir) ∧
    (Answers (exec (.letGo addr) s) fun t => t.dev = { s.dev with rcl := { s.dev.rcl with dir := rest }, out := [] })

/-- R252, R350, R351: the companion's writes of the software region store their bytes and no others, are answered with
ANS_DONE, and leave the companion no copy where they write or return the line whole; a line that comes back leaves what the Kraip
has written since it probed; a write of a protected region stores nothing. -/
def Claims.CompanionWritesLines : Prop :=
  ∀ (addr line : Nat) (v : Line) (mask : BitVec 64) (s : State), s.dev.homeLine addr line → s.memWf →
    let done := Output.rcl (.ansDone line)
    let gone := fun t : State => ∀ b, (line, b) ∉ t.dev.rcl.dir
    (s.dev.region line = .software →
      (Answers (exec (.putLine addr v false) s) fun t =>
        t.dev.mem.read line 64 = v.bytes ∧ done ∈ t.dev.out ∧ gone t ∧
        ∀ k, k < line ∨ line + 64 ≤ k → memByte t.dev.mem.cells k = memByte s.dev.mem.cells k) ∧
      (Answers (exec (.putBytes addr v mask false) s) fun t =>
        (∀ i, i < 64 → memByte t.dev.mem.cells (line + i) =
          if mask.getLsbD i then v.bytes.getD i 0 else memByte s.dev.mem.cells (line + i)) ∧ done ∈ t.dev.out ∧
        ∀ k, k < line ∨ line + 64 ≤ k → memByte t.dev.mem.cells k = memByte s.dev.mem.cells k) ∧
      ((line, true) ∈ s.dev.rcl.dir →
        Answers (exec (.returnLine addr v false) s) fun t =>
          (∀ i, i < 64 → memByte t.dev.mem.cells (line + i) =
            halfMerge (s.dev.probeMask line) i (memByte s.dev.mem.cells (line + i)) (v.bytes.getD i 0)) ∧ done ∈ t.dev.out ∧ gone t ∧
          ∀ k, k < line ∨ line + 64 ≤ k → memByte t.dev.mem.cells k = memByte s.dev.mem.cells k)) ∧
    (s.dev.region line = .firmware ∨ s.dev.region line = .reserve → s.dev.ring.st ≠ .enabled →
      Answers (exec (.putLine addr v false) s) fun t =>
        t.dev.mem = s.dev.mem ∧ done ∈ t.dev.out ∧ t.dev.seqs.fault = s.dev.seqs.fault + 1)

/-- R252, R350, R351: the companion's accesses of LPDDR. -/
def Obligations.CompanionReadsAndWrites : Prop := Claims.CompanionReadsLines ∧ Claims.CompanionWritesLines

/-- R349, R351 to R353: a probe takes a line of companion memory back, PROBE_DEMOTE leaving a clean copy, and a modified one
goes with its bytes and its poison; an answer ends a probe of the directory or gives the Kraip a line alone; a line that comes is
held, its bytes as the companion's but for those the Kraip has written since. -/
def Obligations.ProbesAndAnswers : Prop :=
  ∀ (addr line : Nat) (s : State), s.dev.rclUp = true → line = addr - addr % 64 → s.memWf →
    (2 ^ 51 ≤ line →
      let ans := if s.dev.lineState line = some .m then
          Output.rcl (.ansLine line (Line.ofBytes (s.dev.mem.read line 64)) (s.dev.mem.bad line))
        else .rcl (.ansDone line)
      (Answers (exec (.probeDrop addr) s) fun t =>
        t.dev.lineState line = none ∧ t.dev.out.head? = some ans ∧ t.dev.mem = s.dev.mem ∧
        (∀ l, l ≠ line → t.dev.lineState l = s.dev.lineState l)) ∧
      (Answers (exec (.probeDemote addr) s) fun t =>
        t.dev.lineState line = (s.dev.lineState line).map (fun _ => .s) ∧ t.dev.out = [ans] ∧ t.dev.mem = s.dev.mem ∧
        (∀ l, l ≠ line → t.dev.lineState l = s.dev.lineState l))) ∧
    (line < 2 ^ 51 → (∃ p ∈ s.dev.rcl.probes, p.addr = line ∧ p.drop = true) → s.dev.cjn.held = [] →
      Answers (exec (.ansDone addr) s) fun t =>
      (∀ b, (line, b) ∉ t.dev.rcl.dir) ∧ (∀ p ∈ t.dev.rcl.probes, p.addr ≠ line) ∧ t.dev.mem = s.dev.mem) ∧
    (2 ^ 51 ≤ line → (∃ a ∈ s.dev.rcl.asks, a.addr = line ∧ a.kind = .sole) → (s.dev.lineState line).isSome = true →
      s.dev.rcl.lines.length < 65536 → Answers (exec (.ansDone addr) s) fun t => t.dev.mem = s.dev.mem ∧
        t.dev.lineState line = some (if s.dev.rcl.asks.any (fun a => a.addr = line && a.kind = .sole && a.mask ≠ 0) then .m else .e)) ∧
    (∀ v : Line, 2 ^ 51 ≤ line → line + 64 ≤ 2 ^ 52 → s.dev.rcl.asks.find? (·.addr = line) = some { addr := line, kind := .clean } →
      s.dev.queuesAtRest → s.dev.rcl.lines.length < 65536 → Answers (exec (.ansLine addr v false) s) fun t =>
        t.dev.lineState line = some .s ∧ t.dev.mem.bad line = false ∧
        (∀ i, i < 64 → memByte t.dev.mem.cells (line + i) = halfMerge ((s.dev.endAsk line .clean).ownMask line) i
          (memByte s.dev.mem.cells (line + i)) (v.bytes.getD i 0)) ∧
        (∀ a ∈ t.dev.rcl.asks, a.addr = line → a.kind ≠ .clean) ∧
        ∀ k, k < line ∨ line + 64 ≤ k → memByte t.dev.mem.cells k = memByte s.dev.mem.cells k)

/-! ## Chip links (12) -/

/-- R274: the 80 bytes of a flit give back its fields, and their CRC holds. -/
def Claims.FlitsOnTheWire : Prop := ∀ f : Flit, flitOfWire (flitWire f) = f ∧ flitOk (flitWire f) = true

/-- R274 to R277: a flit that arrives in order is acknowledged with a NULL flit; one out of order, or a NULL flit, moves no
acknowledgement; one whose CRC fails is counted and answered with NAK; a NAK sends again every flit after the one it names; and
the corrected symbols of a flit are counted. -/
def Claims.FlitsOfAChipLink : Prop :=
  ∀ (p : PortId) (s : State), s.dev.serving = true → s.dev.port[p].up = true →
    (∀ (w : BitVec 640) (lim : Bool), flitOk w = true → (flitOfWire w).type ≠ 0 → (flitOfWire w).seq = s.dev.port[p].ack + 1 →
      Answers (exec (.flitReceived (.chip p) w [] lim) s) fun t =>
        t.dev.port[p].ack = (flitOfWire w).seq ∧ t.dev.port[p].asking = false ∧
        ∃ v l, t.dev.out.getLast? = some (.flit p v l) ∧ (flitOfWire v).type = 0 ∧ (flitOfWire v).ack = (flitOfWire w).seq ∧
          (flitOfWire v).nak = false) ∧
    (∀ (w : BitVec 640) (lim : Bool), flitOk w = true → ((flitOfWire w).seq ≠ s.dev.port[p].ack + 1 ∨ (flitOfWire w).type = 0) →
      Answers (exec (.flitReceived (.chip p) w [] lim) s) fun t =>
        t.dev.port[p].ack = s.dev.port[p].ack ∧ t.dev.port[p].asking = s.dev.port[p].asking ∧ t.dev.cjn = s.dev.cjn ∧
        t.dev.cmds = s.dev.cmds ∧ ((flitOfWire w).nak = false → t.dev.mem = s.dev.mem)) ∧
    (∀ (w : BitVec 640) (lim : Bool), flitOk w = false → Answers (exec (.flitReceived (.chip p) w [] lim) s) fun t =>
      t.dev.port[p].ack = s.dev.port[p].ack ∧ t.dev.port[p].asking = true ∧
      t.dev.port[p].crcFail = satInc s.dev.port[p].crcFail ∧ t.dev.cjn.colls = s.dev.cjn.colls ∧ t.dev.cmds = s.dev.cmds ∧
      ∃ v l, t.dev.out.getLast? = some (.flit p v l) ∧ (flitOfWire v).type = 0 ∧ (flitOfWire v).nak = true ∧
        (flitOfWire v).ack = s.dev.port[p].ack) ∧
    (∀ (w : BitVec 640) (fixed : List (Fin 16)) (lim : Bool), flitOk w = true → (flitOfWire w).type = 0 → (flitOfWire w).nak = false →
      (∀ l ∈ fixed, l.val < 12) → Answers (exec (.flitReceived (.chip p) w fixed lim) s) fun t =>
        t.dev.port[p].corrected = satAdd s.dev.port[p].corrected fixed.length) ∧
    (∀ a : BitVec 12, Answers (exec (.nak (.chip p) a) s) fun t =>
      t.dev.port[p].replays = satInc s.dev.port[p].replays ∧
      t.dev.port[p].replay = s.dev.port[p].replay.filter (fun x => decide (0 < (x.f.seq - a).toNat ∧ (x.f.seq - a).toNat < 2048)) ∧
      ∀ x ∈ t.dev.port[p].replay, ∃ v, Output.flit p v x.limited ∈ t.dev.out ∧ (flitOfWire v).seq = x.f.seq ∧
        (flitOfWire v).type = x.f.type ∧ (flitOfWire v).payload = x.f.payload)

/-- R346 with R277: so it is on RCL: a good flit in order moves the acknowledgement, one whose CRC fails is counted and asked for
again, and a NAK sends again every message after the flit that it names. -/
def Claims.FlitsOfRcl : Prop :=
  ∀ s : State, s.dev.rclUp = true →
    (∀ (w : BitVec 640) (lim : Bool), flitOk w = true → (flitOfWire w).nak = false →
      Answers (exec (.flitReceived .rcl w [] lim) s) fun t =>
        t.dev.rcl.ack = (if (flitOfWire w).type ≠ 0 ∧ (flitOfWire w).seq = s.dev.rcl.ack + 1 then (flitOfWire w).seq else s.dev.rcl.ack) ∧
        t.dev.rcl.asking = false ∧ t.dev.rcl.crcFail = s.dev.rcl.crcFail ∧ t.dev.out = []) ∧
    (∀ (w : BitVec 640) (lim : Bool), flitOk w = false → Answers (exec (.flitReceived .rcl w [] lim) s) fun t =>
        t.dev.rcl.ack = s.dev.rcl.ack ∧ t.dev.rcl.asking = true ∧ t.dev.rcl.crcFail = satInc s.dev.rcl.crcFail ∧
        t.dev.out = [.rclNak s.dev.rcl.ack]) ∧
    (∀ a : BitVec 12, Answers (exec (.nak .rcl a) s) fun t =>
        t.dev.rcl.replays = satInc s.dev.rcl.replays ∧
        t.dev.rcl.replay = s.dev.rcl.replay.filter (fun x => decide (0 < (x.1 - a).toNat ∧ (x.1 - a).toNat < 2048)) ∧
        t.dev.out = t.dev.rcl.replay.map fun x => .rcl x.2)

/-- R274 to R277, R346: the flits of the chip links and of RCL. -/
def Obligations.FlitsAreAcknowledged : Prop := Claims.FlitsOnTheWire ∧ Claims.FlitsOfAChipLink ∧ Claims.FlitsOfRcl

/-- R278 to R280, R299, R304, R305, R467: the states of a port: a lane of a full port drops its group and leaves 8 lanes, one of 8
lanes takes it DOWN; a port that is looking is trained when the far end answers; training ends in IDENT, with all lanes or without
one group, or in DOWN; an agreeing far end makes it UP, on the lanes that trained, another leaves it in IDENT; a port that is lost
leaves no stream on it and is told to the Head; and with no cable it stays DOWN. -/
def Obligations.PortStates : Prop :=
  ∀ (p : PortId) (s : State), s.dev.booted = true →
    (∀ l : Fin 12, s.dev.port[p].lanes[l] = .active → s.dev.port[p].st = .up12 → Answers (exec (.laneFailed p l) s) fun t =>
      t.dev.port[p].st = .up8 ∧ t.dev.port[p].busy = true ∧ t.dev.port[p].dropped.toNat = l.val / 4 + 1 ∧
      t.dev.port[p].lanes[l] = .failed ∧ t.dev.port[p].retrains = satInc s.dev.port[p].retrains ∧ t.dev.cjn = s.dev.cjn ∧
      ∀ j : Fin 12, j ≠ l → t.dev.port[p].lanes[j] = if j.val / 4 = l.val / 4 then .idle else s.dev.port[p].lanes[j]) ∧
    (∀ l : Fin 12, s.dev.port[p].lanes[l] = .active → s.dev.port[p].st = .up8 → Answers (exec (.laneFailed p l) s) fun t =>
      t.dev.port[p].st = .down ∧ t.dev.port[p].replay = [] ∧ t.dev.port[p].txq = []) ∧
    (s.dev.port[p].busy = true → Answers (exec (.laneGroupRetrained p) s) fun t =>
      t.dev.port[p].busy = false ∧ t.dev.port[p].st = s.dev.port[p].st ∧ t.dev.cjn = s.dev.cjn) ∧
    (∀ b, s.dev.lexVal (0x2440 + p.val) 1 ≠ 0 → s.dev.port[p].absent = false → s.dev.port[p].st = .down ∨ s.dev.port[p].st = .detect →
      Answers (exec (.portDetect p b) s) fun t => t.dev.port[p].st = (if b then .train else .detect) ∧ t.dev.cjn = s.dev.cjn) ∧
    (∀ (b : Bool) (idle : Option (Fin 3)), s.dev.port[p].st = .train ∨ s.dev.port[p].st = .retrain →
      Answers (exec (.portTrained p b idle) s) fun t =>
        t.dev.port[p].st = (if b then .ident else .down) ∧
        (b = true → t.dev.port[p].dropped.toNat = (match idle with | some g => g.val + 1 | none => 0) ∧
          ∀ j : Fin 12, t.dev.port[p].lanes[j] = if idle = some ⟨j.val / 4, by omega⟩ then .idle else .active)) ∧
    (∀ far : FarIdent, s.dev.port[p].st = .ident → Answers (exec (.identExchange p far) s) fun t =>
      t.dev.port[p].st = (if far.group.toNat = s.dev.lexVal 0x2400 1 ∧ far.release.toNat = s.dev.revision / 256 then
        (if s.dev.port[p].dropped = 0 then .up12 else .up8) else .ident) ∧
      t.dev.port[p].nbrModule = far.module ∧ t.dev.port[p].nbrPort = some far.port ∧
      t.dev.grp.numberClash = (s.dev.grp.numberClash || (decide (far.group.toNat = s.dev.lexVal 0x2400 1 ∧
        far.module = s.dev.grp.module) && far.admitted && !s.dev.grp.formed))) ∧
    (s.dev.port[p].joined = true → Answers (exec (.portDown p) s) fun t =>
      t.dev.port[p].st = .down ∧ t.dev.port[p].replay = [] ∧ t.dev.port[p].txq = [] ∧ t.dev.port[p].nbrPort = none ∧
      Sent t t.dev.grp.head (.neighbours t.dev.neighbours) ∧
      (∀ k ∈ t.dev.cjn.colls, (t.dev.cmd? k.cmd).isSome = true → ∀ g ∈ k.edges, g.port ≠ p) ∧
      (∀ y ∈ t.dev.cjn.through, y.port ≠ p) ∧ ∀ q, q ≠ p → t.dev.port[q].st = s.dev.port[q].st) ∧
    (s.dev.serving = true →
      (Answers (exec (.prsntNChange p true) s) fun t =>
        t.dev.port[p].absent = true ∧ t.dev.port[p].st = if s.dev.port[p].st = .disabled then .disabled else .down) ∧
      (s.dev.port[p].st = .down → s.dev.lexVal (0x2440 + p.val) 1 = 1 → Answers (exec (.prsntNChange p false) s) fun t =>
        t.dev.port[p].absent = false ∧ t.dev.port[p].st = .detect))

/-! ## The end of a command -/

namespace Sys2Proof.Machine

/-- Commands and tiles carry numbers of their own, below the next ones to be given. -/
abbrev State.numbered (s : State) : Prop :=
  (s.dev.cmds.map (·.id)).Nodup ∧ (∀ x ∈ s.dev.cmds, x.id < s.dev.nextId) ∧
    (s.dev.tiles.map (·.uid)).Nodup ∧ ∀ y ∈ s.dev.tiles, y.uid < s.dev.nextUid

/-- Command `x` has ended with status `st`: it is gone, and where the companion cannot be reached the record of a queue entry
waits with its queue, with `st`, or with OK_LATE for an OK of a Period that is over (R36). -/
def CmdEnds (s t : State) (x : Cmd) (st : BitVec 8) : Prop :=
  t.dev.cmd? x.id = none ∧ (x.launch = none → s.dev.rclUp = false →
    ∃ r : CplRec, QRec.cpl r ∈ t.dev.ctx[x.c].queue[x.q].recs ∧ r.cmd = BitVec.ofNat 8 x.kind ∧
      r.entry = BitVec.ofNat 32 x.entryNo ∧
      r.status = if st = 0 ∧ s.dev.ctx[x.c].g.skip = false ∧ x.period < s.dev.per.number.toNat then 3 else st)

/-- A failed attempt of tile `y` is a retry that starts from nothing and may not run on the arrays `as` again (R402); a first
attempt on an array that did not fail stays to be compared (R112). -/
def RetryOf (t : State) (y : Tile) (as : List ArrId) : Prop :=
  ∃ z, t.dev.tile? y.uid = some z ∧ z.retry = true ∧ z.n = y.n ∧ z.work = y.work ∧ z.step = y.step ∧ z.passes = 0 ∧
    z.released = 0 ∧ z.stagedRows = [] ∧ (z.firstArr = y.firstArr.filter fun f => !as.contains f) ∧
    ∀ a ∈ as, a ∈ z.failedOn ∧ z.arr ≠ some a

end Sys2Proof.Machine

/-! ## Collectives (12, 13) -/

namespace Sys2Proof.Machine

/-- The collective commands: command, kind of the entry, and which entries are its. -/
def collCmds : List ((Nat → Instr) × Nat × (CollE → Bool)) :=
  [(.allReduce, 0x10, fun e => decide (e.kind = .reduce)), (.allGather, 0x10, fun e => decide (e.kind = .gather)),
   (.permute, 0x10, fun e => decide (e.kind = .permute)), (.reshard, 0x11, fun e => e.reshard),
   (.sgather, 0x12, fun e => e.sgather)]

/-- Command `id` is `x`, a collective of kind `kind` whose waits are met, so that it is ready. -/
abbrev Dev.hasDue (d : Dev) (id : Nat) (x : Cmd) (kind : Nat) : Prop :=
  d.serving = true ∧ d.cmd? id = some x ∧ x.kind = kind ∧ (x.phase = .ready ∨ x.phase = .waiting ∧ d.waitsMet x = true)

/-- What a member tells the Head of its collective (R287, R288): it withdraws one whose fields or whose reservation are not as the
tables have them, and one that waited on a poisoned counter. -/
def Dev.announcementOf (d : Dev) (x : Cmd) : Announce :=
  let e := CollE.of x
  { members := e.members, tag := e.tag, dest := e.dest, isPermute := decide (e.kind = .permute), isReshard := e.reshard
    digest := e.digest x.kind (match x.bound with | some t => t.finalTiles.length | none => 0)
    withdrawn := !d.collFieldsOk x e || !d.resvOk x e || (e.overlap && x.launch.isNone) || d.waitPoisoned x
    poisoned := d.waitPoisoned x }

/-- A collective may announce itself (R287, R304, R305, R318): its group has formed, it has not done so, the command whose tiles
it overlaps has met its waits and, for a RESHARD, every earlier collective has its CSN. -/
abbrev Dev.mayAnnounce (d : Dev) (x : Cmd) : Prop :=
  d.grp.role ≠ .misconfigured ∧ d.grp.formed = true ∧ d.coll? x.id = none ∧ d.boundReady x (CollE.of x) = true ∧
    ((CollE.of x).reshard = true → d.earlierAssigned x.id = true)

/-- The oldest collective of a key that has announced itself and has no CSN. -/
abbrev Dev.awaitsCsn (d : Dev) (members : BitVec 64) (tag : Word) (k : Coll) : Prop :=
  d.cjn.colls.find? (fun k => k.phase = .announced && k.ann.members = members && k.ann.tag = tag) = some k ∧
    d.coll? k.cmd = some k

/-- Collective `k`, of command `x`, has phase `ph` and CSN `n`. -/
abbrev Dev.hasColl (d : Dev) (ph : CollPhase) (n : Nat) (k : Coll) (x : Cmd) : Prop :=
  d.cjn.colls.find? (fun k => k.phase = ph && k.csn = n) = some k ∧ d.coll? k.cmd = some k ∧ d.cmd? k.cmd = some x

/-- Collective `k` has ended: it has left the store, its command is gone and the Head is told of its CSN (R289, R297, R318). -/
def CollEnds (t : State) (k : Coll) : Prop :=
  t.dev.coll? k.cmd = none ∧ t.dev.cmd? k.cmd = none ∧
    (k.phase ≠ .announced → Sent t t.dev.grp.head (.complete t.dev.grp.module k.csn))

/-- A DATA flit has left on a port, or waits there. -/
def SentData (t : State) (p : PortId) (f : Flit) : Prop :=
  (∃ w l, Output.flit p w l ∈ t.dev.out ∧ (flitOfWire w).type = 1 ∧ (flitOfWire w).cls = f.cls ∧ (flitOfWire w).dest = f.dest ∧
    (flitOfWire w).stream = f.stream ∧ (flitOfWire w).payload = f.payload) ∨
  ∃ y ∈ t.dev.port[p].txq, y.f = f

/-- The segments but segment `i` are over. -/
def Dev.othersOver (d : Dev) (e : CollE) (k : Coll) (i : Nat) : Bool :=
  k.segs.zipIdx.all fun q => decide (q.2 = i) || q.1.over e d.grp.module q.2

end Sys2Proof.Machine

/-- R285, R287, R304, R305, R318: a collective that is ready and may announce itself does so to the Head, once, with its members,
its tag and what may not differ, and waits; one that may not yet waits and sends nothing; where this member is not of it, it ends
with SHAPE_EXCEEDS_PLAN. -/
def Obligations.CollectivesAnnounce : Prop :=
  ∀ k ∈ collCmds, ∀ (id : Nat) (x : Cmd) (s : State), s.dev.hasDue id x k.2.1 → k.2.2 (CollE.of x) = true →
    let member := (CollE.of x).members.getLsbD s.dev.grp.module.val
    (member = true → s.dev.mayAnnounce x → Answers (exec (k.1 id) s) fun t =>
      t.dev.cjn = { s.dev.cjn with colls := s.dev.cjn.colls ++ [{ cmd := id, ann := s.dev.announcementOf x }] } ∧
      Sent t s.dev.grp.head (.announce s.dev.grp.module (s.dev.announcementOf x)) ∧
      t.dev.cmd? id = some { x with phase := .ready } ∧ t.dev.mem = s.dev.mem ∧ t.dev.ctx = s.dev.ctx ∧ t.dev.grp = s.dev.grp) ∧
    (member = true → x.phase = .ready → ¬s.dev.mayAnnounce x → Answers (exec (k.1 id) s) fun t =>
      t.dev.cjn = s.dev.cjn ∧ t.dev.out = [] ∧ t.dev.cmd? id = some x ∧ t.dev.mem = s.dev.mem ∧ t.dev.ctx = s.dev.ctx) ∧
    (member = false → Answers (exec (k.1 id) s) fun t => CmdEnds s t x 0x10 ∧ t.dev.cjn = s.dev.cjn)

/-- R288, R289, R310, R318: an assignment from this member's Head gives the CSN to the oldest collective of the key that has none,
or ends it where its set fails; while the old Head may still assign, one of the new Head is held. -/
def Claims.CsnsAreAssigned : Prop :=
  ∀ (m : ModId) (ms : BitVec 64) (tag : Word) (csn : Nat) (k : Coll) (s : State), s.dev.serving = true →
    (s.dev.grp.oldHead = some m ∨ s.dev.grp.oldHead = none ∧ s.dev.headFor m = true → s.dev.awaitsCsn ms tag k →
      (Answers (exec (.csnAssignment m ms tag csn none) s) fun t =>
        (∃ k', t.dev.coll? k.cmd = some k' ∧ k'.phase = .assigned ∧ k'.csn = csn ∧ k'.ann = k.ann) ∧
        t.dev.cjn.last = some (max csn (s.dev.cjn.last.getD 0)) ∧ t.dev.cjn.withdrawn = s.dev.cjn.withdrawn) ∧
      (∀ poison : Bool, Answers (exec (.csnAssignment m ms tag csn (some poison)) s) fun t =>
        CollEnds t { k with phase := .assigned, csn := csn } ∧ t.dev.cjn.withdrawn = satInc s.dev.cjn.withdrawn ∧
        t.dev.cjn.last = some (max csn (s.dev.cjn.last.getD 0)))) ∧
    (∀ (h : ModId) (failed : Option Bool), s.dev.grp.oldHead = some h → m ≠ h → s.dev.headFor m = true →
      Answers (exec (.csnAssignment m ms tag csn failed) s) fun t =>
        t.dev = { s.dev with out := [], grp := { s.dev.grp with
          heldAssign := s.dev.grp.heldAssign ++ [{ sender := m, members := ms, tag := tag, csn := csn, failed := failed }] } })

/-- R287 to R289, R309, R318: the Head matches announcements into sets and gives a complete one the next CSN, a RESHARD when every
set before it has completed, and forgets a set when each of its members has reported; a module that is not Head passes on what it
is told. -/
def Claims.HeadMatchesAndForgets : Prop :=
  ∀ s : State, s.dev.serving = true →
    (∀ (m : ModId) (a : Announce), s.dev.isHead = false → Answers (exec (.announcementReceived m a) s) fun t =>
      Sent t s.dev.grp.head (.announce m a) ∧ t.dev.grp = s.dev.grp ∧ t.dev.cjn = s.dev.cjn ∧ t.dev.cmds = s.dev.cmds) ∧
    (∀ (m : ModId) (a : Announce), s.dev.isHead = true → a.members.getLsbD m.val = false →
      Answers (exec (.announcementReceived m a) s) (SameButOut s)) ∧
    (∀ (m : ModId) (a : Announce), s.dev.isHead = true → a.members.getLsbD m.val = true →
      takeSet (membersOf a.members) a (s.dev.grp.anns ++ [{ m := m, ann := a }]) = none →
      s.dev.grp.ready = [] ∨ s.dev.mayAssign = false → Answers (exec (.announcementReceived m a) s) fun t =>
        t.dev = { s.dev with grp := { s.dev.grp with anns := s.dev.grp.anns ++ [{ m := m, ann := a }] }, out := [] }) ∧
    (∀ (m : ModId) (a : Announce) (x : HeadAnn) (l rest : List HeadAnn), s.dev.mayAssign = true → a.members.getLsbD m.val = true →
      takeSet (membersOf a.members) a (s.dev.grp.anns ++ [{ m := m, ann := a }]) = some (x :: l, rest) → s.dev.grp.ready = [] →
      ((x :: l).any (·.ann.isReshard) = true ∧ s.dev.grp.sets ≠ [] → Answers (exec (.announcementReceived m a) s) fun t =>
        t.dev = { s.dev with grp := { s.dev.grp with anns := rest, ready := [x :: l] }, out := [] }) ∧
      (((x :: l).any (·.ann.isReshard) = true → s.dev.grp.sets = []) → Answers (exec (.announcementReceived m a) s) fun t =>
        t.dev.grp.anns = rest ∧ t.dev.grp.ready = [] ∧ t.dev.grp.csnNext = s.dev.grp.csnNext + 1 ∧
        t.dev.grp.sets = s.dev.grp.sets ++ [{ csn := s.dev.grp.csnNext, ann := x.ann, left := a.members }] ∧
        ∀ n ∈ membersOf a.members, Sent t n (.assign a.members a.tag s.dev.grp.csnNext (setFails (x :: l))))) ∧
    (∀ (m : ModId) (csn : Nat), s.dev.isHead = false → Answers (exec (.completionReport m csn) s) fun t =>
      Sent t s.dev.grp.head (.complete m csn) ∧ t.dev.grp = s.dev.grp ∧ t.dev.cjn = s.dev.cjn ∧ t.dev.cmds = s.dev.cmds) ∧
    (∀ (m : ModId) (csn : Nat), s.dev.isHead = true → s.dev.grp.awaitState = true →
      Answers (exec (.completionReport m csn) s) fun t =>
        t.dev = { s.dev with grp := { s.dev.grp with early := s.dev.grp.early ++ [(m, csn)] }, out := [] }) ∧
    (∀ (m : ModId) (csn : Nat), s.dev.isHead = true → s.dev.grp.awaitState = false →
      let left (y : HeadSet) : HeadSet := if y.csn = csn then { y with left := y.left &&& ~~~(modBit m) } else y
      let sets := (s.dev.grp.sets.map left).filter fun y => y.left ≠ 0
      (s.dev.grp.ready = [] → Answers (exec (.completionReport m csn) s) fun t =>
        t.dev = { s.dev with grp := { s.dev.grp with sets := sets }, out := [] }) ∧
      (∀ (x : HeadAnn) (l : List HeadAnn), s.dev.grp.ready = [x :: l] → sets = [] → s.dev.mayAssign = true →
        Answers (exec (.completionReport m csn) s) fun t =>
          t.dev.grp.ready = [] ∧ t.dev.grp.csnNext = s.dev.grp.csnNext + 1 ∧
          ∀ n ∈ membersOf x.ann.members, Sent t n (.assign x.ann.members x.ann.tag s.dev.grp.csnNext (setFails (x :: l)))))

/-- R286, R289, R291, R318, R320, R321: the lowest CSN that waits is granted, when the store and the collectives that run allow it:
its segments are cut and its reservation is taken, and its command runs; one of no elements ends at once, with OVERLAP when its
bound command has ended; a backward SGATHER whose generation has changed ends; a RESHARD raises the generations that it names. -/
def Claims.ReservationsAreGranted : Prop :=
  ∀ s : State, s.dev.serving = true →
    (s.dev.csnWait = none → Answers (exec .reservationGrant s) (SameButOut s)) ∧
    (∀ (n : Nat) (k : Coll) (x : Cmd), s.dev.csnWait = some n → s.dev.hasColl .assigned n k x →
      let e := CollE.of x
      let same := (s.dev.grantShards x e).1
      let boundDone := match e.overlap, x.bound with | true, some t => (s.dev.cmd? t.cmd).isNone | _, _ => true
      let granted := { k with
        phase := .granted, resv := if e.count = 0 then 0 else e.resv, segs := s.dev.segsOf x e
        streams := e.streams s.dev.grp.module (s.dev.segsOf x e).length }
      (s.dev.grantable k x e = false → Answers (exec .reservationGrant s) (SameButOut s)) ∧
      (s.dev.grantable k x e = true → s.dev.cjn.held = [] →
        (same = false → Answers (exec .reservationGrant s) fun t => CollEnds t k) ∧
        (same = true → (if e.count = 0 then boundDone = false else s.dev.segsOf x e ≠ []) →
          Answers (exec .reservationGrant s) fun t =>
            t.dev.coll? k.cmd = some granted ∧ t.dev.cmd? k.cmd = some { x with phase := .running } ∧ t.dev.mem = s.dev.mem) ∧
        (same = true → e.count = 0 → boundDone = true → Answers (exec .reservationGrant s) fun t => CollEnds t { k with phase := .granted }) ∧
        (e.reshard = true → alWf 0 s.dev.grp.shardGen → Answers (exec .reservationGrant s) fun t =>
          ∀ i, t.dev.shardGen i = if i ∈ e.named then (s.dev.shardGen i + 1) % 65536 else s.dev.shardGen i)))

/-- R255, R294, R295, R297, R298, R300, R316: a segment whose children's sums are here goes up as one exact sum, the root holding
it as W; W goes down to each child in turn; a byte segment goes to its destinations; and a SEG_DONE is held with its segment. When
the last segment is over the collective ends. -/
def Claims.SegmentsAreSent : Prop :=
  ∀ (csn i : Nat) (bad : List Nat) (k : Coll) (x : Cmd) (g : Seg) (s : State), s.dev.serving = true →
    s.dev.hasColl .granted csn k x → k.segs[i]? = some g → (CollE.of x).count ≠ 0 →
    let e := CollE.of x
    let own := s.dev.grp.module
    let tree := segTree e i
    let kids := treeChildren e.members tree own
    let hit := bad.eraseDups.filter fun w => decide (8 * w < e.segBytes g)
    let flit := fun (m : ModId) (cls : BitVec 3) (c : List Byte) => flitPlain 1 cls m own (streamOf csn tree) (Line.ofBytes c)
    (e.kind = .reduce → s.dev.runsNow (fun d => d.segmentSend csn i false bad) → g.sentUp = false →
      s.dev.slotFree x e k i = true → (s.dev.contribution x e i).isSome = true →
      (k.segs.zipIdx.all fun q => decide (i ≤ q.2) || segTree e q.2 ≠ tree || q.1.sentUp) = true →
      kids.all (fun m => g.whole m (e.segBytes g)) = true →
      (∀ (m : ModId) (p : PortId), treeParent e.members tree own = some m → s.dev.edgePort k m tree = some p →
        Answers (exec (.segmentSend csn i false bad) s) fun t =>
          ∃ k' g', t.dev.coll? k.cmd = some k' ∧ k'.segs[i]? = some g' ∧ g'.sentUp = true ∧ g'.own.isSome = true ∧
            let sum := e.spoil hit (e.partialSum g' (g'.own.getD []))
            ∀ c ∈ chunksOf 64 (cdiv sum.length 64) sum, SentData t p (flit m 1 c)) ∧
      (treeParent e.members tree own = none →
        let last := s.dev.othersOver e k i && kids.all fun m => g.doneFrom.contains m
        Answers (exec (.segmentSend csn i false bad) s) fun t =>
          (last = true → CollEnds t k) ∧
          (last = false → ∃ k' g', t.dev.coll? k.cmd = some k' ∧ k'.segs[i]? = some g' ∧ g'.sentUp = true ∧
            g'.w = some (e.spoil hit (e.partialSum g' (g'.own.getD [])))))) ∧
    (∀ w : List Byte, e.kind = .reduce → g.w = some w → Answers (exec (.segmentSend csn i true bad) s) fun t =>
      ∃ k' g', t.dev.coll? k.cmd = some k' ∧ k'.segs[i]? = some g' ∧
        g'.w = some (if hit = [] then w else e.spoil hit w) ∧
        (∀ m ∈ kids, (s.dev.edgePort k m tree).isSome = true →
          (k.segs.zipIdx.all fun q => decide (i ≤ q.2) || segTree e q.2 ≠ tree || q.1.sentTo.contains m || q.1.doneFrom.contains m) = true →
          m ∈ g'.sentTo) ∧
        (∀ m, m ∈ g'.sentTo → m ∈ g.sentTo ∨ m ∈ kids)) ∧
    (e.kind ≠ .reduce → s.dev.runsNow (fun d => d.segmentSend csn i false bad) → s.dev.slotFree x e k i = true →
      (k.segs.zipIdx.all fun q => decide (i ≤ q.2) || q.1.sentUp) = true →
      let last := s.dev.othersOver e k i && (e.dests own).all (fun m => g.doneFrom.contains m) && e.sourcesDone own g
      Answers (exec (.segmentSend csn i false bad) s) fun t =>
        (last = true → CollEnds t k) ∧
        (last = false → ∃ k' g', t.dev.coll? k.cmd = some k' ∧ k'.segs[i]? = some g' ∧ g'.sentUp = true ∧ g'.own.isSome = true ∧
          ∀ m ∈ e.dests own, (k.edges.any fun y => y.peer = m && !y.tree) = true → m ∈ g'.sentTo)) ∧
    (∀ m : ModId, s.dev.cjn.held = [] →
      let g' : Seg := if g.doneFrom.contains m then g else { g with doneFrom := g.doneFrom ++ [m] }
      let last := s.dev.othersOver e k i && g'.over e own i
      Answers (exec (.segDone csn i m) s) fun t =>
        (last = true → CollEnds t k) ∧ (last = false → t.dev.coll? k.cmd = some { k with segs := k.segs.set i g' } ∧ t.dev.mem = s.dev.mem))

/-- R255, R286 to R289, R291, R294, R295, R297, R298, R300, R309, R310, R316, R318, R320, R321: a collective from its CSN to its
end. -/
def Obligations.CollectivesGetNumbersAndRun : Prop :=
  Claims.CsnsAreAssigned ∧ Claims.HeadMatchesAndForgets ∧ Claims.ReservationsAreGranted ∧ Claims.SegmentsAreSent

/-! ## Groups (13) -/

/-- R282, R299, R304, R305, R307, R320: a member takes the routes, the shard generations and the delay it is told; the Head takes a
neighbour table and, once every member has reported, routes by it and sends each member the table that changes for it; half of the
shortest of 16 round trips is a member's delay. That a member joins its group by the shard generations, at its next tick, is the
model's choice (log entry 105). -/
def Claims.GroupTables : Prop :=
  ∀ s : State, s.dev.booted = true →
    (∀ (l : List RouteEntry) (lost : BitVec 64), Answers (exec (.routeUpdate l lost) s) fun t =>
      (∀ m : ModId, t.dev.grp.routes[m] = l.getD m.val {}) ∧
      (∀ m : ModId, t.dev.grp.reachable.getLsbD m.val = ((l.getD m.val {}).valid || decide (m = s.dev.grp.module))) ∧
      (lost = 0 → t.dev.cjn = s.dev.cjn) ∧ t.dev.per = s.dev.per ∧
      (∀ y ∈ t.dev.cjn.through, lost.getLsbD y.dest.toNat = false) ∧
      ∀ k ∈ t.dev.cjn.colls, (t.dev.cmd? k.cmd).isSome = true → ∀ g ∈ k.edges, lost.getLsbD g.peer.val = true →
        t.dev.port[g.port].joined = true ∧ t.dev.port[g.port].nbrModule = g.peer) ∧
    (∀ (m : ModId) (far : List (Option ModId)), s.dev.isHead = true → m ≠ s.dev.grp.module → far ≠ [] →
      (∀ n ∈ s.dev.others, n ≠ m → s.dev.grp.nbr[n] ≠ []) → Answers (exec (.neighbourTable m far) s) fun t =>
        t.dev.grp.nbr = (s.dev.grp.nbr.set s.dev.grp.module s.dev.neighbours).set m far ∧
        t.dev.grp.routes = routeTable t.dev.grp.nbr s.dev.grp.module ∧ t.dev.grp.reachable = reachedBy t.dev.grp.routes ∧
        ∀ n ∈ t.dev.others, routeTable s.dev.grp.nbr n ≠ routeTable t.dev.grp.nbr n →
          Sent t n (.routes (routeTable t.dev.grp.nbr n).toList (routesBroken s.dev.grp.nbr t.dev.grp.nbr n))) ∧
    (∀ (m : ModId) (r : Nat) (rs : List Nat), 15 ≤ rs.length → s.dev.isHead = true → m ≠ s.dev.grp.module →
      Answers (exec (.delayEcho m (r :: rs)) s) fun t =>
        t.dev.grp.delays[m] = some (((rs.take 15).foldl min r) / 2) ∧ (∀ n, n ≠ m → t.dev.grp.delays[n] = s.dev.grp.delays[n]) ∧
        t.dev.grp.lead = BitVec.ofNat 16 t.dev.leadInForce) ∧
    (∀ (r : Nat) (rs : List Nat), 15 ≤ rs.length → s.dev.isHead = false →
      Answers (exec (.delayEcho s.dev.grp.module (r :: rs)) s) fun t =>
        t.dev.grp.myDelay.toNat = min (((rs.take 15).foldl min r) / 2) 65535) ∧
    (∀ l : List (BitVec 16),
      (s.dev.isHead = true → Answers (exec (.shardGenerationsReceived l) s) (SameButOut s)) ∧
      (s.dev.isHead = false → s.dev.grp.formed = true → Answers (exec (.shardGenerationsReceived l) s) fun t =>
        t.dev.grp.joining = s.dev.grp.joining ∧ ∀ i, i < 4096 → t.dev.shardGen i = (l.getD i 0).toNat) ∧
      (s.dev.isHead = false → s.dev.grp.formed = false → Answers (exec (.shardGenerationsReceived l) s) fun t =>
        t.dev.grp.formed = false ∧ t.dev.grp.shardGen = s.dev.grp.shardGen ∧
        ∃ tbl, t.dev.grp.joining = some tbl ∧ ∀ i, i < 4096 → alGet 0 tbl i = (l.getD i 0).toNat))

/-- R309 to R312, R314, R318: how the Head role and a member are lost and taken: HEAD_END ends the wait for the old Head, and what
was held of the new one counts; the old Head's state lets the new one assign, never below its own CSN, with the sets that run and
the placements; a member reports to the standby that asks what it has announced and carries, and the standby ticks it off, and goes
on above every CSN reported once it has every report; a lost member is no longer reachable, and its collectives end; a placed
stream takes its units, and a removed one gives them back. -/
def Claims.HeadChangesAndLoss : Prop :=
  ∀ s : State, s.dev.serving = true →
    (s.dev.grp.oldHead.isSome = true → Answers (exec .headEnd s) fun t =>
      t.dev.grp.oldHead = none ∧ t.dev.grp.heldAssign = [] ∧
      (s.dev.grp.heldAssign = [] → t.dev.cjn = s.dev.cjn) ∧
      (∀ (a : Assign) (k : Coll), s.dev.grp.heldAssign = [a] → s.dev.headFor a.sender = true → a.failed = none →
        s.dev.awaitsCsn a.members a.tag k → ∃ k', t.dev.coll? k.cmd = some k' ∧ k'.phase = .assigned ∧ k'.csn = a.csn)) ∧
    (∀ (n g : Nat) (l : List (ModId × Announce)) (fly : List HeadSet) (placed : List Placement), s.dev.isHead = true →
      s.dev.grp.awaitState = true → Answers (exec (.headStateReceived n l g fly placed) s) fun t =>
        t.dev.grp.awaitState = false ∧ max s.dev.grp.csnNext n ≤ t.dev.grp.csnNext ∧ t.dev.grp.placements = placed ∧
        t.dev.grp.gperiod = BitVec.ofNat 64 (max s.dev.grp.gperiod.toNat g) ∧
        (s.dev.grp.early = [] → ∀ y ∈ fly, y ∈ t.dev.grp.sets)) ∧
    (∀ m : ModId, s.dev.headFor m = true → Answers (exec (.takeoverReportRequest m) s) fun t =>
      t.dev.grp.head = m ∧ t.dev.grp.oldHead = none ∧ t.dev.grp.heldAssign = [] ∧
      Sent t m (.report (s.dev.cjn.colls.map fun k =>
        { ann := k.ann, csn := if k.phase = .announced then none else some k.csn }) s.dev.grp.carried) ∧ t.dev.cjn = s.dev.cjn) ∧
    (∀ (m : ModId) (l : List TakeoverItem) (carried : List Placement), s.dev.isHead = true → s.dev.grp.awaitReports.getLsbD m.val = true →
      let left := s.dev.grp.awaitReports &&& ~~~(modBit m)
      let reports := s.dev.grp.reports ++ l.map fun i => (m, i)
      let placements := s.dev.grp.placements ++ carried.map fun p => { p with module := m }
      (left ≠ 0 → Answers (exec (.takeoverReport m l carried) s) fun t =>
        t.dev = { s.dev with out := [], grp := { s.dev.grp with awaitReports := left, reports := reports, placements := placements } }) ∧
      (left = 0 → Answers (exec (.takeoverReport m l carried) s) fun t =>
        t.dev.grp.awaitReports = 0 ∧ t.dev.grp.reports = [] ∧ t.dev.grp.placements = placements ∧ t.dev.grp.awaitState = false ∧
        ∀ y ∈ reports, ∀ c, y.2.csn = some c → c < t.dev.grp.csnNext ∧ ∃ z ∈ t.dev.grp.sets, z.csn = c)) ∧
    (∀ m : ModId, m ≠ s.dev.grp.module → Answers (exec (.memberLost m) s) fun t =>
      t.dev.grp.reachable.getLsbD m.val = false ∧ t.dev.grp.routes[m].valid = false ∧
      (∀ k ∈ t.dev.cjn.colls, k.ann.members.getLsbD m.val = false) ∧
      (∀ k ∈ s.dev.cjn.colls, k.ann.members.getLsbD m.val = true → t.dev.cmd? k.cmd = none) ∧
      (∀ x ∈ t.dev.cmds, isCollKind x.kind = true → x.phase = .ready → (CollE.of x).members.getLsbD m.val = false) ∧
      (s.dev.isHead = true → ∀ p ∈ t.dev.grp.placements, p.module ≠ m)) ∧
    (∀ (x : Word) (c : CtxId) (n : Nat), s.dev.grp.role ≠ .misconfigured →
      Answers (exec (.streamPlacement x (BitVec.ofNat 8 c.val) n false) s) fun t =>
        t.dev.ctx[c].streamNext = s.dev.ctx[c].streamNext + n ∧ t.dev.ctx[c].streamUnits = s.dev.ctx[c].streamUnits ∧
        t.dev.grp.carried = s.dev.grp.carried ++
          [{ stream := x, module := s.dev.grp.module, ctx := BitVec.ofNat 8 c.val, cost := n }] ∧
        t.dev.seqs.lex = s.dev.seqs.lex + 1) ∧
    (∀ (x : Word) (b : BitVec 8) (n : Nat) (c : CtxId) (p : Placement), s.dev.grp.carried.find? (·.stream = x) = some p →
      p.ctx.toNat = c.val → Answers (exec (.streamPlacement x b n true) s) fun t =>
        t.dev.ctx[c].streamNext = s.dev.ctx[c].streamNext - p.cost ∧
        t.dev.grp.carried = s.dev.grp.carried.filter fun y => y.stream ≠ x)

/-- R282, R299, R304, R305, R307, R309 to R312, R314, R318, R320: what a group tells its members, and its Head's changes. -/
def Obligations.GroupTablesAndHeads : Prop := Claims.GroupTables ∧ Claims.HeadChangesAndLoss

/-- R313, R314: a PLACE on a module that is not Head, or of no entries or too many, ends and places nothing; on the Head, a stream
to be placed goes to the lowest reachable member that has room, which is told, or takes its units here; with no room its entry
tells so; and one to be removed goes from its member. -/
def Obligations.PlaceCommand : Prop :=
  ∀ (id : Nat) (x : Cmd) (rooms : List Published) (s : State), s.dev.hasReady id x [0x13] →
    (s.dev.isHead = false → Answers (exec (.place id rooms) s) fun t => CmdEnds s t x 0x11 ∧ t.dev.grp = s.dev.grp) ∧
    (s.dev.isHead = true → ent x.entry 24 4 = 0 ∨ 65536 < ent x.entry 24 4 →
      Answers (exec (.place id rooms) s) fun t => CmdEnds s t x 0x10 ∧ t.dev.grp = s.dev.grp) ∧
    (let at_ := ent x.entry 16 8 % 2 ^ 52
     let b := (Dev.readOpen s.dev.seen (.cmd id) at_ 16).1
     let stream : Word := BitVec.ofNat 32 (natAt b 0 4)
     let cost := natAt b 4 2
     let own := s.dev.grp.module
     let room := fun m : ModId =>
       if natAt b 7 1 = 0xFF then s.dev.memberRoom rooms m (natAt b 6 1) cost else decide (m.val = natAt b 7 1)
     let goal := (membersOf (s.dev.grp.reachable ||| modBit own)).find? room
     ∀ c : CtxId, s.dev.isHead = true → ent x.entry 24 4 = 1 → s.dev.runsNow (fun d => d.runPlace rooms x) → natAt b 6 1 = c.val →
      (natAt b 8 1 = 0 → (∀ p ∈ s.dev.grp.placements, p.stream ≠ stream) →
        (∀ m, goal = some m → Answers (exec (.place id rooms) s) fun t =>
          CmdEnds s t x 0 ∧ t.dev.grp.placements = s.dev.grp.placements ++
            [{ stream := stream, module := m, ctx := BitVec.ofNat 8 c.val, cost := cost }] ∧
          (m ≠ own → Sent t m (.place stream (BitVec.ofNat 8 c.val) cost)) ∧
          (m = own → s.dev.grp.role ≠ .misconfigured → t.dev.ctx[c].streamNext = s.dev.ctx[c].streamNext + cost) ∧
          (s.dev.rclUp = false → x.launch = none → s.memWf → at_ % 16 = 0 → s.dev.region at_ = .software →
            t.dev.mem.read (at_ + 9) 2 = [BitVec.ofNat 8 m.val, 0])) ∧
        (goal = none → Answers (exec (.place id rooms) s) fun t =>
          CmdEnds s t x 0x11 ∧ t.dev.grp.placements = s.dev.grp.placements ∧
          (s.dev.rclUp = false → x.launch = none → s.memWf → at_ % 16 = 0 → s.dev.region at_ = .software →
            t.dev.mem.read (at_ + 9) 2 = [0xFF, 0x11]))) ∧
      (∀ p, natAt b 8 1 = 1 → s.dev.grp.placements.find? (·.stream = stream) = some p → Answers (exec (.place id rooms) s) fun t =>
        CmdEnds s t x 0 ∧ (t.dev.grp.placements = s.dev.grp.placements.filter fun y => y.stream ≠ stream) ∧
        (p.module ≠ own → Sent t p.module (.remove stream p.ctx p.cost))))

/-! ## Commands and tiles (04, 05, 06, 10) -/

/-- R163, R164: a command whose waits have all reached their targets may run; on a poisoned counter it is not run and ends
with DEPENDENCY_FAILED; one that ended at issue ends with its status; before that nothing happens. -/
def Obligations.CommandsRunWhenTheirWaitsAreMet : Prop :=
  ∀ (id : Nat) (x : Cmd) (s : State), s.dev.serving = true → s.numbered → s.dev.cmd? id = some x → x.phase = .waiting →
    (s.dev.waitsMet x = false → Answers (exec (.commandReady id) s) (SameButOut s)) ∧
    (s.dev.waitsMet x = true → isCollKind x.kind = false →
      (x.kind = 0x40 ∨ x.kind = 0x41 → s.dev.runsNow fun d => d.ready id) →
      (s.dev.waitPoisoned x = true → Answers (exec (.commandReady id) s) fun t => CmdEnds s t x 0x15) ∧
      (s.dev.waitPoisoned x = false → ∀ st, x.status = some st →
        Answers (exec (.commandReady id) s) fun t => CmdEnds s t x st) ∧
      (s.dev.waitPoisoned x = false → x.status = none → x.kind ≠ 0x40 → x.kind ≠ 0x41 →
        Answers (exec (.commandReady id) s) fun t =>
          t.dev = { s.dev with cmds := s.dev.cmds.map fun y => if y.id = id then { y with phase := .ready } else y, out := [] }) ∧
      (s.dev.waitPoisoned x = false → x.status = none → x.kind = 0x40 → s.dev.ctx[x.c].g.quota ≠ 0 →
        (∀ tn, s.dev.tensor? id = some tn → tn.fin.length < tn.total ∧ tn.cut = false) → s.dev.attn? id = none →
        s.dev.coll? id = none → (∀ c : CtxId, ∀ g ∈ s.dev.ctx[c].cp.programs, g.launch ≠ id) →
        Answers (exec (.commandReady id) s) fun t => t.dev.cmd? id = some { x with phase := .running }))

/-- R92, R141, R147: the context whose turn it is expands one tile, which takes the next number of its Period's work; with the
first tile of a command it is settled which entry the command uses. Tiles that a failed processor had expanded and not
committed come again first, with their own numbers. -/
def Claims.TilesAreExpanded : Prop :=
  ∀ (c : CtxId) (s : State), s.dev.serving = true → s.numbered → s.dev.ctx[c].g.quota ≠ 0 → s.dev.ctx[c].cp.failed = false →
    s.dev.ctx[c].noPair = false → s.dev.heldTiles c < 64 →
    let lost := s.dev.tiles.filter fun t => t.c = c && t.phase = .lost
    (∀ y, lowestTile lost = some y → Answers (exec (.tileExpand c) s) fun t =>
      (∃ z, t.dev.tile? y.uid = some z ∧ z.n = y.n ∧ z.period = y.period ∧ z.work = y.work ∧ z.phase ≠ .lost ∧ z.cpFailed = false) ∧
      t.dev.nextUid = s.dev.nextUid ∧ t.dev.ctx[c].nextTile = s.dev.ctx[c].nextTile ∧ t.dev.ctx[c].ldt.tiles = s.dev.ctx[c].ldt.tiles) ∧
    ∀ x : Cmd, lost = [] → s.dev.expanding c = some x →
      let n := if s.dev.ctx[c].tilePeriod = x.period then s.dev.ctx[c].nextTile else 0
      let counted := fun t : State =>
        t.dev.nextUid = s.dev.nextUid + 1 ∧ t.dev.ctx[c].nextTile = n + 1 ∧ t.dev.ctx[c].tilePeriod = x.period ∧
        t.dev.ctx[c].ldt.tiles = satInc s.dev.ctx[c].ldt.tiles ∧ t.dev.mem = s.dev.mem ∧
        t.dev.cmds.map (·.id) = s.dev.cmds.map (·.id)
      (∀ tn : Tensor, s.dev.tensor? x.id = some tn →
        let v := s.dev.variantOf c tn
        let e := if tn.next = 0 then v.2 else tn.e
        let tm : Tensor := { tn with e := e }
        (∀ (p : TilePos) (i : Nat), e = tn.e ∨ s.dev.entryStatus c (LdtE.of e) tn.shape = none →
          tm.nextTile tm.candidates tm.next = some (p, i) → Answers (exec (.tileExpand c) s) fun t =>
            (∃ y, t.dev.tile? s.dev.nextUid = some y ∧ y.cmd = x.id ∧ y.c = c ∧ y.n = n ∧ y.period = x.period ∧
              y.work = .matrix p ∧ y.rows = tm.rows p ∧ y.cols = tm.cols p ∧ y.kLen = tm.kLen p ∧ y.step = 0 ∧ y.passes = 0) ∧
            (∃ tn', t.dev.tensor? x.id = some tn' ∧ tn'.next = i ∧ tn'.e = e ∧ tn'.fin = tn.fin) ∧ counted t) ∧
        (∀ st, e ≠ tn.e → s.dev.entryStatus c (LdtE.of e) tn.shape = some st → x.phase ≠ .running →
          Answers (exec (.tileExpand c) s) fun t => t.dev.tensor? x.id = none ∧ t.dev.tiles = s.dev.tiles ∧
            ∃ x', t.dev.cmd? x.id = some x' ∧ x'.status = some st)) ∧
      (∀ (a : Attn) (p : SpanPos), s.dev.tensor? x.id = none → s.dev.attn? x.id = some a → a.spanTiles[a.next]? = some p →
        Answers (exec (.tileExpand c) s) fun t =>
          (∃ y, t.dev.tile? s.dev.nextUid = some y ∧ y.cmd = x.id ∧ y.c = c ∧ y.n = n ∧ y.period = x.period ∧ y.work = .span p ∧
            y.passes = 0) ∧
          (∃ a', t.dev.attn? x.id = some a' ∧ a'.next = a.next + 1) ∧ counted t)

/-- R104: an array whose tile has run every pass is free of it. -/
def Claims.ArraysAreFreed : Prop :=
  ∀ (a : ArrId) (y : Tile) (s : State), s.dev.serving = true → s.numbered → s.dev.arr[a].tile = some y.uid →
    s.dev.tile? y.uid = some y → y.phase = .placed → y.arr = some a → s.dev.passCount y ≤ y.passes →
    Answers (exec (.arrayFree a) s) fun t =>
      (∃ z, t.dev.tile? y.uid = some z ∧ z = { y with freed := true, injectAt := z.injectAt }) ∧ t.dev.arr[a].tile ≠ some y.uid ∧
      t.dev.cmds = s.dev.cmds

/-- R118, R119, R120, R143: a multicast channel goes on when no member needs its pass any longer, those that have joined first,
or all of them where none has: to the next pass of its group, or, after the last or where none has joined, to the next group
that waits, as an idle channel does. -/
def Claims.MulticastAdvances : Prop :=
  ∀ (ch : Fin 8) (s : State), s.dev.serving = true →
    let turn := fun t : State =>
      t.dev.mc[ch].group = s.dev.mc[ch].waiting.head? ∧ t.dev.mc[ch].waiting = s.dev.mc[ch].waiting.tail ∧
      t.dev.mc[ch].holder = s.dev.mc[ch].holder ∧ t.dev.tiles = s.dev.tiles
    (s.dev.mc[ch].group = none → Answers (exec (.multicastAdvance ch) s) turn) ∧
    ∀ g : McGroup, s.dev.mc[ch].group = some g →
      let past := fun u : Nat => ∀ y, s.dev.tile? u = some y → g.pass < s.dev.mcNeed g y ∨ y.retry = true ∨ y.step ≠ 0
      let n := match g.members.findSome? s.dev.tile? with | some y => passesOf y.kLen | none => 0
      ((∃ u ∈ (if g.joined = [] then g.members else g.joined), ¬past u) →
        Answers (exec (.multicastAdvance ch) s) (SameButOut s)) ∧
      (g.joined ≠ [] → (∀ u ∈ g.joined, past u) →
        (g.pass + 1 < n → Answers (exec (.multicastAdvance ch) s) fun t =>
          t.dev = { s.dev with
            mc := s.dev.mc.set ch { s.dev.mc[ch] with
              group := some { g with pass := g.pass + 1 }
              buf := s.dev.mc[ch].buf.filter fun b => decide (g.pass < b.pass) }
            out := [] }) ∧
        (n ≤ g.pass + 1 → Answers (exec (.multicastAdvance ch) s) fun t =>
          turn t ∧ t.dev.mc[ch].buf = [] ∧
          (∀ (a : ArrId) (u : Nat), s.dev.arr[a].tile = some u →
            t.dev.arr[a].mcast = (s.dev.arr[a].mcast && !g.joined.contains u)))) ∧
      (g.joined = [] → (∀ u ∈ g.members, past u) → Answers (exec (.multicastAdvance ch) s) turn)

/-- R92, R104, R118 to R120, R141, R143, R147: tiles are expanded, arrays freed, and multicast channels go on. -/
def Obligations.TilesAreExpandedAndFreed : Prop := Claims.TilesAreExpanded ∧ Claims.ArraysAreFreed ∧ Claims.MulticastAdvances

namespace Sys2Proof.Machine

/-- The device once the row-unit entry of tile `y` has been read with its first pass (R200) and the next B pass stands in the
second buffer of array `a` (R101). -/
def Dev.nextPass (d : Dev) (a : ArrId) (y : Tile) : Dev :=
  let d := match y.work, d.tensor? y.cmd with
    | .matrix p, some tn => if y.epiRead then d else d.readEpi y tn p
    | _, _ => d
  if d.secondHolds y then d else d.loadSecond a y y.passes

/-- The accumulators and check accumulators that a pass starts from: those of the tile, and zeros for each product of a span
tile (R232). -/
def Tile.startAcc (y : Tile) (cols : Nat) : Tile :=
  match y.work with
  | .matrix _ => y
  | .span _ => { y with acc := List.replicate y.rows (List.replicate cols {}), chk := List.replicate y.rows 0 }

end Sys2Proof.Machine

/-- R59, R98, R99, R101, R106, R110, R111, R119, R124, R232: the buffers of the array's cells swap and the rows of the tile's next
pass enter: their products with the cells are added to the accumulators, those with the check cells to the check
accumulators, and an injected fault to one accumulator. A parity error of the load path stays with the tile. A pass that its
multicast channel has not come to does not enter. -/
def Obligations.PassesEnterTheCells : Prop :=
  ∀ (a : ArrId) (y : Tile) (s : State), s.dev.serving = true → s.numbered →
    s.dev.arr[a].tile = some y.uid → s.dev.tile? y.uid = some y → y.passes < s.dev.passCount y → s.dev.collectorBusy y = false →
    (y.isSpan = true → 0 < y.passes → y.rows ≤ y.released) →
    let d := s.dev.seen.joinGroup y.uid
    (d.passReady y = false → ∀ parity, Answers (exec (.bPassLoaded a parity) s) fun t =>
      t.dev.tiles = s.dev.tiles ∧ t.dev.mem = s.dev.mem) ∧
    (d.passReady y = true →
      (s.dev.runsNow (fun d => d.loadPass a false) →
        let d := d.nextPass a y
        let cells := d.arr[a].second
        let d := d.modArr a Arr.swap
        let y0 := y.startAcc cells.cols.length
        let r := runPass cells (d.passRows ((d.tile? y.uid).getD y)).1 y0.acc y0.chk
        let u := Tile.inject { y with acc := r.1, chk := r.2 }
        Answers (exec (.bPassLoaded a false) s) fun t =>
          t.dev.arr[a].cells = cells ∧
          ∃ z, t.dev.tile? y.uid = some z ∧ z.passes = y.passes + 1 ∧ z.parity = y.parity ∧ z.phase = y.phase ∧ z.arr = y.arr ∧
            z.acc = u.acc ∧ z.chk = u.chk ∧ z.injected = u.injected ∧
            z.clamped = (y.clamped || r.1.any fun row => row.any (·.clamped))) ∧
      (s.dev.runsNow (fun d => d.loadPass a true) → Answers (exec (.bPassLoaded a true) s) fun t =>
        ∃ z, t.dev.tile? y.uid = some z ∧ z.passes = y.passes + 1 ∧ z.parity = true ∧ z.phase = y.phase))

/-- R105, R107, R111 to R113, R402, R403: a row that passes its check goes to the row unit and its accumulators are zero
again; one that fails makes the tile a retry and counts a mismatch of the array. A row that the row unit has finished is
staged; copies of it that differ make the tile a retry. A tile with a clamped product whose first attempt is wholly staged runs
a second time on another array; of two attempts that agree the tile is agreed; where they differ neither array runs it again. -/
def Obligations.RowsAreCheckedAndStaged : Prop :=
  ∀ (y : Tile) (a : ArrId) (s : State), s.dev.serving = true → s.numbered → s.dev.tile? y.uid = some y → y.phase = .placed →
    y.arr = some a →
    (∀ flaw : RowFlaw, y.released < y.rows → s.dev.stagingRoom y = true →
      (match y.work with | .matrix _ => passesOf y.kLen ≤ y.passes | .span _ => 0 < y.passes) →
      let row := flawed flaw (y.acc.getD y.released []) (y.chk.getD y.released 0)
      let good := y.parity = false ∧ flaw ≠ .specialState ∧
        (y.clamped = true ∨ rowPasses (s.dev.bf16Pair y) (s.dev.checkLen y) row.1 row.2 = true)
      (good → s.dev.runsNow (fun d => d.releaseRow y.uid y.released flaw) →
        (∀ (p : TilePos) (tn : Tensor), y.work = .matrix p → s.dev.tensor? y.cmd = some tn →
          Answers (exec (.rowRelease y.uid y.released flaw) s) fun t =>
            (∃ z, t.dev.tile? y.uid = some z ∧ z.released = y.released + 1 ∧ z.acc = y.acc.set y.released (row.1.map fun _ => {}) ∧
              z.chk = y.chk.set y.released 0 ∧
              z.stagedRows = y.stagedRows ++ [{ row := y.released, accs := row.1, staged := false }] ∧ z.passes = y.passes ∧
              z.phase = .placed ∧ z.arr = some a) ∧
            (0 < y.released → t.dev.mem = s.dev.mem) ∧ t.dev.dump.halted = false) ∧
        (∀ p : SpanPos, y.work = .span p → Answers (exec (.rowRelease y.uid y.released flaw) s) fun t =>
          ∃ z, t.dev.tile? y.uid = some z ∧
            (z.released = y.released + 1 ∧ z.passes = y.passes ∧ z.phase = .placed ∧ z.chk = y.chk.set y.released 0 ∨
              y.clamped = true ∧ y.firstArr = none ∧ z.firstArr = some a ∧ z.released = 0 ∧ z.retry = true ∧ z.arr ≠ some a))) ∧
      (¬good → y.injected = false → (y.failedOn ++ [a]).eraseDups.length < 4 →
        Answers (exec (.rowRelease y.uid y.released flaw) s) fun t =>
          RetryOf t y [a] ∧ t.dev.arr[a].mismatch = satInc s.dev.arr[a].mismatch ∧ t.dev.dump.halted = false)) ∧
    (∀ (p : TilePos) (tn : Tensor) (r : StagedRow), y.work = .matrix p → s.dev.tensor? y.cmd = some tn →
      (Fmt.ofCode (stepFmt tn.x.fc y.step)).isSome = true → y.stagedRows.find? (fun r => !r.staged) = some r →
      s.dev.runsNow (fun d => d.stageRow y.uid r.row false) →
      let last := y.clamped = true ∧ y.firstArr = none ∧ passesOf y.kLen ≤ y.passes ∧ y.rows ≤ y.released ∧
        ∀ q ∈ y.stagedRows, q.row ≠ r.row → q.staged = true
      (¬last → Answers (exec (.rowStaged y.uid r.row false) s) fun t =>
        ∃ z, t.dev.tile? y.uid = some z ∧ z.stagedRows.map (·.row) = y.stagedRows.map (·.row) ∧ z.phase = .placed ∧
          (∀ q ∈ z.stagedRows, q.row = r.row → q.staged = true) ∧
          (∀ q ∈ y.stagedRows, q.row ≠ r.row → q ∈ z.stagedRows) ∧ z.released = y.released) ∧
      (last → Answers (exec (.rowStaged y.uid r.row false) s) fun t =>
        ∃ z, t.dev.tile? y.uid = some z ∧ z.firstArr = some a ∧ z.firstRows.map (·.row) = y.stagedRows.map (·.row) ∧
          z.retry = true ∧ z.passes = 0 ∧ z.released = 0 ∧ z.stagedRows = [] ∧ z.arr ≠ some a)) ∧
    (∀ row : Nat, y.injected = false → (y.failedOn ++ [a]).eraseDups.length < 4 →
      (match y.work with
        | .matrix _ => ∃ r, y.stagedRows.find? (fun r => !r.staged) = some r ∧ r.row = row
        | .span _ => ∃ r ∈ y.stagedRows, r.row = row) →
      Answers (exec (.rowStaged y.uid row true) s) fun t =>
        RetryOf t y [a] ∧ t.dev.arr[a].mismatch = satInc s.dev.arr[a].mismatch ∧ t.dev.dump.halted = false) ∧
    (∀ f : ArrId, y.firstArr = some f → y.agreed = false → s.dev.allStaged y = true →
      let same := y.stagedRows.map (fun r => (r.row, r.accs)) = y.firstRows.map (fun r => (r.row, r.accs))
      (same → Answers (exec (.bf16Compare y.uid) s) fun t => t.dev.tile? y.uid = some { y with agreed := true }) ∧
      (¬same → y.injected = false → (y.failedOn ++ [f, a]).eraseDups.length < 4 →
        Answers (exec (.bf16Compare y.uid) s) fun t => RetryOf t y [f, a] ∧ t.dev.dump.halted = false))

/-- R404: the attempt that makes a fourth array fail one tile is fatal: one whose row fails its check, one whose row the two
copies of the row unit give differently, and a second attempt that disagrees with the first, which both count. -/
def Obligations.FourthFailedArrayIsFatal : Prop :=
  ∀ (y : Tile) (a : ArrId) (s : State), s.dev.serving = true → s.numbered → s.dev.tile? y.uid = some y → y.phase = .placed →
    y.arr = some a →
    let halts := fun t : State => t.dev.dump.halted = true ∧ t.dev.dump.cause = 1 ∧ t.dev.cmds = [] ∧ t.dev.tiles = []
    (4 ≤ (y.failedOn ++ [a]).eraseDups.length →
      (∀ flaw : RowFlaw, y.released < y.rows → s.dev.stagingRoom y = true →
        (match y.work with | .matrix _ => passesOf y.kLen ≤ y.passes | .span _ => 0 < y.passes) →
        let row := flawed flaw (y.acc.getD y.released []) (y.chk.getD y.released 0)
        (y.parity = true ∨ flaw = .specialState ∨
          y.clamped = false ∧ rowPasses (s.dev.bf16Pair y) (s.dev.checkLen y) row.1 row.2 = false) →
        Answers (exec (.rowRelease y.uid y.released flaw) s) halts) ∧
      (∀ row : Nat,
        (match y.work with
          | .matrix _ => ∃ r, y.stagedRows.find? (fun r => !r.staged) = some r ∧ r.row = row
          | .span _ => ∃ r ∈ y.stagedRows, r.row = row) →
        Answers (exec (.rowStaged y.uid row true) s) halts)) ∧
    (∀ f : ArrId, y.firstArr = some f → y.agreed = false → s.dev.allStaged y = true →
      y.stagedRows.map (fun r => (r.row, r.accs)) ≠ y.firstRows.map (fun r => (r.row, r.accs)) →
      4 ≤ (y.failedOn ++ [f, a]).eraseDups.length → Answers (exec (.bf16Compare y.uid) s) halts)

namespace Sys2Proof.Machine

/-- The flags that a committing tile gives its command (R71, R83). -/
def Tile.outFlags (y : Tile) : BitVec 4 :=
  (if y.ldSat || y.clamped || y.stagedRows.any (·.sat) then flSat else 0) |||
    (if y.ldNan || y.stagedRows.any (·.nan) then flNan else 0) ||| (if y.readUnrep || y.folded then flUnrep else 0)

/-- The device once tile `y` of tensor command `tn` has written its rows and its map byte (R83, R117, R132). -/
def Dev.tileWrites (d : Dev) (y : Tile) (tn : Tensor) (p : TilePos) : Dev :=
  (y.stagedRows.foldl (fun d r => d.writeRow y tn p r) d).writeMap y tn p (y.readUnrep || y.folded)

end Sys2Proof.Machine

/-- R80, R83, R86, R91, R106, R112, R117, R147: a tile that meets the four conditions of a commit writes its rows and its map byte;
with no trouble, or folded outside the exact range, it has its final values and counts toward its command; with trouble it
awaits its Rephrase decision. An attempt whose processor has failed writes nothing and is to be expanded again; one that runs
twice does not commit before the two agree. -/
def Obligations.TilesCommit : Prop :=
  ∀ (y : Tile) (p : TilePos) (tn : Tensor) (s : State), s.dev.serving = true → s.numbered → s.dev.tile? y.uid = some y →
    y.work = .matrix p → s.dev.tensor? y.cmd = some tn → y.phase = .placed → s.dev.allStaged y = true →
    let twice := y.clamped = true ∨ y.firstArr.isSome = true
    (twice → y.agreed = false → Answers (exec (.tileCommit y.uid) s) (SameButOut s)) ∧
    ((twice → y.agreed = true) →
      (y.cpFailed = true → Answers (exec (.tileCommit y.uid) s) fun t =>
        (∃ z, t.dev.tile? y.uid = some z ∧ z.phase = .lost ∧ z.n = y.n ∧ z.work = y.work ∧ z.passes = 0 ∧ z.stagedRows = [] ∧
          z.retry = false ∧ z.firstArr = none) ∧
        t.dev.mem = s.dev.mem ∧ t.dev.tensors = s.dev.tensors ∧ t.dev.cmds = s.dev.cmds) ∧
      (y.cpFailed = false → s.dev.runsNow (fun d => d.commit y.uid) →
        let trouble := y.ldTrouble || y.stagedRows.any (·.trouble)
        let written := (s.dev.seen.tileWrites y tn p).mem
        (trouble = true → y.folded = false → Answers (exec (.tileCommit y.uid) s) fun t =>
          t.dev.mem = written ∧
          t.dev.ctx[y.c].rph = (if y.step = 0 then s.dev.ctx[y.c].rph.troubled y.layer y.period else s.dev.ctx[y.c].rph) ∧
          ∃ z, t.dev.tile? y.uid = some z ∧ z.phase = .troubled ∧ z.n = y.n ∧ z.stagedRows = [] ∧ z.flags = y.outFlags) ∧
        (trouble = false ∨ y.folded = true → tn.fin.length + 1 < tn.total → tn.cut = false →
          Answers (exec (.tileCommit y.uid) s) fun t =>
            t.dev.mem = written ∧ t.dev.tile? y.uid = none ∧
            (y.folded = true → t.dev.ctx[y.c].rph.unrep = satInc s.dev.ctx[y.c].rph.unrep) ∧
            (∀ x, s.dev.cmd? y.cmd = some x → ∃ x', t.dev.cmd? y.cmd = some x' ∧ x'.flags = x.flags ||| y.outFlags) ∧
            ∃ tn', t.dev.tensor? y.cmd = some tn' ∧ tn'.fin = tn.fin ++ [p])))

/-- R78, R79, R85 to R90, R142: the lowest-numbered troubled tile of a context, once no lower one of its Period's work and none of
earlier work is left, goes to its next step and is charged to the budget; with the budget used up, or one of 0, it is finished
unrepaired and counted, and so is one that no step is left for. That a tile of a context with quota 0 is finished so is the
model's (log entry 92). -/
def Obligations.RephraseDecides : Prop :=
  ∀ (c : CtxId) (y : Tile) (p : TilePos) (tn : Tensor) (s : State), s.dev.serving = true → s.numbered →
    lowestTile (s.dev.tiles.filter fun t => t.c = c && t.phase = .troubled) = some y → y.work = .matrix p →
    s.dev.tensor? y.cmd = some tn →
    let lower := ∃ u ∈ s.dev.tiles, u.c = c ∧ (u.period < y.period ∨ (u.period = y.period ∧ u.n < y.n))
    let n := if y.infOnly then 2 else y.step + 1
    let charge := tn.x.issueTime y.rows y.cols y.kLen n true
    let r := s.dev.ctx[c].rph
    let step := n ≤ 2 ∧ (∃ f ∈ [tn.x.fa, tn.x.fb, tn.x.fc], stepFmt f n ≠ stepFmt f y.step) ∧
      (stepFmt tn.x.fc n ≠ tn.x.fc → tn.x.xc.hasWide = true) ∧ s.dev.ctx[c].g.quota ≠ 0
    let granted := r.exhausted = false ∧ charge ≤ r.remain.toNat ∧ s.dev.lexVal (0x2210 + c.val) 1 ≠ 0
    (lower → Answers (exec (.rephraseDecision c) s) (SameButOut s)) ∧
    (¬lower → step → granted → Answers (exec (.rephraseDecision c) s) fun t =>
      t.dev.ctx[c].rph = { r with
        remain := r.remain - BitVec.ofNat 32 charge
        step1 := if n = 1 then satInc r.step1 else r.step1, step2 := if n = 2 then satInc r.step2 else r.step2 } ∧
      (∃ z, t.dev.tile? y.uid = some z ∧ z.step = n ∧ z.n = y.n ∧ z.passes = 0 ∧ z.stagedRows = [] ∧ z.prev = y.prev) ∧
      t.dev.mem = s.dev.mem ∧ t.dev.cmds = s.dev.cmds) ∧
    (¬lower → step → ¬granted → s.dev.runsNow (fun d => d.rephrase c) → Answers (exec (.rephraseDecision c) s) fun t =>
      t.dev.ctx[c].rph = { r with exhausted := true, unrep := satInc r.unrep } ∧ t.dev.tile? y.uid = none) ∧
    (¬lower → ¬step → s.dev.runsNow (fun d => d.rephrase c) → Answers (exec (.rephraseDecision c) s) fun t =>
      t.dev.ctx[c].rph = { r with unrep := satInc r.unrep } ∧ t.dev.tile? y.uid = none)

/-- R234: the next span of a row is merged into its running state, spans of a row in ascending order and every other row as it
was; with its last span the row is written. -/
def Obligations.SpansAreMergedInOrder : Prop :=
  ∀ (id row e g r : Nat) (a : Attn) (x : Cmd) (m : Merge) (y : StepEntry) (w : Nat × List (Option SmRow) × List Bool) (s : State),
    s.dev.serving = true → s.dev.attn? id = some a → s.dev.cmd? id = some x → rowPlace a.rowGroups row = some (e, g, r) →
    a.merges.find? (fun m => m.entry = e && m.g = g && m.chunk = r / 256) = some m → a.entries[e]? = some y →
    let i := r % 256
    let nx := m.next.getD i 0
    m.waiting.find? (fun w => w.1 = nx) = some w →
    (nx + 1 < a.spansOf y → i < m.next.length → i < m.rows.length → Answers (exec (.spanMerge id row) s) fun t =>
      t.dev.mem = s.dev.mem ∧ t.dev.cmds = s.dev.cmds ∧ ∃ a' m', t.dev.attn? id = some a' ∧ a'.done = a.done ∧
        a'.merges.find? (fun m => m.entry = e && m.g = g && m.chunk = r / 256) = some m' ∧
        m'.rows[i]? = some (mergeSm ((m.rows[i]?).getD none) ((w.2.1[i]?).getD none)) ∧ m'.next[i]? = some (nx + 1) ∧
        ∀ j, j ≠ i → m'.rows[j]? = m.rows[j]? ∧ m'.next[j]? = m.next[j]?) ∧
    (a.spansOf y ≤ nx + 1 → s.dev.runsNow (fun d => d.spanMerge id row) → Answers (exec (.spanMerge id row) s) fun t =>
      t.dev.attn? id = none ∨ ∃ a', t.dev.attn? id = some a' ∧ a'.done = a.done + 1)

/-- R218 to R220, R242, R244, Table 10-5: a pool whose bitmap has been written counts every page but the bitmap's as free; a
SCATTER copies the fresh tokens of an entry that passes its checks and writes the entry's status; the boundary of a batch adds
the step just run to a RUNNING sequence's length and begins its next step. -/
def Obligations.PoolsScatterAndBatch : Prop :=
  ∀ s : State, s.dev.serving = true → s.memWf →
    (∀ (c : CtxId) (pool : Bool), let p := s.dev.ctx[c].poolOf pool
      p.st = .initializing → p.written = false → Answers (exec (.poolInitDone c pool) s) fun t =>
        t.dev.ctx[c].poolOf pool = { p with written := true, free := p.pages - p.bitmapPages } ∧
        t.dev.ctx[c].poolOf (!pool) = s.dev.ctx[c].poolOf (!pool) ∧ t.dev.cmds = s.dev.cmds) ∧
    (∀ (id : Nat) (x : Cmd), s.dev.hasReady id x [0x20] → s.dev.rclUp = false → x.launch = none →
      let who := Actor.cmd id
      let list := ent x.entry 16 8 % 2 ^ 52
      let header := ent x.entry 28 8 % 2 ^ 52
      let entry := s.dev.ldtEntry x.c (ent x.entry 26 1)
      (ldtType entry ≠ 2 → Answers (exec (.scatter id) s) fun t => CmdEnds s t x 0x10 ∧ t.dev.mem = s.dev.mem) ∧
      (ldtType entry = 2 → ent x.entry 24 2 = 1 → s.dev.runsNow (fun d => d.runScatter x) →
        let h := s.dev.seen.batchHeader who header
        let y := h.2.readOpen who list 32
        let q := y.2.seqDesc who header (StepEntry.of y.1).slot
        let sc := natAt y.1 24 2
        (StepEntry.of y.1).slot < h.1.nslots → s.dev.olderHeld x.c header (StepEntry.of y.1).slot q.1.gen = false →
        let st := scatterStatus (AttnE.of entry) h.1 q.1 (StepEntry.of y.1).slot (StepEntry.of y.1).f (StepEntry.of y.1).frow sc
        Answers (exec (.scatter id) s) fun t => CmdEnds s t x st ∧
          t.dev.mem = ((if st = 0 then (List.range h.1.hkv).foldl (fun d g =>
              d.scatterHead who x.c (AttnE.of entry) h.1 q.1 (StepEntry.of y.1).frow sc g) q.2 else q.2).storeAddr who
            (list + 28) [st]).mem)) ∧
    (∀ (id : Nat) (x : Cmd), s.dev.hasReady id x [0x21] → s.dev.rclUp = false → x.launch = none →
      s.dev.runsNow (fun d => d.runBatch x) →
      let header := ent x.entry 16 8 % 2 ^ 52
      let h := s.dev.seen.batchHeader (.cmd id) header
      let q := (h.2.seqDesc (.cmd id) header 0).1
      (s.dev.ctx[x.c].poolOf (decide (h.1.pool = 1))).st = .ready → h.1.nslots = 1 → s.dev.farBehind x.c header [q] = false →
      s.dev.ctx[x.c].att.deferred = [] → header % 64 = 0 → s.dev.region header = .software → s.dev.region (header + 64) = .software →
      s.dev.mem.bad (header + 64) = false → q.req = 0 → q.state = 2 → 0 < q.step → cdiv (q.len + q.step + q.next) (32 * h.1.tpb) ≤ q.pages →
      Answers (exec (.batch id) s) fun t => CmdEnds s t x 0 ∧
        t.dev.mem.read (header + 64 + 4) 4 = leBytes (q.len + q.step) 4 ∧ t.dev.mem.read (header + 64 + 48) 4 = leBytes q.next 4 ∧
        t.dev.mem.read (header + 64) 2 = [0, 2])

/-! ## The codec (14) -/

namespace Sys2Proof.Machine

/-- Session command `x` of kind `k` acts on its session: it is ready, no earlier command of the session is to be taken, and
the session is open, its context's, and served by an engine (R325, R411). -/
abbrev Dev.onOpen (d : Dev) (id : Nat) (x : Cmd) (k : Nat) : Prop :=
  d.hasReady id x [k] ∧ d.codEarlier x = false ∧ d.cod.sess[x.sess].st = .opened ∧ d.cod.sess[x.sess].owner = x.c ∧
    (d.servedBy d.cod.sess[x.sess]).isSome = true

end Sys2Proof.Machine

/-- R325 to R327, R339: COD_OPEN opens a free session that its descriptor describes, and refuses a descriptor that is not
legal; COD_REL frees output buffers; COD_CLOSE closes, and completes when no earlier command of the session is left. -/
def Claims.CodecSessions : Prop :=
  ∀ (id : Nat) (x : Cmd) (s : State),
    let i := x.sess
    let y := s.dev.cod.sess[i]
    (s.dev.hasReady id x [0x30] → s.dev.codEarlier x = false →
      (y.st ≠ .free → y.owner ≠ x.c → Answers (exec (.codOpen id) s) fun t => CmdEnds s t x 0x11 ∧ t.dev.cod = s.dev.cod) ∧
      (s.dev.runsNow (fun d => d.codOpen x) →
        let b := (s.dev.seen.readOpen (.cmd id) (ent x.entry 24 8 % 2 ^ 52) 64).1
        let z := SessDesc.of b
        (y.st = .free → descLegal b z = true → s.dev.descFits z = true → Answers (exec (.codOpen id) s) fun t =>
          CmdEnds s t x 0 ∧ t.dev.cod.sess[i].st = .opened ∧ t.dev.cod.sess[i].owner = x.c ∧
          t.dev.cod.sess[i].d = { z with level := z.levelAt s.dev.per.num s.dev.per.den } ∧
          t.dev.cod.sess[i].queue = [] ∧ t.dev.cod.sess[i].input = [] ∧ t.dev.cod.sess[i].wr = 0) ∧
        (y.st = .free ∧ (descLegal b z = false ∨ s.dev.descFits z = false) ∨ y.st ≠ .free ∧ y.owner = x.c →
          Answers (exec (.codOpen id) s) fun t => CmdEnds s t x 0x10 ∧ t.dev.cod.sess[i] = y))) ∧
    (s.dev.onOpen id x 0x33 →
      (y.d.decode = true → Answers (exec (.codRel id) s) fun t =>
        CmdEnds s t x 0 ∧ t.dev.cod.sess[i].bufOut = y.bufOut &&& ~~~(BitVec.ofNat 16 (ent x.entry 20 2)) ∧
        t.dev.cod.sess[i].held = y.held) ∧
      (y.d.decode = false → Answers (exec (.codRel id) s) fun t => CmdEnds s t x 0x10 ∧ t.dev.cod.sess[i] = y)) ∧
    (s.dev.hasReady id x [0x34] → s.dev.codEarlier x = false → y.st = .opened → y.owner = x.c →
      let earlier := s.dev.cmds.any fun z => z.c = x.c && isCodec z.kind && z.sess = i && decide (z.id < id)
      (earlier = false → Answers (exec (.codClose id) s) fun t =>
        CmdEnds s t x 0 ∧ t.dev.cod.sess[i].st = .closing ∧ t.dev.cod.sess[i].close = none) ∧
      (earlier = true → Answers (exec (.codClose id) s) fun t =>
        t.dev.cmd? id = some { x with phase := .running } ∧ t.dev.cod.sess[i].st = .closing ∧
        t.dev.cod.sess[i].close = some id)) ∧
    (∀ p ∈ [((0x31 : Nat), Instr.codEnc id), (0x32, .codDec id), (0x33, .codRel id), (0x34, .codClose id)],
      s.dev.hasReady id x [p.1] → s.dev.codEarlier x = false →
      y.st ≠ .opened ∨ y.owner ≠ x.c ∨ (p.1 ≠ 0x34 ∧ s.dev.servedBy y = none) →
      Answers (exec p.2 s) fun t => CmdEnds s t x 0x11 ∧ t.dev.cod = s.dev.cod)

/-- R330, R334, R339: COD_ENC puts its picture behind those of its session, a key picture where one is due; one whose long-term
slots are not legal ends with EXCEEDS_PLAN; COD_DEC puts its bytes behind the session's input. -/
def Claims.CodecTakesPicturesAndBytes : Prop :=
  ∀ (id : Nat) (x : Cmd) (s : State),
    let i := x.sess
    let y := s.dev.cod.sess[i]
    let p := picOf x
    y.close = none →
    (s.dev.onOpen id x 0x31 →
      (y.d.decode = true ∨ 4 < p.mark ∨ codAddrOk p.src = false → Answers (exec (.codEnc id) s) fun t =>
        CmdEnds s t x 0x10 ∧ t.dev.cod.sess[i] = y) ∧
      (y.d.decode = false → p.mark ≤ 4 → codAddrOk p.src = true →
        (∀ q rest, y.queue = q :: rest →
          (q.nextRow ≠ 0 ∨ q.repeatFrom.isSome = true ∨
            (y.ltrOk q = true ∧ (q.key = true ∨ (y.sinceKey ≠ 0 ∧ y.sinceKey < y.d.keyInt)))) →
          Answers (exec (.codEnc id) s) fun t =>
          t.dev.cmd? id = some { x with phase := .running } ∧ t.dev.cod.sess[i] = { y with queue := y.queue ++ [p] }) ∧
        (y.queue = [] → y.ltrOk p = true → Answers (exec (.codEnc id) s) fun t =>
          t.dev.cmd? id = some { x with phase := .running } ∧
          t.dev.cod.sess[i] = { y with queue := [{ p with key := p.key || decide (y.sinceKey = 0 ∨ y.d.keyInt ≤ y.sinceKey) }] }) ∧
        (y.queue = [] → y.ltrOk p = false → Answers (exec (.codEnc id) s) fun t =>
          CmdEnds s t x 0x10 ∧ t.dev.cod.sess[i] = y))) ∧
    (s.dev.onOpen id x 0x32 →
      let fits := y.d.decode = true ∧ 0 < ent x.entry 32 4 ∧ ent x.entry 32 4 ≤ 2 ^ 24
      (fits → y.discard = false → Answers (exec (.codDec id) s) fun t =>
        t.dev.cmd? id = some { x with phase := .running } ∧
        t.dev.cod.sess[i] = { y with
          input := y.input ++ [{ cmd := id, period := x.period, addr := ent x.entry 24 8 % 2 ^ 52, left := ent x.entry 32 4 }] }) ∧
      (¬fits → Answers (exec (.codDec id) s) fun t => CmdEnds s t x 0x10 ∧ t.dev.cod.sess[i] = y))

/-- R325 to R327, R330, R334, R339: the direct commands of the codec. -/
def Obligations.CodecCommands : Prop := Claims.CodecSessions ∧ Claims.CodecTakesPicturesAndBytes

/-- R329, R333, R336, R338, R340, R411: an engine at a unit boundary takes units to be coded again first, then live units, then,
outside a live reserve, file units; its windows slide by one column; a unit that is coded lets the next row follow; a unit
that must be coded again goes to another engine, and its engine out of service; one that reaches its time bound ends. -/
def Obligations.EnginesRunUnits : Prop :=
  ∀ (e : EngId) (s : State), s.dev.serving = true →
    let g := s.dev.cod.eng[e]
    (g.st = .inService → g.unit = none →
      (∀ u rest, g.recode = u :: rest → Answers (exec (.unitStart e) s) fun t =>
        t.dev.cod.eng[e] = { g with unit := some u, recode := rest, windows := Vector.replicate 4 0 }) ∧
      (∀ u, g.recode = [] → s.dev.firstUnit (s.dev.unitsFor e true) = some u → Answers (exec (.unitStart e) s) fun t =>
        t.dev.cod.eng[e] = { g with unit := some u, windows := Vector.replicate 4 0 }) ∧
      (∀ u, g.recode = [] → s.dev.firstUnit (s.dev.unitsFor e true) = none → s.dev.firstUnit (s.dev.unitsFor e false) = some u →
        ((s.dev.cod.reserve && s.dev.hasLive e) = false → Answers (exec (.unitStart e) s) fun t =>
          t.dev.cod.eng[e] = { g with unit := some u, windows := Vector.replicate 4 0 }) ∧
        ((s.dev.cod.reserve && s.dev.hasLive e) = true → Answers (exec (.unitStart e) s) (SameButOut s)))) ∧
    (∀ u, g.unit = some u → g.leaving = false →
      let i := u.sess
      let y := s.dev.cod.sess[i]
      (∀ p rest, y.d.decode = false → y.queue = p :: rest → p.repeatFrom = none → y.held = [] → u.row + u.rows < y.d.rows →
        s.dev.runsNow (fun d => d.unitVisible e) → Answers (exec (.unitVisible e) s) fun t =>
          t.dev.cod.eng[e].unit = none ∧
          (∃ p', t.dev.cod.sess[i].queue = p' :: rest ∧ p'.cmd = p.cmd ∧ p'.nextRow = u.row + u.rows) ∧
          ((t.dev.cod.sess[i].held.length = 1 ∧ t.dev.cod.sess[i].wr = y.wr ∧ t.dev.cod.sess[i].unitSeq = y.unitSeq) ∨
            (t.dev.cod.sess[i].held = [] ∧ t.dev.cod.sess[i].unitSeq = y.unitSeq + 1 ∧
              ∃ n, t.dev.cod.sess[i].wr = y.wr + BitVec.ofNat 64 (32 * (n + 1))))) ∧
      (y.d.decode = true → s.dev.runsNow (fun d => d.unitVisible e) →
        let waits := ((s.dev.seen.modEng e fun x => { x with unit := none }).decodeUnit i false).1
        Answers (exec (.unitVisible e) s) fun t => t.dev.cod.eng[e].unit = if waits then some u else none) ∧
      (y.d.decode = true → s.dev.runsNow (fun d => d.timeBound e) → Answers (exec (.decodeTimeBound e) s) fun t =>
        t.dev.cod.eng[e].unit = none ∧ t.dev.cod.timeouts = satInc s.dev.cod.timeouts ∧ t.dev.cod.sess[i].midPic = false)) ∧
    (∀ u, g.unit = some u →
      (∀ f, (List.finRange 8).find? (fun f => f ≠ e && sameWay e f && decide (s.dev.cod.eng[f].st = .inService)) = some f →
        Answers (exec (.unitRecode e) s) fun t =>
          t.dev.cod.eng[e].unit = none ∧ t.dev.cod.eng[e].st = .outOfService ∧ t.dev.cod.eng[e].recode = [] ∧
          t.dev.cod.eng[f].recode = s.dev.cod.eng[f].recode ++ { u with again := true } :: g.recode ∧
          t.dev.cod.eng[f].unit = s.dev.cod.eng[f].unit) ∧
      Answers (exec (.unitRecode e) s) fun t =>
        t.dev.cod.eng[e].unit = none ∧ t.dev.cod.eng[e].st = .outOfService ∧ t.dev.cod.eng[e].recode = []) ∧
    (g.unit = none → (∀ i : SessId, s.dev.cod.sess[i].held = []) → Answers (exec (.unitVisible e) s) (SameButOut s)) ∧
    (∀ (k : Fin 4) (u : Unit14), e.val = k.val → g.unit = some u → Answers (exec (.windowFetchDone k) s) fun t =>
      let cols := cdiv (s.dev.cod.sess[u.sess]).d.width 64
      t.dev.cod.eng[e] = { g with windows := g.windows.map fun w => if w + 1 < cols then w + 1 else 0 } ∧
        t.dev.cod.sess = s.dev.cod.sess)

/-- R170, R194: words of the running image that return enter the instruction buffer with their bytes and whether they met an
uncorrectable error; a word at or above WORDS is not fetched. -/
def Claims.FetchedWordsEnterTheBuffer : Prop :=
  ∀ (c : CtxId) (o : Nat) (g : Program) (l : Cmd) (s : State), s.dev.serving = true → s.dev.ctx[c].cp.prog = some g →
    s.dev.launchOf c = some l →
    let a := g.image + 64 * (o + 1)
    (o < g.words → a % 64 = 0 → a < 2 ^ 52 → s.dev.region a = .software → s.dev.atHand a = true →
      s.dev.ctx[c].cp.ibuf.length < 4096 → Answers (exec (.instructionFetchReturn c o 1) s) fun t =>
        (a, Line.ofBytes (s.dev.mem.read a 64), s.dev.mem.bad a) ∈ t.dev.ctx[c].cp.ibuf ∧ t.regs c = s.regs c ∧
        t.escaped c = s.escaped c) ∧
    (g.words ≤ o → s.dev.ctx[c].cp.ready = none → Answers (exec (.instructionFetchReturn c o 1) s) (SameButOut s))

/-- R135, R170, R191, R192, R194: what returns from memory to a processor. -/
def Obligations.ReturnsOfLoadsAndWords : Prop := Claims.LoadReturnWritesDestination ∧ Claims.LdtldReturnChecksEntry ∧ Claims.FetchedWordsEnterTheBuffer

/-! ## The whole machine -/

/-- Every command, on every state, is answered with a next state, and takes nothing from and adds nothing to the queue behind
it. -/
def Obligations.EveryCommandAnswers : Prop :=
  ∀ (i : Instr) (s : State), Answers (exec i s) fun t => t.pending = s.pending

/-- Every command keeps the canonical form of memory, and that of the tables that hold loop descriptors, row-unit parameters
and ESC registers. -/
def Obligations.MemoryKeepsItsForm : Prop :=
  (∀ (i : Instr) (s : State), s.memWf → Answers (exec i s) State.memWf) ∧
  ∀ (i : Instr) (s : State), s.tablesWf → Answers (exec i s) State.tablesWf

/-- Every command leaves commands and tiles with numbers of their own, below the next ones to be given. -/
def Obligations.NumbersStayFresh : Prop :=
  ∀ (i : Instr) (s : State), s.numbered → Answers (exec i s) State.numbered

/-- Tables 02-4, 15-19 and 19-7: what registers read at reset. That no command waits, that nothing has been captured and that
memory lists nothing are the model's (log entries 1 and 3). -/
def Obligations.ResetState : Prop :=
  (∀ p ∈ [(0x10, 0x00020000), (0x14, 0), (0x18, 0), (0xE0000, 0), (0xE0110, 0), (0xE0200, 0), (0xD0000, 0x40000000),
      (0xD0020, 0xFFFFFFFF), (0xD0024, 0xFFFFFFFF)], State.reset.readPriv p.1 = (p.2 : Word)) ∧
    State.reset.pending = [] ∧ State.reset.memWf ∧ State.reset.tablesWf ∧ State.reset.numbered
end

