-- ==== Sys2Proof/Laws/State.lean ====
section
/-!
SUPPORT. Laws/State.lean: what each small update of the device changes, field by field: one lemma per field that an update
leaves, true by definition, and what the update makes of the field it changes.
-/
namespace Sys2Proof.Machine

/-! ## `Dev.modCtx` -/

@[simp] theorem Dev.modCtx_per (d : Dev) (c : CtxId) (f : Ctx → Ctx) : (d.modCtx c f).per = d.per := rfl
@[simp] theorem Dev.modCtx_cmp (d : Dev) (c : CtxId) (f : Ctx → Ctx) : (d.modCtx c f).cmp = d.cmp := rfl
@[simp] theorem Dev.modCtx_lex (d : Dev) (c : CtxId) (f : Ctx → Ctx) : (d.modCtx c f).lex = d.lex := rfl
@[simp] theorem Dev.modCtx_rwp (d : Dev) (c : CtxId) (f : Ctx → Ctx) : (d.modCtx c f).rwp = d.rwp := rfl
@[simp] theorem Dev.modCtx_zeroing (d : Dev) (c : CtxId) (f : Ctx → Ctx) : (d.modCtx c f).zeroing = d.zeroing := rfl
@[simp] theorem Dev.modCtx_cmds (d : Dev) (c : CtxId) (f : Ctx → Ctx) : (d.modCtx c f).cmds = d.cmds := rfl
@[simp] theorem Dev.modCtx_tensors (d : Dev) (c : CtxId) (f : Ctx → Ctx) : (d.modCtx c f).tensors = d.tensors := rfl
@[simp] theorem Dev.modCtx_attns (d : Dev) (c : CtxId) (f : Ctx → Ctx) : (d.modCtx c f).attns = d.attns := rfl
@[simp] theorem Dev.modCtx_tiles (d : Dev) (c : CtxId) (f : Ctx → Ctx) : (d.modCtx c f).tiles = d.tiles := rfl
@[simp] theorem Dev.modCtx_arr (d : Dev) (c : CtxId) (f : Ctx → Ctx) : (d.modCtx c f).arr = d.arr := rfl
@[simp] theorem Dev.modCtx_mc (d : Dev) (c : CtxId) (f : Ctx → Ctx) : (d.modCtx c f).mc = d.mc := rfl
@[simp] theorem Dev.modCtx_inject (d : Dev) (c : CtxId) (f : Ctx → Ctx) : (d.modCtx c f).inject = d.inject := rfl
@[simp] theorem Dev.modCtx_injectDetected (d : Dev) (c : CtxId) (f : Ctx → Ctx) : (d.modCtx c f).injectDetected = d.injectDetected := rfl
@[simp] theorem Dev.modCtx_mem (d : Dev) (c : CtxId) (f : Ctx → Ctx) : (d.modCtx c f).mem = d.mem := rfl
@[simp] theorem Dev.modCtx_ind (d : Dev) (c : CtxId) (f : Ctx → Ctx) : (d.modCtx c f).ind = d.ind := rfl
@[simp] theorem Dev.modCtx_flt (d : Dev) (c : CtxId) (f : Ctx → Ctx) : (d.modCtx c f).flt = d.flt := rfl
@[simp] theorem Dev.modCtx_port (d : Dev) (c : CtxId) (f : Ctx → Ctx) : (d.modCtx c f).port = d.port := rfl
@[simp] theorem Dev.modCtx_cjn (d : Dev) (c : CtxId) (f : Ctx → Ctx) : (d.modCtx c f).cjn = d.cjn := rfl
@[simp] theorem Dev.modCtx_grp (d : Dev) (c : CtxId) (f : Ctx → Ctx) : (d.modCtx c f).grp = d.grp := rfl
@[simp] theorem Dev.modCtx_cod (d : Dev) (c : CtxId) (f : Ctx → Ctx) : (d.modCtx c f).cod = d.cod := rfl
@[simp] theorem Dev.modCtx_rcl (d : Dev) (c : CtxId) (f : Ctx → Ctx) : (d.modCtx c f).rcl = d.rcl := rfl
@[simp] theorem Dev.modCtx_net (d : Dev) (c : CtxId) (f : Ctx → Ctx) : (d.modCtx c f).net = d.net := rfl
@[simp] theorem Dev.modCtx_life (d : Dev) (c : CtxId) (f : Ctx → Ctx) : (d.modCtx c f).life = d.life := rfl
@[simp] theorem Dev.modCtx_dump (d : Dev) (c : CtxId) (f : Ctx → Ctx) : (d.modCtx c f).dump = d.dump := rfl
@[simp] theorem Dev.modCtx_sec (d : Dev) (c : CtxId) (f : Ctx → Ctx) : (d.modCtx c f).sec = d.sec := rfl
@[simp] theorem Dev.modCtx_pwr (d : Dev) (c : CtxId) (f : Ctx → Ctx) : (d.modCtx c f).pwr = d.pwr := rfl
@[simp] theorem Dev.modCtx_ring (d : Dev) (c : CtxId) (f : Ctx → Ctx) : (d.modCtx c f).ring = d.ring := rfl
@[simp] theorem Dev.modCtx_seqs (d : Dev) (c : CtxId) (f : Ctx → Ctx) : (d.modCtx c f).seqs = d.seqs := rfl
@[simp] theorem Dev.modCtx_nextId (d : Dev) (c : CtxId) (f : Ctx → Ctx) : (d.modCtx c f).nextId = d.nextId := rfl
@[simp] theorem Dev.modCtx_nextUid (d : Dev) (c : CtxId) (f : Ctx → Ctx) : (d.modCtx c f).nextUid = d.nextUid := rfl
@[simp] theorem Dev.modCtx_freeCount (d : Dev) (c : CtxId) (f : Ctx → Ctx) : (d.modCtx c f).freeCount = d.freeCount := rfl
@[simp] theorem Dev.modCtx_takes (d : Dev) (c : CtxId) (f : Ctx → Ctx) : (d.modCtx c f).takes = d.takes := rfl
@[simp] theorem Dev.modCtx_ctxTakes (d : Dev) (c : CtxId) (f : Ctx → Ctx) : (d.modCtx c f).ctxTakes = d.ctxTakes := rfl
@[simp] theorem Dev.modCtx_out (d : Dev) (c : CtxId) (f : Ctx → Ctx) : (d.modCtx c f).out = d.out := rfl

/-! ## `Dev.modCp` -/

@[simp] theorem Dev.modCp_per (d : Dev) (c : CtxId) (f : Cp → Cp) : (d.modCp c f).per = d.per := rfl
@[simp] theorem Dev.modCp_cmp (d : Dev) (c : CtxId) (f : Cp → Cp) : (d.modCp c f).cmp = d.cmp := rfl
@[simp] theorem Dev.modCp_lex (d : Dev) (c : CtxId) (f : Cp → Cp) : (d.modCp c f).lex = d.lex := rfl
@[simp] theorem Dev.modCp_rwp (d : Dev) (c : CtxId) (f : Cp → Cp) : (d.modCp c f).rwp = d.rwp := rfl
@[simp] theorem Dev.modCp_zeroing (d : Dev) (c : CtxId) (f : Cp → Cp) : (d.modCp c f).zeroing = d.zeroing := rfl
@[simp] theorem Dev.modCp_cmds (d : Dev) (c : CtxId) (f : Cp → Cp) : (d.modCp c f).cmds = d.cmds := rfl
@[simp] theorem Dev.modCp_tensors (d : Dev) (c : CtxId) (f : Cp → Cp) : (d.modCp c f).tensors = d.tensors := rfl
@[simp] theorem Dev.modCp_attns (d : Dev) (c : CtxId) (f : Cp → Cp) : (d.modCp c f).attns = d.attns := rfl
@[simp] theorem Dev.modCp_tiles (d : Dev) (c : CtxId) (f : Cp → Cp) : (d.modCp c f).tiles = d.tiles := rfl
@[simp] theorem Dev.modCp_arr (d : Dev) (c : CtxId) (f : Cp → Cp) : (d.modCp c f).arr = d.arr := rfl
@[simp] theorem Dev.modCp_mc (d : Dev) (c : CtxId) (f : Cp → Cp) : (d.modCp c f).mc = d.mc := rfl
@[simp] theorem Dev.modCp_inject (d : Dev) (c : CtxId) (f : Cp → Cp) : (d.modCp c f).inject = d.inject := rfl
@[simp] theorem Dev.modCp_injectDetected (d : Dev) (c : CtxId) (f : Cp → Cp) : (d.modCp c f).injectDetected = d.injectDetected := rfl
@[simp] theorem Dev.modCp_mem (d : Dev) (c : CtxId) (f : Cp → Cp) : (d.modCp c f).mem = d.mem := rfl
@[simp] theorem Dev.modCp_ind (d : Dev) (c : CtxId) (f : Cp → Cp) : (d.modCp c f).ind = d.ind := rfl
@[simp] theorem Dev.modCp_flt (d : Dev) (c : CtxId) (f : Cp → Cp) : (d.modCp c f).flt = d.flt := rfl
@[simp] theorem Dev.modCp_port (d : Dev) (c : CtxId) (f : Cp → Cp) : (d.modCp c f).port = d.port := rfl
@[simp] theorem Dev.modCp_cjn (d : Dev) (c : CtxId) (f : Cp → Cp) : (d.modCp c f).cjn = d.cjn := rfl
@[simp] theorem Dev.modCp_grp (d : Dev) (c : CtxId) (f : Cp → Cp) : (d.modCp c f).grp = d.grp := rfl
@[simp] theorem Dev.modCp_cod (d : Dev) (c : CtxId) (f : Cp → Cp) : (d.modCp c f).cod = d.cod := rfl
@[simp] theorem Dev.modCp_rcl (d : Dev) (c : CtxId) (f : Cp → Cp) : (d.modCp c f).rcl = d.rcl := rfl
@[simp] theorem Dev.modCp_net (d : Dev) (c : CtxId) (f : Cp → Cp) : (d.modCp c f).net = d.net := rfl
@[simp] theorem Dev.modCp_life (d : Dev) (c : CtxId) (f : Cp → Cp) : (d.modCp c f).life = d.life := rfl
@[simp] theorem Dev.modCp_dump (d : Dev) (c : CtxId) (f : Cp → Cp) : (d.modCp c f).dump = d.dump := rfl
@[simp] theorem Dev.modCp_sec (d : Dev) (c : CtxId) (f : Cp → Cp) : (d.modCp c f).sec = d.sec := rfl
@[simp] theorem Dev.modCp_pwr (d : Dev) (c : CtxId) (f : Cp → Cp) : (d.modCp c f).pwr = d.pwr := rfl
@[simp] theorem Dev.modCp_ring (d : Dev) (c : CtxId) (f : Cp → Cp) : (d.modCp c f).ring = d.ring := rfl
@[simp] theorem Dev.modCp_seqs (d : Dev) (c : CtxId) (f : Cp → Cp) : (d.modCp c f).seqs = d.seqs := rfl
@[simp] theorem Dev.modCp_nextId (d : Dev) (c : CtxId) (f : Cp → Cp) : (d.modCp c f).nextId = d.nextId := rfl
@[simp] theorem Dev.modCp_nextUid (d : Dev) (c : CtxId) (f : Cp → Cp) : (d.modCp c f).nextUid = d.nextUid := rfl
@[simp] theorem Dev.modCp_freeCount (d : Dev) (c : CtxId) (f : Cp → Cp) : (d.modCp c f).freeCount = d.freeCount := rfl
@[simp] theorem Dev.modCp_takes (d : Dev) (c : CtxId) (f : Cp → Cp) : (d.modCp c f).takes = d.takes := rfl
@[simp] theorem Dev.modCp_ctxTakes (d : Dev) (c : CtxId) (f : Cp → Cp) : (d.modCp c f).ctxTakes = d.ctxTakes := rfl
@[simp] theorem Dev.modCp_out (d : Dev) (c : CtxId) (f : Cp → Cp) : (d.modCp c f).out = d.out := rfl

/-! ## `Dev.modRph` -/

@[simp] theorem Dev.modRph_per (d : Dev) (c : CtxId) (f : Rph → Rph) : (d.modRph c f).per = d.per := rfl
@[simp] theorem Dev.modRph_cmp (d : Dev) (c : CtxId) (f : Rph → Rph) : (d.modRph c f).cmp = d.cmp := rfl
@[simp] theorem Dev.modRph_lex (d : Dev) (c : CtxId) (f : Rph → Rph) : (d.modRph c f).lex = d.lex := rfl
@[simp] theorem Dev.modRph_rwp (d : Dev) (c : CtxId) (f : Rph → Rph) : (d.modRph c f).rwp = d.rwp := rfl
@[simp] theorem Dev.modRph_zeroing (d : Dev) (c : CtxId) (f : Rph → Rph) : (d.modRph c f).zeroing = d.zeroing := rfl
@[simp] theorem Dev.modRph_cmds (d : Dev) (c : CtxId) (f : Rph → Rph) : (d.modRph c f).cmds = d.cmds := rfl
@[simp] theorem Dev.modRph_tensors (d : Dev) (c : CtxId) (f : Rph → Rph) : (d.modRph c f).tensors = d.tensors := rfl
@[simp] theorem Dev.modRph_attns (d : Dev) (c : CtxId) (f : Rph → Rph) : (d.modRph c f).attns = d.attns := rfl
@[simp] theorem Dev.modRph_tiles (d : Dev) (c : CtxId) (f : Rph → Rph) : (d.modRph c f).tiles = d.tiles := rfl
@[simp] theorem Dev.modRph_arr (d : Dev) (c : CtxId) (f : Rph → Rph) : (d.modRph c f).arr = d.arr := rfl
@[simp] theorem Dev.modRph_mc (d : Dev) (c : CtxId) (f : Rph → Rph) : (d.modRph c f).mc = d.mc := rfl
@[simp] theorem Dev.modRph_inject (d : Dev) (c : CtxId) (f : Rph → Rph) : (d.modRph c f).inject = d.inject := rfl
@[simp] theorem Dev.modRph_injectDetected (d : Dev) (c : CtxId) (f : Rph → Rph) : (d.modRph c f).injectDetected = d.injectDetected := rfl
@[simp] theorem Dev.modRph_mem (d : Dev) (c : CtxId) (f : Rph → Rph) : (d.modRph c f).mem = d.mem := rfl
@[simp] theorem Dev.modRph_ind (d : Dev) (c : CtxId) (f : Rph → Rph) : (d.modRph c f).ind = d.ind := rfl
@[simp] theorem Dev.modRph_flt (d : Dev) (c : CtxId) (f : Rph → Rph) : (d.modRph c f).flt = d.flt := rfl
@[simp] theorem Dev.modRph_port (d : Dev) (c : CtxId) (f : Rph → Rph) : (d.modRph c f).port = d.port := rfl
@[simp] theorem Dev.modRph_cjn (d : Dev) (c : CtxId) (f : Rph → Rph) : (d.modRph c f).cjn = d.cjn := rfl
@[simp] theorem Dev.modRph_grp (d : Dev) (c : CtxId) (f : Rph → Rph) : (d.modRph c f).grp = d.grp := rfl
@[simp] theorem Dev.modRph_cod (d : Dev) (c : CtxId) (f : Rph → Rph) : (d.modRph c f).cod = d.cod := rfl
@[simp] theorem Dev.modRph_rcl (d : Dev) (c : CtxId) (f : Rph → Rph) : (d.modRph c f).rcl = d.rcl := rfl
@[simp] theorem Dev.modRph_net (d : Dev) (c : CtxId) (f : Rph → Rph) : (d.modRph c f).net = d.net := rfl
@[simp] theorem Dev.modRph_life (d : Dev) (c : CtxId) (f : Rph → Rph) : (d.modRph c f).life = d.life := rfl
@[simp] theorem Dev.modRph_dump (d : Dev) (c : CtxId) (f : Rph → Rph) : (d.modRph c f).dump = d.dump := rfl
@[simp] theorem Dev.modRph_sec (d : Dev) (c : CtxId) (f : Rph → Rph) : (d.modRph c f).sec = d.sec := rfl
@[simp] theorem Dev.modRph_pwr (d : Dev) (c : CtxId) (f : Rph → Rph) : (d.modRph c f).pwr = d.pwr := rfl
@[simp] theorem Dev.modRph_ring (d : Dev) (c : CtxId) (f : Rph → Rph) : (d.modRph c f).ring = d.ring := rfl
@[simp] theorem Dev.modRph_seqs (d : Dev) (c : CtxId) (f : Rph → Rph) : (d.modRph c f).seqs = d.seqs := rfl
@[simp] theorem Dev.modRph_nextId (d : Dev) (c : CtxId) (f : Rph → Rph) : (d.modRph c f).nextId = d.nextId := rfl
@[simp] theorem Dev.modRph_nextUid (d : Dev) (c : CtxId) (f : Rph → Rph) : (d.modRph c f).nextUid = d.nextUid := rfl
@[simp] theorem Dev.modRph_freeCount (d : Dev) (c : CtxId) (f : Rph → Rph) : (d.modRph c f).freeCount = d.freeCount := rfl
@[simp] theorem Dev.modRph_takes (d : Dev) (c : CtxId) (f : Rph → Rph) : (d.modRph c f).takes = d.takes := rfl
@[simp] theorem Dev.modRph_ctxTakes (d : Dev) (c : CtxId) (f : Rph → Rph) : (d.modRph c f).ctxTakes = d.ctxTakes := rfl
@[simp] theorem Dev.modRph_out (d : Dev) (c : CtxId) (f : Rph → Rph) : (d.modRph c f).out = d.out := rfl

/-! ## `Dev.modLdt` -/

@[simp] theorem Dev.modLdt_per (d : Dev) (c : CtxId) (f : Ldt → Ldt) : (d.modLdt c f).per = d.per := rfl
@[simp] theorem Dev.modLdt_cmp (d : Dev) (c : CtxId) (f : Ldt → Ldt) : (d.modLdt c f).cmp = d.cmp := rfl
@[simp] theorem Dev.modLdt_lex (d : Dev) (c : CtxId) (f : Ldt → Ldt) : (d.modLdt c f).lex = d.lex := rfl
@[simp] theorem Dev.modLdt_rwp (d : Dev) (c : CtxId) (f : Ldt → Ldt) : (d.modLdt c f).rwp = d.rwp := rfl
@[simp] theorem Dev.modLdt_zeroing (d : Dev) (c : CtxId) (f : Ldt → Ldt) : (d.modLdt c f).zeroing = d.zeroing := rfl
@[simp] theorem Dev.modLdt_cmds (d : Dev) (c : CtxId) (f : Ldt → Ldt) : (d.modLdt c f).cmds = d.cmds := rfl
@[simp] theorem Dev.modLdt_tensors (d : Dev) (c : CtxId) (f : Ldt → Ldt) : (d.modLdt c f).tensors = d.tensors := rfl
@[simp] theorem Dev.modLdt_attns (d : Dev) (c : CtxId) (f : Ldt → Ldt) : (d.modLdt c f).attns = d.attns := rfl
@[simp] theorem Dev.modLdt_tiles (d : Dev) (c : CtxId) (f : Ldt → Ldt) : (d.modLdt c f).tiles = d.tiles := rfl
@[simp] theorem Dev.modLdt_arr (d : Dev) (c : CtxId) (f : Ldt → Ldt) : (d.modLdt c f).arr = d.arr := rfl
@[simp] theorem Dev.modLdt_mc (d : Dev) (c : CtxId) (f : Ldt → Ldt) : (d.modLdt c f).mc = d.mc := rfl
@[simp] theorem Dev.modLdt_inject (d : Dev) (c : CtxId) (f : Ldt → Ldt) : (d.modLdt c f).inject = d.inject := rfl
@[simp] theorem Dev.modLdt_injectDetected (d : Dev) (c : CtxId) (f : Ldt → Ldt) : (d.modLdt c f).injectDetected = d.injectDetected := rfl
@[simp] theorem Dev.modLdt_mem (d : Dev) (c : CtxId) (f : Ldt → Ldt) : (d.modLdt c f).mem = d.mem := rfl
@[simp] theorem Dev.modLdt_ind (d : Dev) (c : CtxId) (f : Ldt → Ldt) : (d.modLdt c f).ind = d.ind := rfl
@[simp] theorem Dev.modLdt_flt (d : Dev) (c : CtxId) (f : Ldt → Ldt) : (d.modLdt c f).flt = d.flt := rfl
@[simp] theorem Dev.modLdt_port (d : Dev) (c : CtxId) (f : Ldt → Ldt) : (d.modLdt c f).port = d.port := rfl
@[simp] theorem Dev.modLdt_cjn (d : Dev) (c : CtxId) (f : Ldt → Ldt) : (d.modLdt c f).cjn = d.cjn := rfl
@[simp] theorem Dev.modLdt_grp (d : Dev) (c : CtxId) (f : Ldt → Ldt) : (d.modLdt c f).grp = d.grp := rfl
@[simp] theorem Dev.modLdt_cod (d : Dev) (c : CtxId) (f : Ldt → Ldt) : (d.modLdt c f).cod = d.cod := rfl
@[simp] theorem Dev.modLdt_rcl (d : Dev) (c : CtxId) (f : Ldt → Ldt) : (d.modLdt c f).rcl = d.rcl := rfl
@[simp] theorem Dev.modLdt_net (d : Dev) (c : CtxId) (f : Ldt → Ldt) : (d.modLdt c f).net = d.net := rfl
@[simp] theorem Dev.modLdt_life (d : Dev) (c : CtxId) (f : Ldt → Ldt) : (d.modLdt c f).life = d.life := rfl
@[simp] theorem Dev.modLdt_dump (d : Dev) (c : CtxId) (f : Ldt → Ldt) : (d.modLdt c f).dump = d.dump := rfl
@[simp] theorem Dev.modLdt_sec (d : Dev) (c : CtxId) (f : Ldt → Ldt) : (d.modLdt c f).sec = d.sec := rfl
@[simp] theorem Dev.modLdt_pwr (d : Dev) (c : CtxId) (f : Ldt → Ldt) : (d.modLdt c f).pwr = d.pwr := rfl
@[simp] theorem Dev.modLdt_ring (d : Dev) (c : CtxId) (f : Ldt → Ldt) : (d.modLdt c f).ring = d.ring := rfl
@[simp] theorem Dev.modLdt_seqs (d : Dev) (c : CtxId) (f : Ldt → Ldt) : (d.modLdt c f).seqs = d.seqs := rfl
@[simp] theorem Dev.modLdt_nextId (d : Dev) (c : CtxId) (f : Ldt → Ldt) : (d.modLdt c f).nextId = d.nextId := rfl
@[simp] theorem Dev.modLdt_nextUid (d : Dev) (c : CtxId) (f : Ldt → Ldt) : (d.modLdt c f).nextUid = d.nextUid := rfl
@[simp] theorem Dev.modLdt_freeCount (d : Dev) (c : CtxId) (f : Ldt → Ldt) : (d.modLdt c f).freeCount = d.freeCount := rfl
@[simp] theorem Dev.modLdt_takes (d : Dev) (c : CtxId) (f : Ldt → Ldt) : (d.modLdt c f).takes = d.takes := rfl
@[simp] theorem Dev.modLdt_ctxTakes (d : Dev) (c : CtxId) (f : Ldt → Ldt) : (d.modLdt c f).ctxTakes = d.ctxTakes := rfl
@[simp] theorem Dev.modLdt_out (d : Dev) (c : CtxId) (f : Ldt → Ldt) : (d.modLdt c f).out = d.out := rfl

/-! ## `Dev.modAtt` -/

@[simp] theorem Dev.modAtt_per (d : Dev) (c : CtxId) (f : Att → Att) : (d.modAtt c f).per = d.per := rfl
@[simp] theorem Dev.modAtt_cmp (d : Dev) (c : CtxId) (f : Att → Att) : (d.modAtt c f).cmp = d.cmp := rfl
@[simp] theorem Dev.modAtt_lex (d : Dev) (c : CtxId) (f : Att → Att) : (d.modAtt c f).lex = d.lex := rfl
@[simp] theorem Dev.modAtt_rwp (d : Dev) (c : CtxId) (f : Att → Att) : (d.modAtt c f).rwp = d.rwp := rfl
@[simp] theorem Dev.modAtt_zeroing (d : Dev) (c : CtxId) (f : Att → Att) : (d.modAtt c f).zeroing = d.zeroing := rfl
@[simp] theorem Dev.modAtt_cmds (d : Dev) (c : CtxId) (f : Att → Att) : (d.modAtt c f).cmds = d.cmds := rfl
@[simp] theorem Dev.modAtt_tensors (d : Dev) (c : CtxId) (f : Att → Att) : (d.modAtt c f).tensors = d.tensors := rfl
@[simp] theorem Dev.modAtt_attns (d : Dev) (c : CtxId) (f : Att → Att) : (d.modAtt c f).attns = d.attns := rfl
@[simp] theorem Dev.modAtt_tiles (d : Dev) (c : CtxId) (f : Att → Att) : (d.modAtt c f).tiles = d.tiles := rfl
@[simp] theorem Dev.modAtt_arr (d : Dev) (c : CtxId) (f : Att → Att) : (d.modAtt c f).arr = d.arr := rfl
@[simp] theorem Dev.modAtt_mc (d : Dev) (c : CtxId) (f : Att → Att) : (d.modAtt c f).mc = d.mc := rfl
@[simp] theorem Dev.modAtt_inject (d : Dev) (c : CtxId) (f : Att → Att) : (d.modAtt c f).inject = d.inject := rfl
@[simp] theorem Dev.modAtt_injectDetected (d : Dev) (c : CtxId) (f : Att → Att) : (d.modAtt c f).injectDetected = d.injectDetected := rfl
@[simp] theorem Dev.modAtt_mem (d : Dev) (c : CtxId) (f : Att → Att) : (d.modAtt c f).mem = d.mem := rfl
@[simp] theorem Dev.modAtt_ind (d : Dev) (c : CtxId) (f : Att → Att) : (d.modAtt c f).ind = d.ind := rfl
@[simp] theorem Dev.modAtt_flt (d : Dev) (c : CtxId) (f : Att → Att) : (d.modAtt c f).flt = d.flt := rfl
@[simp] theorem Dev.modAtt_port (d : Dev) (c : CtxId) (f : Att → Att) : (d.modAtt c f).port = d.port := rfl
@[simp] theorem Dev.modAtt_cjn (d : Dev) (c : CtxId) (f : Att → Att) : (d.modAtt c f).cjn = d.cjn := rfl
@[simp] theorem Dev.modAtt_grp (d : Dev) (c : CtxId) (f : Att → Att) : (d.modAtt c f).grp = d.grp := rfl
@[simp] theorem Dev.modAtt_cod (d : Dev) (c : CtxId) (f : Att → Att) : (d.modAtt c f).cod = d.cod := rfl
@[simp] theorem Dev.modAtt_rcl (d : Dev) (c : CtxId) (f : Att → Att) : (d.modAtt c f).rcl = d.rcl := rfl
@[simp] theorem Dev.modAtt_net (d : Dev) (c : CtxId) (f : Att → Att) : (d.modAtt c f).net = d.net := rfl
@[simp] theorem Dev.modAtt_life (d : Dev) (c : CtxId) (f : Att → Att) : (d.modAtt c f).life = d.life := rfl
@[simp] theorem Dev.modAtt_dump (d : Dev) (c : CtxId) (f : Att → Att) : (d.modAtt c f).dump = d.dump := rfl
@[simp] theorem Dev.modAtt_sec (d : Dev) (c : CtxId) (f : Att → Att) : (d.modAtt c f).sec = d.sec := rfl
@[simp] theorem Dev.modAtt_pwr (d : Dev) (c : CtxId) (f : Att → Att) : (d.modAtt c f).pwr = d.pwr := rfl
@[simp] theorem Dev.modAtt_ring (d : Dev) (c : CtxId) (f : Att → Att) : (d.modAtt c f).ring = d.ring := rfl
@[simp] theorem Dev.modAtt_seqs (d : Dev) (c : CtxId) (f : Att → Att) : (d.modAtt c f).seqs = d.seqs := rfl
@[simp] theorem Dev.modAtt_nextId (d : Dev) (c : CtxId) (f : Att → Att) : (d.modAtt c f).nextId = d.nextId := rfl
@[simp] theorem Dev.modAtt_nextUid (d : Dev) (c : CtxId) (f : Att → Att) : (d.modAtt c f).nextUid = d.nextUid := rfl
@[simp] theorem Dev.modAtt_freeCount (d : Dev) (c : CtxId) (f : Att → Att) : (d.modAtt c f).freeCount = d.freeCount := rfl
@[simp] theorem Dev.modAtt_takes (d : Dev) (c : CtxId) (f : Att → Att) : (d.modAtt c f).takes = d.takes := rfl
@[simp] theorem Dev.modAtt_ctxTakes (d : Dev) (c : CtxId) (f : Att → Att) : (d.modAtt c f).ctxTakes = d.ctxTakes := rfl
@[simp] theorem Dev.modAtt_out (d : Dev) (c : CtxId) (f : Att → Att) : (d.modAtt c f).out = d.out := rfl

/-! ## `Dev.modQ` -/

@[simp] theorem Dev.modQ_per (d : Dev) (c : CtxId) (q : QId) (f : Queue → Queue) : (d.modQ c q f).per = d.per := rfl
@[simp] theorem Dev.modQ_cmp (d : Dev) (c : CtxId) (q : QId) (f : Queue → Queue) : (d.modQ c q f).cmp = d.cmp := rfl
@[simp] theorem Dev.modQ_lex (d : Dev) (c : CtxId) (q : QId) (f : Queue → Queue) : (d.modQ c q f).lex = d.lex := rfl
@[simp] theorem Dev.modQ_rwp (d : Dev) (c : CtxId) (q : QId) (f : Queue → Queue) : (d.modQ c q f).rwp = d.rwp := rfl
@[simp] theorem Dev.modQ_zeroing (d : Dev) (c : CtxId) (q : QId) (f : Queue → Queue) : (d.modQ c q f).zeroing = d.zeroing := rfl
@[simp] theorem Dev.modQ_cmds (d : Dev) (c : CtxId) (q : QId) (f : Queue → Queue) : (d.modQ c q f).cmds = d.cmds := rfl
@[simp] theorem Dev.modQ_tensors (d : Dev) (c : CtxId) (q : QId) (f : Queue → Queue) : (d.modQ c q f).tensors = d.tensors := rfl
@[simp] theorem Dev.modQ_attns (d : Dev) (c : CtxId) (q : QId) (f : Queue → Queue) : (d.modQ c q f).attns = d.attns := rfl
@[simp] theorem Dev.modQ_tiles (d : Dev) (c : CtxId) (q : QId) (f : Queue → Queue) : (d.modQ c q f).tiles = d.tiles := rfl
@[simp] theorem Dev.modQ_arr (d : Dev) (c : CtxId) (q : QId) (f : Queue → Queue) : (d.modQ c q f).arr = d.arr := rfl
@[simp] theorem Dev.modQ_mc (d : Dev) (c : CtxId) (q : QId) (f : Queue → Queue) : (d.modQ c q f).mc = d.mc := rfl
@[simp] theorem Dev.modQ_inject (d : Dev) (c : CtxId) (q : QId) (f : Queue → Queue) : (d.modQ c q f).inject = d.inject := rfl
@[simp] theorem Dev.modQ_injectDetected (d : Dev) (c : CtxId) (q : QId) (f : Queue → Queue) : (d.modQ c q f).injectDetected = d.injectDetected := rfl
@[simp] theorem Dev.modQ_mem (d : Dev) (c : CtxId) (q : QId) (f : Queue → Queue) : (d.modQ c q f).mem = d.mem := rfl
@[simp] theorem Dev.modQ_ind (d : Dev) (c : CtxId) (q : QId) (f : Queue → Queue) : (d.modQ c q f).ind = d.ind := rfl
@[simp] theorem Dev.modQ_flt (d : Dev) (c : CtxId) (q : QId) (f : Queue → Queue) : (d.modQ c q f).flt = d.flt := rfl
@[simp] theorem Dev.modQ_port (d : Dev) (c : CtxId) (q : QId) (f : Queue → Queue) : (d.modQ c q f).port = d.port := rfl
@[simp] theorem Dev.modQ_cjn (d : Dev) (c : CtxId) (q : QId) (f : Queue → Queue) : (d.modQ c q f).cjn = d.cjn := rfl
@[simp] theorem Dev.modQ_grp (d : Dev) (c : CtxId) (q : QId) (f : Queue → Queue) : (d.modQ c q f).grp = d.grp := rfl
@[simp] theorem Dev.modQ_cod (d : Dev) (c : CtxId) (q : QId) (f : Queue → Queue) : (d.modQ c q f).cod = d.cod := rfl
@[simp] theorem Dev.modQ_rcl (d : Dev) (c : CtxId) (q : QId) (f : Queue → Queue) : (d.modQ c q f).rcl = d.rcl := rfl
@[simp] theorem Dev.modQ_net (d : Dev) (c : CtxId) (q : QId) (f : Queue → Queue) : (d.modQ c q f).net = d.net := rfl
@[simp] theorem Dev.modQ_life (d : Dev) (c : CtxId) (q : QId) (f : Queue → Queue) : (d.modQ c q f).life = d.life := rfl
@[simp] theorem Dev.modQ_dump (d : Dev) (c : CtxId) (q : QId) (f : Queue → Queue) : (d.modQ c q f).dump = d.dump := rfl
@[simp] theorem Dev.modQ_sec (d : Dev) (c : CtxId) (q : QId) (f : Queue → Queue) : (d.modQ c q f).sec = d.sec := rfl
@[simp] theorem Dev.modQ_pwr (d : Dev) (c : CtxId) (q : QId) (f : Queue → Queue) : (d.modQ c q f).pwr = d.pwr := rfl
@[simp] theorem Dev.modQ_ring (d : Dev) (c : CtxId) (q : QId) (f : Queue → Queue) : (d.modQ c q f).ring = d.ring := rfl
@[simp] theorem Dev.modQ_seqs (d : Dev) (c : CtxId) (q : QId) (f : Queue → Queue) : (d.modQ c q f).seqs = d.seqs := rfl
@[simp] theorem Dev.modQ_nextId (d : Dev) (c : CtxId) (q : QId) (f : Queue → Queue) : (d.modQ c q f).nextId = d.nextId := rfl
@[simp] theorem Dev.modQ_nextUid (d : Dev) (c : CtxId) (q : QId) (f : Queue → Queue) : (d.modQ c q f).nextUid = d.nextUid := rfl
@[simp] theorem Dev.modQ_freeCount (d : Dev) (c : CtxId) (q : QId) (f : Queue → Queue) : (d.modQ c q f).freeCount = d.freeCount := rfl
@[simp] theorem Dev.modQ_takes (d : Dev) (c : CtxId) (q : QId) (f : Queue → Queue) : (d.modQ c q f).takes = d.takes := rfl
@[simp] theorem Dev.modQ_ctxTakes (d : Dev) (c : CtxId) (q : QId) (f : Queue → Queue) : (d.modQ c q f).ctxTakes = d.ctxTakes := rfl
@[simp] theorem Dev.modQ_out (d : Dev) (c : CtxId) (q : QId) (f : Queue → Queue) : (d.modQ c q f).out = d.out := rfl

/-! ## `Dev.modArr` -/

@[simp] theorem Dev.modArr_per (d : Dev) (a : ArrId) (f : Arr → Arr) : (d.modArr a f).per = d.per := rfl
@[simp] theorem Dev.modArr_cmp (d : Dev) (a : ArrId) (f : Arr → Arr) : (d.modArr a f).cmp = d.cmp := rfl
@[simp] theorem Dev.modArr_lex (d : Dev) (a : ArrId) (f : Arr → Arr) : (d.modArr a f).lex = d.lex := rfl
@[simp] theorem Dev.modArr_rwp (d : Dev) (a : ArrId) (f : Arr → Arr) : (d.modArr a f).rwp = d.rwp := rfl
@[simp] theorem Dev.modArr_ctx (d : Dev) (a : ArrId) (f : Arr → Arr) : (d.modArr a f).ctx = d.ctx := rfl
@[simp] theorem Dev.modArr_zeroing (d : Dev) (a : ArrId) (f : Arr → Arr) : (d.modArr a f).zeroing = d.zeroing := rfl
@[simp] theorem Dev.modArr_cmds (d : Dev) (a : ArrId) (f : Arr → Arr) : (d.modArr a f).cmds = d.cmds := rfl
@[simp] theorem Dev.modArr_tensors (d : Dev) (a : ArrId) (f : Arr → Arr) : (d.modArr a f).tensors = d.tensors := rfl
@[simp] theorem Dev.modArr_attns (d : Dev) (a : ArrId) (f : Arr → Arr) : (d.modArr a f).attns = d.attns := rfl
@[simp] theorem Dev.modArr_tiles (d : Dev) (a : ArrId) (f : Arr → Arr) : (d.modArr a f).tiles = d.tiles := rfl
@[simp] theorem Dev.modArr_mc (d : Dev) (a : ArrId) (f : Arr → Arr) : (d.modArr a f).mc = d.mc := rfl
@[simp] theorem Dev.modArr_inject (d : Dev) (a : ArrId) (f : Arr → Arr) : (d.modArr a f).inject = d.inject := rfl
@[simp] theorem Dev.modArr_injectDetected (d : Dev) (a : ArrId) (f : Arr → Arr) : (d.modArr a f).injectDetected = d.injectDetected := rfl
@[simp] theorem Dev.modArr_mem (d : Dev) (a : ArrId) (f : Arr → Arr) : (d.modArr a f).mem = d.mem := rfl
@[simp] theorem Dev.modArr_ind (d : Dev) (a : ArrId) (f : Arr → Arr) : (d.modArr a f).ind = d.ind := rfl
@[simp] theorem Dev.modArr_flt (d : Dev) (a : ArrId) (f : Arr → Arr) : (d.modArr a f).flt = d.flt := rfl
@[simp] theorem Dev.modArr_port (d : Dev) (a : ArrId) (f : Arr → Arr) : (d.modArr a f).port = d.port := rfl
@[simp] theorem Dev.modArr_cjn (d : Dev) (a : ArrId) (f : Arr → Arr) : (d.modArr a f).cjn = d.cjn := rfl
@[simp] theorem Dev.modArr_grp (d : Dev) (a : ArrId) (f : Arr → Arr) : (d.modArr a f).grp = d.grp := rfl
@[simp] theorem Dev.modArr_cod (d : Dev) (a : ArrId) (f : Arr → Arr) : (d.modArr a f).cod = d.cod := rfl
@[simp] theorem Dev.modArr_rcl (d : Dev) (a : ArrId) (f : Arr → Arr) : (d.modArr a f).rcl = d.rcl := rfl
@[simp] theorem Dev.modArr_net (d : Dev) (a : ArrId) (f : Arr → Arr) : (d.modArr a f).net = d.net := rfl
@[simp] theorem Dev.modArr_life (d : Dev) (a : ArrId) (f : Arr → Arr) : (d.modArr a f).life = d.life := rfl
@[simp] theorem Dev.modArr_dump (d : Dev) (a : ArrId) (f : Arr → Arr) : (d.modArr a f).dump = d.dump := rfl
@[simp] theorem Dev.modArr_sec (d : Dev) (a : ArrId) (f : Arr → Arr) : (d.modArr a f).sec = d.sec := rfl
@[simp] theorem Dev.modArr_pwr (d : Dev) (a : ArrId) (f : Arr → Arr) : (d.modArr a f).pwr = d.pwr := rfl
@[simp] theorem Dev.modArr_ring (d : Dev) (a : ArrId) (f : Arr → Arr) : (d.modArr a f).ring = d.ring := rfl
@[simp] theorem Dev.modArr_seqs (d : Dev) (a : ArrId) (f : Arr → Arr) : (d.modArr a f).seqs = d.seqs := rfl
@[simp] theorem Dev.modArr_nextId (d : Dev) (a : ArrId) (f : Arr → Arr) : (d.modArr a f).nextId = d.nextId := rfl
@[simp] theorem Dev.modArr_nextUid (d : Dev) (a : ArrId) (f : Arr → Arr) : (d.modArr a f).nextUid = d.nextUid := rfl
@[simp] theorem Dev.modArr_freeCount (d : Dev) (a : ArrId) (f : Arr → Arr) : (d.modArr a f).freeCount = d.freeCount := rfl
@[simp] theorem Dev.modArr_takes (d : Dev) (a : ArrId) (f : Arr → Arr) : (d.modArr a f).takes = d.takes := rfl
@[simp] theorem Dev.modArr_ctxTakes (d : Dev) (a : ArrId) (f : Arr → Arr) : (d.modArr a f).ctxTakes = d.ctxTakes := rfl
@[simp] theorem Dev.modArr_out (d : Dev) (a : ArrId) (f : Arr → Arr) : (d.modArr a f).out = d.out := rfl

/-! ## `Dev.modPort` -/

@[simp] theorem Dev.modPort_per (d : Dev) (p : PortId) (f : Port → Port) : (d.modPort p f).per = d.per := rfl
@[simp] theorem Dev.modPort_cmp (d : Dev) (p : PortId) (f : Port → Port) : (d.modPort p f).cmp = d.cmp := rfl
@[simp] theorem Dev.modPort_lex (d : Dev) (p : PortId) (f : Port → Port) : (d.modPort p f).lex = d.lex := rfl
@[simp] theorem Dev.modPort_rwp (d : Dev) (p : PortId) (f : Port → Port) : (d.modPort p f).rwp = d.rwp := rfl
@[simp] theorem Dev.modPort_ctx (d : Dev) (p : PortId) (f : Port → Port) : (d.modPort p f).ctx = d.ctx := rfl
@[simp] theorem Dev.modPort_zeroing (d : Dev) (p : PortId) (f : Port → Port) : (d.modPort p f).zeroing = d.zeroing := rfl
@[simp] theorem Dev.modPort_cmds (d : Dev) (p : PortId) (f : Port → Port) : (d.modPort p f).cmds = d.cmds := rfl
@[simp] theorem Dev.modPort_tensors (d : Dev) (p : PortId) (f : Port → Port) : (d.modPort p f).tensors = d.tensors := rfl
@[simp] theorem Dev.modPort_attns (d : Dev) (p : PortId) (f : Port → Port) : (d.modPort p f).attns = d.attns := rfl
@[simp] theorem Dev.modPort_tiles (d : Dev) (p : PortId) (f : Port → Port) : (d.modPort p f).tiles = d.tiles := rfl
@[simp] theorem Dev.modPort_arr (d : Dev) (p : PortId) (f : Port → Port) : (d.modPort p f).arr = d.arr := rfl
@[simp] theorem Dev.modPort_mc (d : Dev) (p : PortId) (f : Port → Port) : (d.modPort p f).mc = d.mc := rfl
@[simp] theorem Dev.modPort_inject (d : Dev) (p : PortId) (f : Port → Port) : (d.modPort p f).inject = d.inject := rfl
@[simp] theorem Dev.modPort_injectDetected (d : Dev) (p : PortId) (f : Port → Port) : (d.modPort p f).injectDetected = d.injectDetected := rfl
@[simp] theorem Dev.modPort_mem (d : Dev) (p : PortId) (f : Port → Port) : (d.modPort p f).mem = d.mem := rfl
@[simp] theorem Dev.modPort_ind (d : Dev) (p : PortId) (f : Port → Port) : (d.modPort p f).ind = d.ind := rfl
@[simp] theorem Dev.modPort_flt (d : Dev) (p : PortId) (f : Port → Port) : (d.modPort p f).flt = d.flt := rfl
@[simp] theorem Dev.modPort_cjn (d : Dev) (p : PortId) (f : Port → Port) : (d.modPort p f).cjn = d.cjn := rfl
@[simp] theorem Dev.modPort_grp (d : Dev) (p : PortId) (f : Port → Port) : (d.modPort p f).grp = d.grp := rfl
@[simp] theorem Dev.modPort_cod (d : Dev) (p : PortId) (f : Port → Port) : (d.modPort p f).cod = d.cod := rfl
@[simp] theorem Dev.modPort_rcl (d : Dev) (p : PortId) (f : Port → Port) : (d.modPort p f).rcl = d.rcl := rfl
@[simp] theorem Dev.modPort_net (d : Dev) (p : PortId) (f : Port → Port) : (d.modPort p f).net = d.net := rfl
@[simp] theorem Dev.modPort_life (d : Dev) (p : PortId) (f : Port → Port) : (d.modPort p f).life = d.life := rfl
@[simp] theorem Dev.modPort_dump (d : Dev) (p : PortId) (f : Port → Port) : (d.modPort p f).dump = d.dump := rfl
@[simp] theorem Dev.modPort_sec (d : Dev) (p : PortId) (f : Port → Port) : (d.modPort p f).sec = d.sec := rfl
@[simp] theorem Dev.modPort_pwr (d : Dev) (p : PortId) (f : Port → Port) : (d.modPort p f).pwr = d.pwr := rfl
@[simp] theorem Dev.modPort_ring (d : Dev) (p : PortId) (f : Port → Port) : (d.modPort p f).ring = d.ring := rfl
@[simp] theorem Dev.modPort_seqs (d : Dev) (p : PortId) (f : Port → Port) : (d.modPort p f).seqs = d.seqs := rfl
@[simp] theorem Dev.modPort_nextId (d : Dev) (p : PortId) (f : Port → Port) : (d.modPort p f).nextId = d.nextId := rfl
@[simp] theorem Dev.modPort_nextUid (d : Dev) (p : PortId) (f : Port → Port) : (d.modPort p f).nextUid = d.nextUid := rfl
@[simp] theorem Dev.modPort_freeCount (d : Dev) (p : PortId) (f : Port → Port) : (d.modPort p f).freeCount = d.freeCount := rfl
@[simp] theorem Dev.modPort_takes (d : Dev) (p : PortId) (f : Port → Port) : (d.modPort p f).takes = d.takes := rfl
@[simp] theorem Dev.modPort_ctxTakes (d : Dev) (p : PortId) (f : Port → Port) : (d.modPort p f).ctxTakes = d.ctxTakes := rfl
@[simp] theorem Dev.modPort_out (d : Dev) (p : PortId) (f : Port → Port) : (d.modPort p f).out = d.out := rfl

/-! ## `Dev.modMc` -/

@[simp] theorem Dev.modMc_per (d : Dev) (i : Fin 8) (f : Mcast → Mcast) : (d.modMc i f).per = d.per := rfl
@[simp] theorem Dev.modMc_cmp (d : Dev) (i : Fin 8) (f : Mcast → Mcast) : (d.modMc i f).cmp = d.cmp := rfl
@[simp] theorem Dev.modMc_lex (d : Dev) (i : Fin 8) (f : Mcast → Mcast) : (d.modMc i f).lex = d.lex := rfl
@[simp] theorem Dev.modMc_rwp (d : Dev) (i : Fin 8) (f : Mcast → Mcast) : (d.modMc i f).rwp = d.rwp := rfl
@[simp] theorem Dev.modMc_ctx (d : Dev) (i : Fin 8) (f : Mcast → Mcast) : (d.modMc i f).ctx = d.ctx := rfl
@[simp] theorem Dev.modMc_zeroing (d : Dev) (i : Fin 8) (f : Mcast → Mcast) : (d.modMc i f).zeroing = d.zeroing := rfl
@[simp] theorem Dev.modMc_cmds (d : Dev) (i : Fin 8) (f : Mcast → Mcast) : (d.modMc i f).cmds = d.cmds := rfl
@[simp] theorem Dev.modMc_tensors (d : Dev) (i : Fin 8) (f : Mcast → Mcast) : (d.modMc i f).tensors = d.tensors := rfl
@[simp] theorem Dev.modMc_attns (d : Dev) (i : Fin 8) (f : Mcast → Mcast) : (d.modMc i f).attns = d.attns := rfl
@[simp] theorem Dev.modMc_tiles (d : Dev) (i : Fin 8) (f : Mcast → Mcast) : (d.modMc i f).tiles = d.tiles := rfl
@[simp] theorem Dev.modMc_arr (d : Dev) (i : Fin 8) (f : Mcast → Mcast) : (d.modMc i f).arr = d.arr := rfl
@[simp] theorem Dev.modMc_inject (d : Dev) (i : Fin 8) (f : Mcast → Mcast) : (d.modMc i f).inject = d.inject := rfl
@[simp] theorem Dev.modMc_injectDetected (d : Dev) (i : Fin 8) (f : Mcast → Mcast) : (d.modMc i f).injectDetected = d.injectDetected := rfl
@[simp] theorem Dev.modMc_mem (d : Dev) (i : Fin 8) (f : Mcast → Mcast) : (d.modMc i f).mem = d.mem := rfl
@[simp] theorem Dev.modMc_ind (d : Dev) (i : Fin 8) (f : Mcast → Mcast) : (d.modMc i f).ind = d.ind := rfl
@[simp] theorem Dev.modMc_flt (d : Dev) (i : Fin 8) (f : Mcast → Mcast) : (d.modMc i f).flt = d.flt := rfl
@[simp] theorem Dev.modMc_port (d : Dev) (i : Fin 8) (f : Mcast → Mcast) : (d.modMc i f).port = d.port := rfl
@[simp] theorem Dev.modMc_cjn (d : Dev) (i : Fin 8) (f : Mcast → Mcast) : (d.modMc i f).cjn = d.cjn := rfl
@[simp] theorem Dev.modMc_grp (d : Dev) (i : Fin 8) (f : Mcast → Mcast) : (d.modMc i f).grp = d.grp := rfl
@[simp] theorem Dev.modMc_cod (d : Dev) (i : Fin 8) (f : Mcast → Mcast) : (d.modMc i f).cod = d.cod := rfl
@[simp] theorem Dev.modMc_rcl (d : Dev) (i : Fin 8) (f : Mcast → Mcast) : (d.modMc i f).rcl = d.rcl := rfl
@[simp] theorem Dev.modMc_net (d : Dev) (i : Fin 8) (f : Mcast → Mcast) : (d.modMc i f).net = d.net := rfl
@[simp] theorem Dev.modMc_life (d : Dev) (i : Fin 8) (f : Mcast → Mcast) : (d.modMc i f).life = d.life := rfl
@[simp] theorem Dev.modMc_dump (d : Dev) (i : Fin 8) (f : Mcast → Mcast) : (d.modMc i f).dump = d.dump := rfl
@[simp] theorem Dev.modMc_sec (d : Dev) (i : Fin 8) (f : Mcast → Mcast) : (d.modMc i f).sec = d.sec := rfl
@[simp] theorem Dev.modMc_pwr (d : Dev) (i : Fin 8) (f : Mcast → Mcast) : (d.modMc i f).pwr = d.pwr := rfl
@[simp] theorem Dev.modMc_ring (d : Dev) (i : Fin 8) (f : Mcast → Mcast) : (d.modMc i f).ring = d.ring := rfl
@[simp] theorem Dev.modMc_seqs (d : Dev) (i : Fin 8) (f : Mcast → Mcast) : (d.modMc i f).seqs = d.seqs := rfl
@[simp] theorem Dev.modMc_nextId (d : Dev) (i : Fin 8) (f : Mcast → Mcast) : (d.modMc i f).nextId = d.nextId := rfl
@[simp] theorem Dev.modMc_nextUid (d : Dev) (i : Fin 8) (f : Mcast → Mcast) : (d.modMc i f).nextUid = d.nextUid := rfl
@[simp] theorem Dev.modMc_freeCount (d : Dev) (i : Fin 8) (f : Mcast → Mcast) : (d.modMc i f).freeCount = d.freeCount := rfl
@[simp] theorem Dev.modMc_takes (d : Dev) (i : Fin 8) (f : Mcast → Mcast) : (d.modMc i f).takes = d.takes := rfl
@[simp] theorem Dev.modMc_ctxTakes (d : Dev) (i : Fin 8) (f : Mcast → Mcast) : (d.modMc i f).ctxTakes = d.ctxTakes := rfl
@[simp] theorem Dev.modMc_out (d : Dev) (i : Fin 8) (f : Mcast → Mcast) : (d.modMc i f).out = d.out := rfl

/-! ## `Dev.modCmp` -/

@[simp] theorem Dev.modCmp_per (d : Dev) (i : Fin 8) (f : Comparator → Comparator) : (d.modCmp i f).per = d.per := rfl
@[simp] theorem Dev.modCmp_lex (d : Dev) (i : Fin 8) (f : Comparator → Comparator) : (d.modCmp i f).lex = d.lex := rfl
@[simp] theorem Dev.modCmp_rwp (d : Dev) (i : Fin 8) (f : Comparator → Comparator) : (d.modCmp i f).rwp = d.rwp := rfl
@[simp] theorem Dev.modCmp_ctx (d : Dev) (i : Fin 8) (f : Comparator → Comparator) : (d.modCmp i f).ctx = d.ctx := rfl
@[simp] theorem Dev.modCmp_zeroing (d : Dev) (i : Fin 8) (f : Comparator → Comparator) : (d.modCmp i f).zeroing = d.zeroing := rfl
@[simp] theorem Dev.modCmp_cmds (d : Dev) (i : Fin 8) (f : Comparator → Comparator) : (d.modCmp i f).cmds = d.cmds := rfl
@[simp] theorem Dev.modCmp_tensors (d : Dev) (i : Fin 8) (f : Comparator → Comparator) : (d.modCmp i f).tensors = d.tensors := rfl
@[simp] theorem Dev.modCmp_attns (d : Dev) (i : Fin 8) (f : Comparator → Comparator) : (d.modCmp i f).attns = d.attns := rfl
@[simp] theorem Dev.modCmp_tiles (d : Dev) (i : Fin 8) (f : Comparator → Comparator) : (d.modCmp i f).tiles = d.tiles := rfl
@[simp] theorem Dev.modCmp_arr (d : Dev) (i : Fin 8) (f : Comparator → Comparator) : (d.modCmp i f).arr = d.arr := rfl
@[simp] theorem Dev.modCmp_mc (d : Dev) (i : Fin 8) (f : Comparator → Comparator) : (d.modCmp i f).mc = d.mc := rfl
@[simp] theorem Dev.modCmp_inject (d : Dev) (i : Fin 8) (f : Comparator → Comparator) : (d.modCmp i f).inject = d.inject := rfl
@[simp] theorem Dev.modCmp_injectDetected (d : Dev) (i : Fin 8) (f : Comparator → Comparator) : (d.modCmp i f).injectDetected = d.injectDetected := rfl
@[simp] theorem Dev.modCmp_mem (d : Dev) (i : Fin 8) (f : Comparator → Comparator) : (d.modCmp i f).mem = d.mem := rfl
@[simp] theorem Dev.modCmp_ind (d : Dev) (i : Fin 8) (f : Comparator → Comparator) : (d.modCmp i f).ind = d.ind := rfl
@[simp] theorem Dev.modCmp_flt (d : Dev) (i : Fin 8) (f : Comparator → Comparator) : (d.modCmp i f).flt = d.flt := rfl
@[simp] theorem Dev.modCmp_port (d : Dev) (i : Fin 8) (f : Comparator → Comparator) : (d.modCmp i f).port = d.port := rfl
@[simp] theorem Dev.modCmp_cjn (d : Dev) (i : Fin 8) (f : Comparator → Comparator) : (d.modCmp i f).cjn = d.cjn := rfl
@[simp] theorem Dev.modCmp_grp (d : Dev) (i : Fin 8) (f : Comparator → Comparator) : (d.modCmp i f).grp = d.grp := rfl
@[simp] theorem Dev.modCmp_cod (d : Dev) (i : Fin 8) (f : Comparator → Comparator) : (d.modCmp i f).cod = d.cod := rfl
@[simp] theorem Dev.modCmp_rcl (d : Dev) (i : Fin 8) (f : Comparator → Comparator) : (d.modCmp i f).rcl = d.rcl := rfl
@[simp] theorem Dev.modCmp_net (d : Dev) (i : Fin 8) (f : Comparator → Comparator) : (d.modCmp i f).net = d.net := rfl
@[simp] theorem Dev.modCmp_life (d : Dev) (i : Fin 8) (f : Comparator → Comparator) : (d.modCmp i f).life = d.life := rfl
@[simp] theorem Dev.modCmp_dump (d : Dev) (i : Fin 8) (f : Comparator → Comparator) : (d.modCmp i f).dump = d.dump := rfl
@[simp] theorem Dev.modCmp_sec (d : Dev) (i : Fin 8) (f : Comparator → Comparator) : (d.modCmp i f).sec = d.sec := rfl
@[simp] theorem Dev.modCmp_pwr (d : Dev) (i : Fin 8) (f : Comparator → Comparator) : (d.modCmp i f).pwr = d.pwr := rfl
@[simp] theorem Dev.modCmp_ring (d : Dev) (i : Fin 8) (f : Comparator → Comparator) : (d.modCmp i f).ring = d.ring := rfl
@[simp] theorem Dev.modCmp_seqs (d : Dev) (i : Fin 8) (f : Comparator → Comparator) : (d.modCmp i f).seqs = d.seqs := rfl
@[simp] theorem Dev.modCmp_nextId (d : Dev) (i : Fin 8) (f : Comparator → Comparator) : (d.modCmp i f).nextId = d.nextId := rfl
@[simp] theorem Dev.modCmp_nextUid (d : Dev) (i : Fin 8) (f : Comparator → Comparator) : (d.modCmp i f).nextUid = d.nextUid := rfl
@[simp] theorem Dev.modCmp_freeCount (d : Dev) (i : Fin 8) (f : Comparator → Comparator) : (d.modCmp i f).freeCount = d.freeCount := rfl
@[simp] theorem Dev.modCmp_takes (d : Dev) (i : Fin 8) (f : Comparator → Comparator) : (d.modCmp i f).takes = d.takes := rfl
@[simp] theorem Dev.modCmp_ctxTakes (d : Dev) (i : Fin 8) (f : Comparator → Comparator) : (d.modCmp i f).ctxTakes = d.ctxTakes := rfl
@[simp] theorem Dev.modCmp_out (d : Dev) (i : Fin 8) (f : Comparator → Comparator) : (d.modCmp i f).out = d.out := rfl

/-! ## `Dev.modCh` -/

@[simp] theorem Dev.modCh_per (d : Dev) (i : Fin 192) (f : Channel → Channel) : (d.modCh i f).per = d.per := rfl
@[simp] theorem Dev.modCh_cmp (d : Dev) (i : Fin 192) (f : Channel → Channel) : (d.modCh i f).cmp = d.cmp := rfl
@[simp] theorem Dev.modCh_lex (d : Dev) (i : Fin 192) (f : Channel → Channel) : (d.modCh i f).lex = d.lex := rfl
@[simp] theorem Dev.modCh_rwp (d : Dev) (i : Fin 192) (f : Channel → Channel) : (d.modCh i f).rwp = d.rwp := rfl
@[simp] theorem Dev.modCh_ctx (d : Dev) (i : Fin 192) (f : Channel → Channel) : (d.modCh i f).ctx = d.ctx := rfl
@[simp] theorem Dev.modCh_zeroing (d : Dev) (i : Fin 192) (f : Channel → Channel) : (d.modCh i f).zeroing = d.zeroing := rfl
@[simp] theorem Dev.modCh_cmds (d : Dev) (i : Fin 192) (f : Channel → Channel) : (d.modCh i f).cmds = d.cmds := rfl
@[simp] theorem Dev.modCh_tensors (d : Dev) (i : Fin 192) (f : Channel → Channel) : (d.modCh i f).tensors = d.tensors := rfl
@[simp] theorem Dev.modCh_attns (d : Dev) (i : Fin 192) (f : Channel → Channel) : (d.modCh i f).attns = d.attns := rfl
@[simp] theorem Dev.modCh_tiles (d : Dev) (i : Fin 192) (f : Channel → Channel) : (d.modCh i f).tiles = d.tiles := rfl
@[simp] theorem Dev.modCh_arr (d : Dev) (i : Fin 192) (f : Channel → Channel) : (d.modCh i f).arr = d.arr := rfl
@[simp] theorem Dev.modCh_mc (d : Dev) (i : Fin 192) (f : Channel → Channel) : (d.modCh i f).mc = d.mc := rfl
@[simp] theorem Dev.modCh_inject (d : Dev) (i : Fin 192) (f : Channel → Channel) : (d.modCh i f).inject = d.inject := rfl
@[simp] theorem Dev.modCh_injectDetected (d : Dev) (i : Fin 192) (f : Channel → Channel) : (d.modCh i f).injectDetected = d.injectDetected := rfl
@[simp] theorem Dev.modCh_ind (d : Dev) (i : Fin 192) (f : Channel → Channel) : (d.modCh i f).ind = d.ind := rfl
@[simp] theorem Dev.modCh_flt (d : Dev) (i : Fin 192) (f : Channel → Channel) : (d.modCh i f).flt = d.flt := rfl
@[simp] theorem Dev.modCh_port (d : Dev) (i : Fin 192) (f : Channel → Channel) : (d.modCh i f).port = d.port := rfl
@[simp] theorem Dev.modCh_cjn (d : Dev) (i : Fin 192) (f : Channel → Channel) : (d.modCh i f).cjn = d.cjn := rfl
@[simp] theorem Dev.modCh_grp (d : Dev) (i : Fin 192) (f : Channel → Channel) : (d.modCh i f).grp = d.grp := rfl
@[simp] theorem Dev.modCh_cod (d : Dev) (i : Fin 192) (f : Channel → Channel) : (d.modCh i f).cod = d.cod := rfl
@[simp] theorem Dev.modCh_rcl (d : Dev) (i : Fin 192) (f : Channel → Channel) : (d.modCh i f).rcl = d.rcl := rfl
@[simp] theorem Dev.modCh_net (d : Dev) (i : Fin 192) (f : Channel → Channel) : (d.modCh i f).net = d.net := rfl
@[simp] theorem Dev.modCh_life (d : Dev) (i : Fin 192) (f : Channel → Channel) : (d.modCh i f).life = d.life := rfl
@[simp] theorem Dev.modCh_dump (d : Dev) (i : Fin 192) (f : Channel → Channel) : (d.modCh i f).dump = d.dump := rfl
@[simp] theorem Dev.modCh_sec (d : Dev) (i : Fin 192) (f : Channel → Channel) : (d.modCh i f).sec = d.sec := rfl
@[simp] theorem Dev.modCh_pwr (d : Dev) (i : Fin 192) (f : Channel → Channel) : (d.modCh i f).pwr = d.pwr := rfl
@[simp] theorem Dev.modCh_ring (d : Dev) (i : Fin 192) (f : Channel → Channel) : (d.modCh i f).ring = d.ring := rfl
@[simp] theorem Dev.modCh_seqs (d : Dev) (i : Fin 192) (f : Channel → Channel) : (d.modCh i f).seqs = d.seqs := rfl
@[simp] theorem Dev.modCh_nextId (d : Dev) (i : Fin 192) (f : Channel → Channel) : (d.modCh i f).nextId = d.nextId := rfl
@[simp] theorem Dev.modCh_nextUid (d : Dev) (i : Fin 192) (f : Channel → Channel) : (d.modCh i f).nextUid = d.nextUid := rfl
@[simp] theorem Dev.modCh_freeCount (d : Dev) (i : Fin 192) (f : Channel → Channel) : (d.modCh i f).freeCount = d.freeCount := rfl
@[simp] theorem Dev.modCh_takes (d : Dev) (i : Fin 192) (f : Channel → Channel) : (d.modCh i f).takes = d.takes := rfl
@[simp] theorem Dev.modCh_ctxTakes (d : Dev) (i : Fin 192) (f : Channel → Channel) : (d.modCh i f).ctxTakes = d.ctxTakes := rfl
@[simp] theorem Dev.modCh_out (d : Dev) (i : Fin 192) (f : Channel → Channel) : (d.modCh i f).out = d.out := rfl

/-! ## `Dev.modSess` -/

@[simp] theorem Dev.modSess_per (d : Dev) (i : SessId) (f : Sess → Sess) : (d.modSess i f).per = d.per := rfl
@[simp] theorem Dev.modSess_cmp (d : Dev) (i : SessId) (f : Sess → Sess) : (d.modSess i f).cmp = d.cmp := rfl
@[simp] theorem Dev.modSess_lex (d : Dev) (i : SessId) (f : Sess → Sess) : (d.modSess i f).lex = d.lex := rfl
@[simp] theorem Dev.modSess_rwp (d : Dev) (i : SessId) (f : Sess → Sess) : (d.modSess i f).rwp = d.rwp := rfl
@[simp] theorem Dev.modSess_ctx (d : Dev) (i : SessId) (f : Sess → Sess) : (d.modSess i f).ctx = d.ctx := rfl
@[simp] theorem Dev.modSess_zeroing (d : Dev) (i : SessId) (f : Sess → Sess) : (d.modSess i f).zeroing = d.zeroing := rfl
@[simp] theorem Dev.modSess_cmds (d : Dev) (i : SessId) (f : Sess → Sess) : (d.modSess i f).cmds = d.cmds := rfl
@[simp] theorem Dev.modSess_tensors (d : Dev) (i : SessId) (f : Sess → Sess) : (d.modSess i f).tensors = d.tensors := rfl
@[simp] theorem Dev.modSess_attns (d : Dev) (i : SessId) (f : Sess → Sess) : (d.modSess i f).attns = d.attns := rfl
@[simp] theorem Dev.modSess_tiles (d : Dev) (i : SessId) (f : Sess → Sess) : (d.modSess i f).tiles = d.tiles := rfl
@[simp] theorem Dev.modSess_arr (d : Dev) (i : SessId) (f : Sess → Sess) : (d.modSess i f).arr = d.arr := rfl
@[simp] theorem Dev.modSess_mc (d : Dev) (i : SessId) (f : Sess → Sess) : (d.modSess i f).mc = d.mc := rfl
@[simp] theorem Dev.modSess_inject (d : Dev) (i : SessId) (f : Sess → Sess) : (d.modSess i f).inject = d.inject := rfl
@[simp] theorem Dev.modSess_injectDetected (d : Dev) (i : SessId) (f : Sess → Sess) : (d.modSess i f).injectDetected = d.injectDetected := rfl
@[simp] theorem Dev.modSess_mem (d : Dev) (i : SessId) (f : Sess → Sess) : (d.modSess i f).mem = d.mem := rfl
@[simp] theorem Dev.modSess_ind (d : Dev) (i : SessId) (f : Sess → Sess) : (d.modSess i f).ind = d.ind := rfl
@[simp] theorem Dev.modSess_flt (d : Dev) (i : SessId) (f : Sess → Sess) : (d.modSess i f).flt = d.flt := rfl
@[simp] theorem Dev.modSess_port (d : Dev) (i : SessId) (f : Sess → Sess) : (d.modSess i f).port = d.port := rfl
@[simp] theorem Dev.modSess_cjn (d : Dev) (i : SessId) (f : Sess → Sess) : (d.modSess i f).cjn = d.cjn := rfl
@[simp] theorem Dev.modSess_grp (d : Dev) (i : SessId) (f : Sess → Sess) : (d.modSess i f).grp = d.grp := rfl
@[simp] theorem Dev.modSess_rcl (d : Dev) (i : SessId) (f : Sess → Sess) : (d.modSess i f).rcl = d.rcl := rfl
@[simp] theorem Dev.modSess_net (d : Dev) (i : SessId) (f : Sess → Sess) : (d.modSess i f).net = d.net := rfl
@[simp] theorem Dev.modSess_life (d : Dev) (i : SessId) (f : Sess → Sess) : (d.modSess i f).life = d.life := rfl
@[simp] theorem Dev.modSess_dump (d : Dev) (i : SessId) (f : Sess → Sess) : (d.modSess i f).dump = d.dump := rfl
@[simp] theorem Dev.modSess_sec (d : Dev) (i : SessId) (f : Sess → Sess) : (d.modSess i f).sec = d.sec := rfl
@[simp] theorem Dev.modSess_pwr (d : Dev) (i : SessId) (f : Sess → Sess) : (d.modSess i f).pwr = d.pwr := rfl
@[simp] theorem Dev.modSess_ring (d : Dev) (i : SessId) (f : Sess → Sess) : (d.modSess i f).ring = d.ring := rfl
@[simp] theorem Dev.modSess_seqs (d : Dev) (i : SessId) (f : Sess → Sess) : (d.modSess i f).seqs = d.seqs := rfl
@[simp] theorem Dev.modSess_nextId (d : Dev) (i : SessId) (f : Sess → Sess) : (d.modSess i f).nextId = d.nextId := rfl
@[simp] theorem Dev.modSess_nextUid (d : Dev) (i : SessId) (f : Sess → Sess) : (d.modSess i f).nextUid = d.nextUid := rfl
@[simp] theorem Dev.modSess_freeCount (d : Dev) (i : SessId) (f : Sess → Sess) : (d.modSess i f).freeCount = d.freeCount := rfl
@[simp] theorem Dev.modSess_takes (d : Dev) (i : SessId) (f : Sess → Sess) : (d.modSess i f).takes = d.takes := rfl
@[simp] theorem Dev.modSess_ctxTakes (d : Dev) (i : SessId) (f : Sess → Sess) : (d.modSess i f).ctxTakes = d.ctxTakes := rfl
@[simp] theorem Dev.modSess_out (d : Dev) (i : SessId) (f : Sess → Sess) : (d.modSess i f).out = d.out := rfl

/-! ## `Dev.modEng` -/

@[simp] theorem Dev.modEng_per (d : Dev) (i : EngId) (f : Eng → Eng) : (d.modEng i f).per = d.per := rfl
@[simp] theorem Dev.modEng_cmp (d : Dev) (i : EngId) (f : Eng → Eng) : (d.modEng i f).cmp = d.cmp := rfl
@[simp] theorem Dev.modEng_lex (d : Dev) (i : EngId) (f : Eng → Eng) : (d.modEng i f).lex = d.lex := rfl
@[simp] theorem Dev.modEng_rwp (d : Dev) (i : EngId) (f : Eng → Eng) : (d.modEng i f).rwp = d.rwp := rfl
@[simp] theorem Dev.modEng_ctx (d : Dev) (i : EngId) (f : Eng → Eng) : (d.modEng i f).ctx = d.ctx := rfl
@[simp] theorem Dev.modEng_zeroing (d : Dev) (i : EngId) (f : Eng → Eng) : (d.modEng i f).zeroing = d.zeroing := rfl
@[simp] theorem Dev.modEng_cmds (d : Dev) (i : EngId) (f : Eng → Eng) : (d.modEng i f).cmds = d.cmds := rfl
@[simp] theorem Dev.modEng_tensors (d : Dev) (i : EngId) (f : Eng → Eng) : (d.modEng i f).tensors = d.tensors := rfl
@[simp] theorem Dev.modEng_attns (d : Dev) (i : EngId) (f : Eng → Eng) : (d.modEng i f).attns = d.attns := rfl
@[simp] theorem Dev.modEng_tiles (d : Dev) (i : EngId) (f : Eng → Eng) : (d.modEng i f).tiles = d.tiles := rfl
@[simp] theorem Dev.modEng_arr (d : Dev) (i : EngId) (f : Eng → Eng) : (d.modEng i f).arr = d.arr := rfl
@[simp] theorem Dev.modEng_mc (d : Dev) (i : EngId) (f : Eng → Eng) : (d.modEng i f).mc = d.mc := rfl
@[simp] theorem Dev.modEng_inject (d : Dev) (i : EngId) (f : Eng → Eng) : (d.modEng i f).inject = d.inject := rfl
@[simp] theorem Dev.modEng_injectDetected (d : Dev) (i : EngId) (f : Eng → Eng) : (d.modEng i f).injectDetected = d.injectDetected := rfl
@[simp] theorem Dev.modEng_mem (d : Dev) (i : EngId) (f : Eng → Eng) : (d.modEng i f).mem = d.mem := rfl
@[simp] theorem Dev.modEng_ind (d : Dev) (i : EngId) (f : Eng → Eng) : (d.modEng i f).ind = d.ind := rfl
@[simp] theorem Dev.modEng_flt (d : Dev) (i : EngId) (f : Eng → Eng) : (d.modEng i f).flt = d.flt := rfl
@[simp] theorem Dev.modEng_port (d : Dev) (i : EngId) (f : Eng → Eng) : (d.modEng i f).port = d.port := rfl
@[simp] theorem Dev.modEng_cjn (d : Dev) (i : EngId) (f : Eng → Eng) : (d.modEng i f).cjn = d.cjn := rfl
@[simp] theorem Dev.modEng_grp (d : Dev) (i : EngId) (f : Eng → Eng) : (d.modEng i f).grp = d.grp := rfl
@[simp] theorem Dev.modEng_rcl (d : Dev) (i : EngId) (f : Eng → Eng) : (d.modEng i f).rcl = d.rcl := rfl
@[simp] theorem Dev.modEng_net (d : Dev) (i : EngId) (f : Eng → Eng) : (d.modEng i f).net = d.net := rfl
@[simp] theorem Dev.modEng_life (d : Dev) (i : EngId) (f : Eng → Eng) : (d.modEng i f).life = d.life := rfl
@[simp] theorem Dev.modEng_dump (d : Dev) (i : EngId) (f : Eng → Eng) : (d.modEng i f).dump = d.dump := rfl
@[simp] theorem Dev.modEng_sec (d : Dev) (i : EngId) (f : Eng → Eng) : (d.modEng i f).sec = d.sec := rfl
@[simp] theorem Dev.modEng_pwr (d : Dev) (i : EngId) (f : Eng → Eng) : (d.modEng i f).pwr = d.pwr := rfl
@[simp] theorem Dev.modEng_ring (d : Dev) (i : EngId) (f : Eng → Eng) : (d.modEng i f).ring = d.ring := rfl
@[simp] theorem Dev.modEng_seqs (d : Dev) (i : EngId) (f : Eng → Eng) : (d.modEng i f).seqs = d.seqs := rfl
@[simp] theorem Dev.modEng_nextId (d : Dev) (i : EngId) (f : Eng → Eng) : (d.modEng i f).nextId = d.nextId := rfl
@[simp] theorem Dev.modEng_nextUid (d : Dev) (i : EngId) (f : Eng → Eng) : (d.modEng i f).nextUid = d.nextUid := rfl
@[simp] theorem Dev.modEng_freeCount (d : Dev) (i : EngId) (f : Eng → Eng) : (d.modEng i f).freeCount = d.freeCount := rfl
@[simp] theorem Dev.modEng_takes (d : Dev) (i : EngId) (f : Eng → Eng) : (d.modEng i f).takes = d.takes := rfl
@[simp] theorem Dev.modEng_ctxTakes (d : Dev) (i : EngId) (f : Eng → Eng) : (d.modEng i f).ctxTakes = d.ctxTakes := rfl
@[simp] theorem Dev.modEng_out (d : Dev) (i : EngId) (f : Eng → Eng) : (d.modEng i f).out = d.out := rfl

/-! ## `Dev.modSlot` -/

@[simp] theorem Dev.modSlot_per (d : Dev) (i : Fin 192) (f : Slot → Slot) : (d.modSlot i f).per = d.per := rfl
@[simp] theorem Dev.modSlot_cmp (d : Dev) (i : Fin 192) (f : Slot → Slot) : (d.modSlot i f).cmp = d.cmp := rfl
@[simp] theorem Dev.modSlot_lex (d : Dev) (i : Fin 192) (f : Slot → Slot) : (d.modSlot i f).lex = d.lex := rfl
@[simp] theorem Dev.modSlot_rwp (d : Dev) (i : Fin 192) (f : Slot → Slot) : (d.modSlot i f).rwp = d.rwp := rfl
@[simp] theorem Dev.modSlot_ctx (d : Dev) (i : Fin 192) (f : Slot → Slot) : (d.modSlot i f).ctx = d.ctx := rfl
@[simp] theorem Dev.modSlot_zeroing (d : Dev) (i : Fin 192) (f : Slot → Slot) : (d.modSlot i f).zeroing = d.zeroing := rfl
@[simp] theorem Dev.modSlot_cmds (d : Dev) (i : Fin 192) (f : Slot → Slot) : (d.modSlot i f).cmds = d.cmds := rfl
@[simp] theorem Dev.modSlot_tensors (d : Dev) (i : Fin 192) (f : Slot → Slot) : (d.modSlot i f).tensors = d.tensors := rfl
@[simp] theorem Dev.modSlot_attns (d : Dev) (i : Fin 192) (f : Slot → Slot) : (d.modSlot i f).attns = d.attns := rfl
@[simp] theorem Dev.modSlot_tiles (d : Dev) (i : Fin 192) (f : Slot → Slot) : (d.modSlot i f).tiles = d.tiles := rfl
@[simp] theorem Dev.modSlot_arr (d : Dev) (i : Fin 192) (f : Slot → Slot) : (d.modSlot i f).arr = d.arr := rfl
@[simp] theorem Dev.modSlot_mc (d : Dev) (i : Fin 192) (f : Slot → Slot) : (d.modSlot i f).mc = d.mc := rfl
@[simp] theorem Dev.modSlot_inject (d : Dev) (i : Fin 192) (f : Slot → Slot) : (d.modSlot i f).inject = d.inject := rfl
@[simp] theorem Dev.modSlot_injectDetected (d : Dev) (i : Fin 192) (f : Slot → Slot) : (d.modSlot i f).injectDetected = d.injectDetected := rfl
@[simp] theorem Dev.modSlot_mem (d : Dev) (i : Fin 192) (f : Slot → Slot) : (d.modSlot i f).mem = d.mem := rfl
@[simp] theorem Dev.modSlot_ind (d : Dev) (i : Fin 192) (f : Slot → Slot) : (d.modSlot i f).ind = d.ind := rfl
@[simp] theorem Dev.modSlot_port (d : Dev) (i : Fin 192) (f : Slot → Slot) : (d.modSlot i f).port = d.port := rfl
@[simp] theorem Dev.modSlot_cjn (d : Dev) (i : Fin 192) (f : Slot → Slot) : (d.modSlot i f).cjn = d.cjn := rfl
@[simp] theorem Dev.modSlot_grp (d : Dev) (i : Fin 192) (f : Slot → Slot) : (d.modSlot i f).grp = d.grp := rfl
@[simp] theorem Dev.modSlot_cod (d : Dev) (i : Fin 192) (f : Slot → Slot) : (d.modSlot i f).cod = d.cod := rfl
@[simp] theorem Dev.modSlot_rcl (d : Dev) (i : Fin 192) (f : Slot → Slot) : (d.modSlot i f).rcl = d.rcl := rfl
@[simp] theorem Dev.modSlot_net (d : Dev) (i : Fin 192) (f : Slot → Slot) : (d.modSlot i f).net = d.net := rfl
@[simp] theorem Dev.modSlot_life (d : Dev) (i : Fin 192) (f : Slot → Slot) : (d.modSlot i f).life = d.life := rfl
@[simp] theorem Dev.modSlot_dump (d : Dev) (i : Fin 192) (f : Slot → Slot) : (d.modSlot i f).dump = d.dump := rfl
@[simp] theorem Dev.modSlot_sec (d : Dev) (i : Fin 192) (f : Slot → Slot) : (d.modSlot i f).sec = d.sec := rfl
@[simp] theorem Dev.modSlot_pwr (d : Dev) (i : Fin 192) (f : Slot → Slot) : (d.modSlot i f).pwr = d.pwr := rfl
@[simp] theorem Dev.modSlot_ring (d : Dev) (i : Fin 192) (f : Slot → Slot) : (d.modSlot i f).ring = d.ring := rfl
@[simp] theorem Dev.modSlot_seqs (d : Dev) (i : Fin 192) (f : Slot → Slot) : (d.modSlot i f).seqs = d.seqs := rfl
@[simp] theorem Dev.modSlot_nextId (d : Dev) (i : Fin 192) (f : Slot → Slot) : (d.modSlot i f).nextId = d.nextId := rfl
@[simp] theorem Dev.modSlot_nextUid (d : Dev) (i : Fin 192) (f : Slot → Slot) : (d.modSlot i f).nextUid = d.nextUid := rfl
@[simp] theorem Dev.modSlot_freeCount (d : Dev) (i : Fin 192) (f : Slot → Slot) : (d.modSlot i f).freeCount = d.freeCount := rfl
@[simp] theorem Dev.modSlot_takes (d : Dev) (i : Fin 192) (f : Slot → Slot) : (d.modSlot i f).takes = d.takes := rfl
@[simp] theorem Dev.modSlot_ctxTakes (d : Dev) (i : Fin 192) (f : Slot → Slot) : (d.modSlot i f).ctxTakes = d.ctxTakes := rfl
@[simp] theorem Dev.modSlot_out (d : Dev) (i : Fin 192) (f : Slot → Slot) : (d.modSlot i f).out = d.out := rfl

/-! ## `Dev.modPair` -/

@[simp] theorem Dev.modPair_per (d : Dev) (i : Fin 18) (f : Pair → Pair) : (d.modPair i f).per = d.per := rfl
@[simp] theorem Dev.modPair_cmp (d : Dev) (i : Fin 18) (f : Pair → Pair) : (d.modPair i f).cmp = d.cmp := rfl
@[simp] theorem Dev.modPair_lex (d : Dev) (i : Fin 18) (f : Pair → Pair) : (d.modPair i f).lex = d.lex := rfl
@[simp] theorem Dev.modPair_rwp (d : Dev) (i : Fin 18) (f : Pair → Pair) : (d.modPair i f).rwp = d.rwp := rfl
@[simp] theorem Dev.modPair_ctx (d : Dev) (i : Fin 18) (f : Pair → Pair) : (d.modPair i f).ctx = d.ctx := rfl
@[simp] theorem Dev.modPair_zeroing (d : Dev) (i : Fin 18) (f : Pair → Pair) : (d.modPair i f).zeroing = d.zeroing := rfl
@[simp] theorem Dev.modPair_cmds (d : Dev) (i : Fin 18) (f : Pair → Pair) : (d.modPair i f).cmds = d.cmds := rfl
@[simp] theorem Dev.modPair_tensors (d : Dev) (i : Fin 18) (f : Pair → Pair) : (d.modPair i f).tensors = d.tensors := rfl
@[simp] theorem Dev.modPair_attns (d : Dev) (i : Fin 18) (f : Pair → Pair) : (d.modPair i f).attns = d.attns := rfl
@[simp] theorem Dev.modPair_tiles (d : Dev) (i : Fin 18) (f : Pair → Pair) : (d.modPair i f).tiles = d.tiles := rfl
@[simp] theorem Dev.modPair_arr (d : Dev) (i : Fin 18) (f : Pair → Pair) : (d.modPair i f).arr = d.arr := rfl
@[simp] theorem Dev.modPair_mc (d : Dev) (i : Fin 18) (f : Pair → Pair) : (d.modPair i f).mc = d.mc := rfl
@[simp] theorem Dev.modPair_inject (d : Dev) (i : Fin 18) (f : Pair → Pair) : (d.modPair i f).inject = d.inject := rfl
@[simp] theorem Dev.modPair_injectDetected (d : Dev) (i : Fin 18) (f : Pair → Pair) : (d.modPair i f).injectDetected = d.injectDetected := rfl
@[simp] theorem Dev.modPair_mem (d : Dev) (i : Fin 18) (f : Pair → Pair) : (d.modPair i f).mem = d.mem := rfl
@[simp] theorem Dev.modPair_ind (d : Dev) (i : Fin 18) (f : Pair → Pair) : (d.modPair i f).ind = d.ind := rfl
@[simp] theorem Dev.modPair_port (d : Dev) (i : Fin 18) (f : Pair → Pair) : (d.modPair i f).port = d.port := rfl
@[simp] theorem Dev.modPair_cjn (d : Dev) (i : Fin 18) (f : Pair → Pair) : (d.modPair i f).cjn = d.cjn := rfl
@[simp] theorem Dev.modPair_grp (d : Dev) (i : Fin 18) (f : Pair → Pair) : (d.modPair i f).grp = d.grp := rfl
@[simp] theorem Dev.modPair_cod (d : Dev) (i : Fin 18) (f : Pair → Pair) : (d.modPair i f).cod = d.cod := rfl
@[simp] theorem Dev.modPair_rcl (d : Dev) (i : Fin 18) (f : Pair → Pair) : (d.modPair i f).rcl = d.rcl := rfl
@[simp] theorem Dev.modPair_net (d : Dev) (i : Fin 18) (f : Pair → Pair) : (d.modPair i f).net = d.net := rfl
@[simp] theorem Dev.modPair_life (d : Dev) (i : Fin 18) (f : Pair → Pair) : (d.modPair i f).life = d.life := rfl
@[simp] theorem Dev.modPair_dump (d : Dev) (i : Fin 18) (f : Pair → Pair) : (d.modPair i f).dump = d.dump := rfl
@[simp] theorem Dev.modPair_sec (d : Dev) (i : Fin 18) (f : Pair → Pair) : (d.modPair i f).sec = d.sec := rfl
@[simp] theorem Dev.modPair_pwr (d : Dev) (i : Fin 18) (f : Pair → Pair) : (d.modPair i f).pwr = d.pwr := rfl
@[simp] theorem Dev.modPair_ring (d : Dev) (i : Fin 18) (f : Pair → Pair) : (d.modPair i f).ring = d.ring := rfl
@[simp] theorem Dev.modPair_seqs (d : Dev) (i : Fin 18) (f : Pair → Pair) : (d.modPair i f).seqs = d.seqs := rfl
@[simp] theorem Dev.modPair_nextId (d : Dev) (i : Fin 18) (f : Pair → Pair) : (d.modPair i f).nextId = d.nextId := rfl
@[simp] theorem Dev.modPair_nextUid (d : Dev) (i : Fin 18) (f : Pair → Pair) : (d.modPair i f).nextUid = d.nextUid := rfl
@[simp] theorem Dev.modPair_freeCount (d : Dev) (i : Fin 18) (f : Pair → Pair) : (d.modPair i f).freeCount = d.freeCount := rfl
@[simp] theorem Dev.modPair_takes (d : Dev) (i : Fin 18) (f : Pair → Pair) : (d.modPair i f).takes = d.takes := rfl
@[simp] theorem Dev.modPair_ctxTakes (d : Dev) (i : Fin 18) (f : Pair → Pair) : (d.modPair i f).ctxTakes = d.ctxTakes := rfl
@[simp] theorem Dev.modPair_out (d : Dev) (i : Fin 18) (f : Pair → Pair) : (d.modPair i f).out = d.out := rfl

/-! ## `Dev.modSup` -/

@[simp] theorem Dev.modSup_per (d : Dev) (i : Fin 2) (f : Pair → Pair) : (d.modSup i f).per = d.per := rfl
@[simp] theorem Dev.modSup_cmp (d : Dev) (i : Fin 2) (f : Pair → Pair) : (d.modSup i f).cmp = d.cmp := rfl
@[simp] theorem Dev.modSup_lex (d : Dev) (i : Fin 2) (f : Pair → Pair) : (d.modSup i f).lex = d.lex := rfl
@[simp] theorem Dev.modSup_rwp (d : Dev) (i : Fin 2) (f : Pair → Pair) : (d.modSup i f).rwp = d.rwp := rfl
@[simp] theorem Dev.modSup_ctx (d : Dev) (i : Fin 2) (f : Pair → Pair) : (d.modSup i f).ctx = d.ctx := rfl
@[simp] theorem Dev.modSup_zeroing (d : Dev) (i : Fin 2) (f : Pair → Pair) : (d.modSup i f).zeroing = d.zeroing := rfl
@[simp] theorem Dev.modSup_cmds (d : Dev) (i : Fin 2) (f : Pair → Pair) : (d.modSup i f).cmds = d.cmds := rfl
@[simp] theorem Dev.modSup_tensors (d : Dev) (i : Fin 2) (f : Pair → Pair) : (d.modSup i f).tensors = d.tensors := rfl
@[simp] theorem Dev.modSup_attns (d : Dev) (i : Fin 2) (f : Pair → Pair) : (d.modSup i f).attns = d.attns := rfl
@[simp] theorem Dev.modSup_tiles (d : Dev) (i : Fin 2) (f : Pair → Pair) : (d.modSup i f).tiles = d.tiles := rfl
@[simp] theorem Dev.modSup_arr (d : Dev) (i : Fin 2) (f : Pair → Pair) : (d.modSup i f).arr = d.arr := rfl
@[simp] theorem Dev.modSup_mc (d : Dev) (i : Fin 2) (f : Pair → Pair) : (d.modSup i f).mc = d.mc := rfl
@[simp] theorem Dev.modSup_inject (d : Dev) (i : Fin 2) (f : Pair → Pair) : (d.modSup i f).inject = d.inject := rfl
@[simp] theorem Dev.modSup_injectDetected (d : Dev) (i : Fin 2) (f : Pair → Pair) : (d.modSup i f).injectDetected = d.injectDetected := rfl
@[simp] theorem Dev.modSup_mem (d : Dev) (i : Fin 2) (f : Pair → Pair) : (d.modSup i f).mem = d.mem := rfl
@[simp] theorem Dev.modSup_ind (d : Dev) (i : Fin 2) (f : Pair → Pair) : (d.modSup i f).ind = d.ind := rfl
@[simp] theorem Dev.modSup_port (d : Dev) (i : Fin 2) (f : Pair → Pair) : (d.modSup i f).port = d.port := rfl
@[simp] theorem Dev.modSup_cjn (d : Dev) (i : Fin 2) (f : Pair → Pair) : (d.modSup i f).cjn = d.cjn := rfl
@[simp] theorem Dev.modSup_grp (d : Dev) (i : Fin 2) (f : Pair → Pair) : (d.modSup i f).grp = d.grp := rfl
@[simp] theorem Dev.modSup_cod (d : Dev) (i : Fin 2) (f : Pair → Pair) : (d.modSup i f).cod = d.cod := rfl
@[simp] theorem Dev.modSup_rcl (d : Dev) (i : Fin 2) (f : Pair → Pair) : (d.modSup i f).rcl = d.rcl := rfl
@[simp] theorem Dev.modSup_net (d : Dev) (i : Fin 2) (f : Pair → Pair) : (d.modSup i f).net = d.net := rfl
@[simp] theorem Dev.modSup_life (d : Dev) (i : Fin 2) (f : Pair → Pair) : (d.modSup i f).life = d.life := rfl
@[simp] theorem Dev.modSup_dump (d : Dev) (i : Fin 2) (f : Pair → Pair) : (d.modSup i f).dump = d.dump := rfl
@[simp] theorem Dev.modSup_sec (d : Dev) (i : Fin 2) (f : Pair → Pair) : (d.modSup i f).sec = d.sec := rfl
@[simp] theorem Dev.modSup_pwr (d : Dev) (i : Fin 2) (f : Pair → Pair) : (d.modSup i f).pwr = d.pwr := rfl
@[simp] theorem Dev.modSup_ring (d : Dev) (i : Fin 2) (f : Pair → Pair) : (d.modSup i f).ring = d.ring := rfl
@[simp] theorem Dev.modSup_seqs (d : Dev) (i : Fin 2) (f : Pair → Pair) : (d.modSup i f).seqs = d.seqs := rfl
@[simp] theorem Dev.modSup_nextId (d : Dev) (i : Fin 2) (f : Pair → Pair) : (d.modSup i f).nextId = d.nextId := rfl
@[simp] theorem Dev.modSup_nextUid (d : Dev) (i : Fin 2) (f : Pair → Pair) : (d.modSup i f).nextUid = d.nextUid := rfl
@[simp] theorem Dev.modSup_freeCount (d : Dev) (i : Fin 2) (f : Pair → Pair) : (d.modSup i f).freeCount = d.freeCount := rfl
@[simp] theorem Dev.modSup_takes (d : Dev) (i : Fin 2) (f : Pair → Pair) : (d.modSup i f).takes = d.takes := rfl
@[simp] theorem Dev.modSup_ctxTakes (d : Dev) (i : Fin 2) (f : Pair → Pair) : (d.modSup i f).ctxTakes = d.ctxTakes := rfl
@[simp] theorem Dev.modSup_out (d : Dev) (i : Fin 2) (f : Pair → Pair) : (d.modSup i f).out = d.out := rfl

/-! ## `Dev.modCmd` -/

@[simp] theorem Dev.modCmd_per (d : Dev) (i : Nat) (f : Cmd → Cmd) : (d.modCmd i f).per = d.per := rfl
@[simp] theorem Dev.modCmd_cmp (d : Dev) (i : Nat) (f : Cmd → Cmd) : (d.modCmd i f).cmp = d.cmp := rfl
@[simp] theorem Dev.modCmd_lex (d : Dev) (i : Nat) (f : Cmd → Cmd) : (d.modCmd i f).lex = d.lex := rfl
@[simp] theorem Dev.modCmd_rwp (d : Dev) (i : Nat) (f : Cmd → Cmd) : (d.modCmd i f).rwp = d.rwp := rfl
@[simp] theorem Dev.modCmd_ctx (d : Dev) (i : Nat) (f : Cmd → Cmd) : (d.modCmd i f).ctx = d.ctx := rfl
@[simp] theorem Dev.modCmd_zeroing (d : Dev) (i : Nat) (f : Cmd → Cmd) : (d.modCmd i f).zeroing = d.zeroing := rfl
@[simp] theorem Dev.modCmd_tensors (d : Dev) (i : Nat) (f : Cmd → Cmd) : (d.modCmd i f).tensors = d.tensors := rfl
@[simp] theorem Dev.modCmd_attns (d : Dev) (i : Nat) (f : Cmd → Cmd) : (d.modCmd i f).attns = d.attns := rfl
@[simp] theorem Dev.modCmd_tiles (d : Dev) (i : Nat) (f : Cmd → Cmd) : (d.modCmd i f).tiles = d.tiles := rfl
@[simp] theorem Dev.modCmd_arr (d : Dev) (i : Nat) (f : Cmd → Cmd) : (d.modCmd i f).arr = d.arr := rfl
@[simp] theorem Dev.modCmd_mc (d : Dev) (i : Nat) (f : Cmd → Cmd) : (d.modCmd i f).mc = d.mc := rfl
@[simp] theorem Dev.modCmd_inject (d : Dev) (i : Nat) (f : Cmd → Cmd) : (d.modCmd i f).inject = d.inject := rfl
@[simp] theorem Dev.modCmd_injectDetected (d : Dev) (i : Nat) (f : Cmd → Cmd) : (d.modCmd i f).injectDetected = d.injectDetected := rfl
@[simp] theorem Dev.modCmd_mem (d : Dev) (i : Nat) (f : Cmd → Cmd) : (d.modCmd i f).mem = d.mem := rfl
@[simp] theorem Dev.modCmd_ind (d : Dev) (i : Nat) (f : Cmd → Cmd) : (d.modCmd i f).ind = d.ind := rfl
@[simp] theorem Dev.modCmd_flt (d : Dev) (i : Nat) (f : Cmd → Cmd) : (d.modCmd i f).flt = d.flt := rfl
@[simp] theorem Dev.modCmd_port (d : Dev) (i : Nat) (f : Cmd → Cmd) : (d.modCmd i f).port = d.port := rfl
@[simp] theorem Dev.modCmd_cjn (d : Dev) (i : Nat) (f : Cmd → Cmd) : (d.modCmd i f).cjn = d.cjn := rfl
@[simp] theorem Dev.modCmd_grp (d : Dev) (i : Nat) (f : Cmd → Cmd) : (d.modCmd i f).grp = d.grp := rfl
@[simp] theorem Dev.modCmd_cod (d : Dev) (i : Nat) (f : Cmd → Cmd) : (d.modCmd i f).cod = d.cod := rfl
@[simp] theorem Dev.modCmd_rcl (d : Dev) (i : Nat) (f : Cmd → Cmd) : (d.modCmd i f).rcl = d.rcl := rfl
@[simp] theorem Dev.modCmd_net (d : Dev) (i : Nat) (f : Cmd → Cmd) : (d.modCmd i f).net = d.net := rfl
@[simp] theorem Dev.modCmd_life (d : Dev) (i : Nat) (f : Cmd → Cmd) : (d.modCmd i f).life = d.life := rfl
@[simp] theorem Dev.modCmd_dump (d : Dev) (i : Nat) (f : Cmd → Cmd) : (d.modCmd i f).dump = d.dump := rfl
@[simp] theorem Dev.modCmd_sec (d : Dev) (i : Nat) (f : Cmd → Cmd) : (d.modCmd i f).sec = d.sec := rfl
@[simp] theorem Dev.modCmd_pwr (d : Dev) (i : Nat) (f : Cmd → Cmd) : (d.modCmd i f).pwr = d.pwr := rfl
@[simp] theorem Dev.modCmd_ring (d : Dev) (i : Nat) (f : Cmd → Cmd) : (d.modCmd i f).ring = d.ring := rfl
@[simp] theorem Dev.modCmd_seqs (d : Dev) (i : Nat) (f : Cmd → Cmd) : (d.modCmd i f).seqs = d.seqs := rfl
@[simp] theorem Dev.modCmd_nextId (d : Dev) (i : Nat) (f : Cmd → Cmd) : (d.modCmd i f).nextId = d.nextId := rfl
@[simp] theorem Dev.modCmd_nextUid (d : Dev) (i : Nat) (f : Cmd → Cmd) : (d.modCmd i f).nextUid = d.nextUid := rfl
@[simp] theorem Dev.modCmd_freeCount (d : Dev) (i : Nat) (f : Cmd → Cmd) : (d.modCmd i f).freeCount = d.freeCount := rfl
@[simp] theorem Dev.modCmd_takes (d : Dev) (i : Nat) (f : Cmd → Cmd) : (d.modCmd i f).takes = d.takes := rfl
@[simp] theorem Dev.modCmd_ctxTakes (d : Dev) (i : Nat) (f : Cmd → Cmd) : (d.modCmd i f).ctxTakes = d.ctxTakes := rfl
@[simp] theorem Dev.modCmd_out (d : Dev) (i : Nat) (f : Cmd → Cmd) : (d.modCmd i f).out = d.out := rfl

/-! ## `Dev.modTile` -/

@[simp] theorem Dev.modTile_per (d : Dev) (i : Nat) (f : Tile → Tile) : (d.modTile i f).per = d.per := rfl
@[simp] theorem Dev.modTile_cmp (d : Dev) (i : Nat) (f : Tile → Tile) : (d.modTile i f).cmp = d.cmp := rfl
@[simp] theorem Dev.modTile_lex (d : Dev) (i : Nat) (f : Tile → Tile) : (d.modTile i f).lex = d.lex := rfl
@[simp] theorem Dev.modTile_rwp (d : Dev) (i : Nat) (f : Tile → Tile) : (d.modTile i f).rwp = d.rwp := rfl
@[simp] theorem Dev.modTile_ctx (d : Dev) (i : Nat) (f : Tile → Tile) : (d.modTile i f).ctx = d.ctx := rfl
@[simp] theorem Dev.modTile_zeroing (d : Dev) (i : Nat) (f : Tile → Tile) : (d.modTile i f).zeroing = d.zeroing := rfl
@[simp] theorem Dev.modTile_cmds (d : Dev) (i : Nat) (f : Tile → Tile) : (d.modTile i f).cmds = d.cmds := rfl
@[simp] theorem Dev.modTile_tensors (d : Dev) (i : Nat) (f : Tile → Tile) : (d.modTile i f).tensors = d.tensors := rfl
@[simp] theorem Dev.modTile_attns (d : Dev) (i : Nat) (f : Tile → Tile) : (d.modTile i f).attns = d.attns := rfl
@[simp] theorem Dev.modTile_arr (d : Dev) (i : Nat) (f : Tile → Tile) : (d.modTile i f).arr = d.arr := rfl
@[simp] theorem Dev.modTile_mc (d : Dev) (i : Nat) (f : Tile → Tile) : (d.modTile i f).mc = d.mc := rfl
@[simp] theorem Dev.modTile_inject (d : Dev) (i : Nat) (f : Tile → Tile) : (d.modTile i f).inject = d.inject := rfl
@[simp] theorem Dev.modTile_injectDetected (d : Dev) (i : Nat) (f : Tile → Tile) : (d.modTile i f).injectDetected = d.injectDetected := rfl
@[simp] theorem Dev.modTile_mem (d : Dev) (i : Nat) (f : Tile → Tile) : (d.modTile i f).mem = d.mem := rfl
@[simp] theorem Dev.modTile_ind (d : Dev) (i : Nat) (f : Tile → Tile) : (d.modTile i f).ind = d.ind := rfl
@[simp] theorem Dev.modTile_flt (d : Dev) (i : Nat) (f : Tile → Tile) : (d.modTile i f).flt = d.flt := rfl
@[simp] theorem Dev.modTile_port (d : Dev) (i : Nat) (f : Tile → Tile) : (d.modTile i f).port = d.port := rfl
@[simp] theorem Dev.modTile_cjn (d : Dev) (i : Nat) (f : Tile → Tile) : (d.modTile i f).cjn = d.cjn := rfl
@[simp] theorem Dev.modTile_grp (d : Dev) (i : Nat) (f : Tile → Tile) : (d.modTile i f).grp = d.grp := rfl
@[simp] theorem Dev.modTile_cod (d : Dev) (i : Nat) (f : Tile → Tile) : (d.modTile i f).cod = d.cod := rfl
@[simp] theorem Dev.modTile_rcl (d : Dev) (i : Nat) (f : Tile → Tile) : (d.modTile i f).rcl = d.rcl := rfl
@[simp] theorem Dev.modTile_net (d : Dev) (i : Nat) (f : Tile → Tile) : (d.modTile i f).net = d.net := rfl
@[simp] theorem Dev.modTile_life (d : Dev) (i : Nat) (f : Tile → Tile) : (d.modTile i f).life = d.life := rfl
@[simp] theorem Dev.modTile_dump (d : Dev) (i : Nat) (f : Tile → Tile) : (d.modTile i f).dump = d.dump := rfl
@[simp] theorem Dev.modTile_sec (d : Dev) (i : Nat) (f : Tile → Tile) : (d.modTile i f).sec = d.sec := rfl
@[simp] theorem Dev.modTile_pwr (d : Dev) (i : Nat) (f : Tile → Tile) : (d.modTile i f).pwr = d.pwr := rfl
@[simp] theorem Dev.modTile_ring (d : Dev) (i : Nat) (f : Tile → Tile) : (d.modTile i f).ring = d.ring := rfl
@[simp] theorem Dev.modTile_seqs (d : Dev) (i : Nat) (f : Tile → Tile) : (d.modTile i f).seqs = d.seqs := rfl
@[simp] theorem Dev.modTile_nextId (d : Dev) (i : Nat) (f : Tile → Tile) : (d.modTile i f).nextId = d.nextId := rfl
@[simp] theorem Dev.modTile_nextUid (d : Dev) (i : Nat) (f : Tile → Tile) : (d.modTile i f).nextUid = d.nextUid := rfl
@[simp] theorem Dev.modTile_freeCount (d : Dev) (i : Nat) (f : Tile → Tile) : (d.modTile i f).freeCount = d.freeCount := rfl
@[simp] theorem Dev.modTile_takes (d : Dev) (i : Nat) (f : Tile → Tile) : (d.modTile i f).takes = d.takes := rfl
@[simp] theorem Dev.modTile_ctxTakes (d : Dev) (i : Nat) (f : Tile → Tile) : (d.modTile i f).ctxTakes = d.ctxTakes := rfl
@[simp] theorem Dev.modTile_out (d : Dev) (i : Nat) (f : Tile → Tile) : (d.modTile i f).out = d.out := rfl

/-! ## `Dev.modTensor` -/

@[simp] theorem Dev.modTensor_per (d : Dev) (i : Nat) (f : Tensor → Tensor) : (d.modTensor i f).per = d.per := rfl
@[simp] theorem Dev.modTensor_cmp (d : Dev) (i : Nat) (f : Tensor → Tensor) : (d.modTensor i f).cmp = d.cmp := rfl
@[simp] theorem Dev.modTensor_lex (d : Dev) (i : Nat) (f : Tensor → Tensor) : (d.modTensor i f).lex = d.lex := rfl
@[simp] theorem Dev.modTensor_rwp (d : Dev) (i : Nat) (f : Tensor → Tensor) : (d.modTensor i f).rwp = d.rwp := rfl
@[simp] theorem Dev.modTensor_ctx (d : Dev) (i : Nat) (f : Tensor → Tensor) : (d.modTensor i f).ctx = d.ctx := rfl
@[simp] theorem Dev.modTensor_zeroing (d : Dev) (i : Nat) (f : Tensor → Tensor) : (d.modTensor i f).zeroing = d.zeroing := rfl
@[simp] theorem Dev.modTensor_cmds (d : Dev) (i : Nat) (f : Tensor → Tensor) : (d.modTensor i f).cmds = d.cmds := rfl
@[simp] theorem Dev.modTensor_attns (d : Dev) (i : Nat) (f : Tensor → Tensor) : (d.modTensor i f).attns = d.attns := rfl
@[simp] theorem Dev.modTensor_tiles (d : Dev) (i : Nat) (f : Tensor → Tensor) : (d.modTensor i f).tiles = d.tiles := rfl
@[simp] theorem Dev.modTensor_arr (d : Dev) (i : Nat) (f : Tensor → Tensor) : (d.modTensor i f).arr = d.arr := rfl
@[simp] theorem Dev.modTensor_mc (d : Dev) (i : Nat) (f : Tensor → Tensor) : (d.modTensor i f).mc = d.mc := rfl
@[simp] theorem Dev.modTensor_inject (d : Dev) (i : Nat) (f : Tensor → Tensor) : (d.modTensor i f).inject = d.inject := rfl
@[simp] theorem Dev.modTensor_injectDetected (d : Dev) (i : Nat) (f : Tensor → Tensor) : (d.modTensor i f).injectDetected = d.injectDetected := rfl
@[simp] theorem Dev.modTensor_mem (d : Dev) (i : Nat) (f : Tensor → Tensor) : (d.modTensor i f).mem = d.mem := rfl
@[simp] theorem Dev.modTensor_ind (d : Dev) (i : Nat) (f : Tensor → Tensor) : (d.modTensor i f).ind = d.ind := rfl
@[simp] theorem Dev.modTensor_flt (d : Dev) (i : Nat) (f : Tensor → Tensor) : (d.modTensor i f).flt = d.flt := rfl
@[simp] theorem Dev.modTensor_port (d : Dev) (i : Nat) (f : Tensor → Tensor) : (d.modTensor i f).port = d.port := rfl
@[simp] theorem Dev.modTensor_cjn (d : Dev) (i : Nat) (f : Tensor → Tensor) : (d.modTensor i f).cjn = d.cjn := rfl
@[simp] theorem Dev.modTensor_grp (d : Dev) (i : Nat) (f : Tensor → Tensor) : (d.modTensor i f).grp = d.grp := rfl
@[simp] theorem Dev.modTensor_cod (d : Dev) (i : Nat) (f : Tensor → Tensor) : (d.modTensor i f).cod = d.cod := rfl
@[simp] theorem Dev.modTensor_rcl (d : Dev) (i : Nat) (f : Tensor → Tensor) : (d.modTensor i f).rcl = d.rcl := rfl
@[simp] theorem Dev.modTensor_net (d : Dev) (i : Nat) (f : Tensor → Tensor) : (d.modTensor i f).net = d.net := rfl
@[simp] theorem Dev.modTensor_life (d : Dev) (i : Nat) (f : Tensor → Tensor) : (d.modTensor i f).life = d.life := rfl
@[simp] theorem Dev.modTensor_dump (d : Dev) (i : Nat) (f : Tensor → Tensor) : (d.modTensor i f).dump = d.dump := rfl
@[simp] theorem Dev.modTensor_sec (d : Dev) (i : Nat) (f : Tensor → Tensor) : (d.modTensor i f).sec = d.sec := rfl
@[simp] theorem Dev.modTensor_pwr (d : Dev) (i : Nat) (f : Tensor → Tensor) : (d.modTensor i f).pwr = d.pwr := rfl
@[simp] theorem Dev.modTensor_ring (d : Dev) (i : Nat) (f : Tensor → Tensor) : (d.modTensor i f).ring = d.ring := rfl
@[simp] theorem Dev.modTensor_seqs (d : Dev) (i : Nat) (f : Tensor → Tensor) : (d.modTensor i f).seqs = d.seqs := rfl
@[simp] theorem Dev.modTensor_nextId (d : Dev) (i : Nat) (f : Tensor → Tensor) : (d.modTensor i f).nextId = d.nextId := rfl
@[simp] theorem Dev.modTensor_nextUid (d : Dev) (i : Nat) (f : Tensor → Tensor) : (d.modTensor i f).nextUid = d.nextUid := rfl
@[simp] theorem Dev.modTensor_freeCount (d : Dev) (i : Nat) (f : Tensor → Tensor) : (d.modTensor i f).freeCount = d.freeCount := rfl
@[simp] theorem Dev.modTensor_takes (d : Dev) (i : Nat) (f : Tensor → Tensor) : (d.modTensor i f).takes = d.takes := rfl
@[simp] theorem Dev.modTensor_ctxTakes (d : Dev) (i : Nat) (f : Tensor → Tensor) : (d.modTensor i f).ctxTakes = d.ctxTakes := rfl
@[simp] theorem Dev.modTensor_out (d : Dev) (i : Nat) (f : Tensor → Tensor) : (d.modTensor i f).out = d.out := rfl

/-! ## `Dev.modAttn` -/

@[simp] theorem Dev.modAttn_per (d : Dev) (i : Nat) (f : Attn → Attn) : (d.modAttn i f).per = d.per := rfl
@[simp] theorem Dev.modAttn_cmp (d : Dev) (i : Nat) (f : Attn → Attn) : (d.modAttn i f).cmp = d.cmp := rfl
@[simp] theorem Dev.modAttn_lex (d : Dev) (i : Nat) (f : Attn → Attn) : (d.modAttn i f).lex = d.lex := rfl
@[simp] theorem Dev.modAttn_rwp (d : Dev) (i : Nat) (f : Attn → Attn) : (d.modAttn i f).rwp = d.rwp := rfl
@[simp] theorem Dev.modAttn_ctx (d : Dev) (i : Nat) (f : Attn → Attn) : (d.modAttn i f).ctx = d.ctx := rfl
@[simp] theorem Dev.modAttn_zeroing (d : Dev) (i : Nat) (f : Attn → Attn) : (d.modAttn i f).zeroing = d.zeroing := rfl
@[simp] theorem Dev.modAttn_cmds (d : Dev) (i : Nat) (f : Attn → Attn) : (d.modAttn i f).cmds = d.cmds := rfl
@[simp] theorem Dev.modAttn_tensors (d : Dev) (i : Nat) (f : Attn → Attn) : (d.modAttn i f).tensors = d.tensors := rfl
@[simp] theorem Dev.modAttn_tiles (d : Dev) (i : Nat) (f : Attn → Attn) : (d.modAttn i f).tiles = d.tiles := rfl
@[simp] theorem Dev.modAttn_arr (d : Dev) (i : Nat) (f : Attn → Attn) : (d.modAttn i f).arr = d.arr := rfl
@[simp] theorem Dev.modAttn_mc (d : Dev) (i : Nat) (f : Attn → Attn) : (d.modAttn i f).mc = d.mc := rfl
@[simp] theorem Dev.modAttn_inject (d : Dev) (i : Nat) (f : Attn → Attn) : (d.modAttn i f).inject = d.inject := rfl
@[simp] theorem Dev.modAttn_injectDetected (d : Dev) (i : Nat) (f : Attn → Attn) : (d.modAttn i f).injectDetected = d.injectDetected := rfl
@[simp] theorem Dev.modAttn_mem (d : Dev) (i : Nat) (f : Attn → Attn) : (d.modAttn i f).mem = d.mem := rfl
@[simp] theorem Dev.modAttn_ind (d : Dev) (i : Nat) (f : Attn → Attn) : (d.modAttn i f).ind = d.ind := rfl
@[simp] theorem Dev.modAttn_flt (d : Dev) (i : Nat) (f : Attn → Attn) : (d.modAttn i f).flt = d.flt := rfl
@[simp] theorem Dev.modAttn_port (d : Dev) (i : Nat) (f : Attn → Attn) : (d.modAttn i f).port = d.port := rfl
@[simp] theorem Dev.modAttn_cjn (d : Dev) (i : Nat) (f : Attn → Attn) : (d.modAttn i f).cjn = d.cjn := rfl
@[simp] theorem Dev.modAttn_grp (d : Dev) (i : Nat) (f : Attn → Attn) : (d.modAttn i f).grp = d.grp := rfl
@[simp] theorem Dev.modAttn_cod (d : Dev) (i : Nat) (f : Attn → Attn) : (d.modAttn i f).cod = d.cod := rfl
@[simp] theorem Dev.modAttn_rcl (d : Dev) (i : Nat) (f : Attn → Attn) : (d.modAttn i f).rcl = d.rcl := rfl
@[simp] theorem Dev.modAttn_net (d : Dev) (i : Nat) (f : Attn → Attn) : (d.modAttn i f).net = d.net := rfl
@[simp] theorem Dev.modAttn_life (d : Dev) (i : Nat) (f : Attn → Attn) : (d.modAttn i f).life = d.life := rfl
@[simp] theorem Dev.modAttn_dump (d : Dev) (i : Nat) (f : Attn → Attn) : (d.modAttn i f).dump = d.dump := rfl
@[simp] theorem Dev.modAttn_sec (d : Dev) (i : Nat) (f : Attn → Attn) : (d.modAttn i f).sec = d.sec := rfl
@[simp] theorem Dev.modAttn_pwr (d : Dev) (i : Nat) (f : Attn → Attn) : (d.modAttn i f).pwr = d.pwr := rfl
@[simp] theorem Dev.modAttn_ring (d : Dev) (i : Nat) (f : Attn → Attn) : (d.modAttn i f).ring = d.ring := rfl
@[simp] theorem Dev.modAttn_seqs (d : Dev) (i : Nat) (f : Attn → Attn) : (d.modAttn i f).seqs = d.seqs := rfl
@[simp] theorem Dev.modAttn_nextId (d : Dev) (i : Nat) (f : Attn → Attn) : (d.modAttn i f).nextId = d.nextId := rfl
@[simp] theorem Dev.modAttn_nextUid (d : Dev) (i : Nat) (f : Attn → Attn) : (d.modAttn i f).nextUid = d.nextUid := rfl
@[simp] theorem Dev.modAttn_freeCount (d : Dev) (i : Nat) (f : Attn → Attn) : (d.modAttn i f).freeCount = d.freeCount := rfl
@[simp] theorem Dev.modAttn_takes (d : Dev) (i : Nat) (f : Attn → Attn) : (d.modAttn i f).takes = d.takes := rfl
@[simp] theorem Dev.modAttn_ctxTakes (d : Dev) (i : Nat) (f : Attn → Attn) : (d.modAttn i f).ctxTakes = d.ctxTakes := rfl
@[simp] theorem Dev.modAttn_out (d : Dev) (i : Nat) (f : Attn → Attn) : (d.modAttn i f).out = d.out := rfl

/-! ## `Dev.modColl` -/

@[simp] theorem Dev.modColl_per (d : Dev) (i : Nat) (f : Coll → Coll) : (d.modColl i f).per = d.per := rfl
@[simp] theorem Dev.modColl_cmp (d : Dev) (i : Nat) (f : Coll → Coll) : (d.modColl i f).cmp = d.cmp := rfl
@[simp] theorem Dev.modColl_lex (d : Dev) (i : Nat) (f : Coll → Coll) : (d.modColl i f).lex = d.lex := rfl
@[simp] theorem Dev.modColl_rwp (d : Dev) (i : Nat) (f : Coll → Coll) : (d.modColl i f).rwp = d.rwp := rfl
@[simp] theorem Dev.modColl_ctx (d : Dev) (i : Nat) (f : Coll → Coll) : (d.modColl i f).ctx = d.ctx := rfl
@[simp] theorem Dev.modColl_zeroing (d : Dev) (i : Nat) (f : Coll → Coll) : (d.modColl i f).zeroing = d.zeroing := rfl
@[simp] theorem Dev.modColl_cmds (d : Dev) (i : Nat) (f : Coll → Coll) : (d.modColl i f).cmds = d.cmds := rfl
@[simp] theorem Dev.modColl_tensors (d : Dev) (i : Nat) (f : Coll → Coll) : (d.modColl i f).tensors = d.tensors := rfl
@[simp] theorem Dev.modColl_attns (d : Dev) (i : Nat) (f : Coll → Coll) : (d.modColl i f).attns = d.attns := rfl
@[simp] theorem Dev.modColl_tiles (d : Dev) (i : Nat) (f : Coll → Coll) : (d.modColl i f).tiles = d.tiles := rfl
@[simp] theorem Dev.modColl_arr (d : Dev) (i : Nat) (f : Coll → Coll) : (d.modColl i f).arr = d.arr := rfl
@[simp] theorem Dev.modColl_mc (d : Dev) (i : Nat) (f : Coll → Coll) : (d.modColl i f).mc = d.mc := rfl
@[simp] theorem Dev.modColl_inject (d : Dev) (i : Nat) (f : Coll → Coll) : (d.modColl i f).inject = d.inject := rfl
@[simp] theorem Dev.modColl_injectDetected (d : Dev) (i : Nat) (f : Coll → Coll) : (d.modColl i f).injectDetected = d.injectDetected := rfl
@[simp] theorem Dev.modColl_mem (d : Dev) (i : Nat) (f : Coll → Coll) : (d.modColl i f).mem = d.mem := rfl
@[simp] theorem Dev.modColl_ind (d : Dev) (i : Nat) (f : Coll → Coll) : (d.modColl i f).ind = d.ind := rfl
@[simp] theorem Dev.modColl_flt (d : Dev) (i : Nat) (f : Coll → Coll) : (d.modColl i f).flt = d.flt := rfl
@[simp] theorem Dev.modColl_port (d : Dev) (i : Nat) (f : Coll → Coll) : (d.modColl i f).port = d.port := rfl
@[simp] theorem Dev.modColl_grp (d : Dev) (i : Nat) (f : Coll → Coll) : (d.modColl i f).grp = d.grp := rfl
@[simp] theorem Dev.modColl_cod (d : Dev) (i : Nat) (f : Coll → Coll) : (d.modColl i f).cod = d.cod := rfl
@[simp] theorem Dev.modColl_rcl (d : Dev) (i : Nat) (f : Coll → Coll) : (d.modColl i f).rcl = d.rcl := rfl
@[simp] theorem Dev.modColl_net (d : Dev) (i : Nat) (f : Coll → Coll) : (d.modColl i f).net = d.net := rfl
@[simp] theorem Dev.modColl_life (d : Dev) (i : Nat) (f : Coll → Coll) : (d.modColl i f).life = d.life := rfl
@[simp] theorem Dev.modColl_dump (d : Dev) (i : Nat) (f : Coll → Coll) : (d.modColl i f).dump = d.dump := rfl
@[simp] theorem Dev.modColl_sec (d : Dev) (i : Nat) (f : Coll → Coll) : (d.modColl i f).sec = d.sec := rfl
@[simp] theorem Dev.modColl_pwr (d : Dev) (i : Nat) (f : Coll → Coll) : (d.modColl i f).pwr = d.pwr := rfl
@[simp] theorem Dev.modColl_ring (d : Dev) (i : Nat) (f : Coll → Coll) : (d.modColl i f).ring = d.ring := rfl
@[simp] theorem Dev.modColl_seqs (d : Dev) (i : Nat) (f : Coll → Coll) : (d.modColl i f).seqs = d.seqs := rfl
@[simp] theorem Dev.modColl_nextId (d : Dev) (i : Nat) (f : Coll → Coll) : (d.modColl i f).nextId = d.nextId := rfl
@[simp] theorem Dev.modColl_nextUid (d : Dev) (i : Nat) (f : Coll → Coll) : (d.modColl i f).nextUid = d.nextUid := rfl
@[simp] theorem Dev.modColl_freeCount (d : Dev) (i : Nat) (f : Coll → Coll) : (d.modColl i f).freeCount = d.freeCount := rfl
@[simp] theorem Dev.modColl_takes (d : Dev) (i : Nat) (f : Coll → Coll) : (d.modColl i f).takes = d.takes := rfl
@[simp] theorem Dev.modColl_ctxTakes (d : Dev) (i : Nat) (f : Coll → Coll) : (d.modColl i f).ctxTakes = d.ctxTakes := rfl
@[simp] theorem Dev.modColl_out (d : Dev) (i : Nat) (f : Coll → Coll) : (d.modColl i f).out = d.out := rfl

/-! ## `Dev.emit` -/

@[simp] theorem Dev.emit_per (d : Dev) (o : Output) : (d.emit o).per = d.per := rfl
@[simp] theorem Dev.emit_cmp (d : Dev) (o : Output) : (d.emit o).cmp = d.cmp := rfl
@[simp] theorem Dev.emit_lex (d : Dev) (o : Output) : (d.emit o).lex = d.lex := rfl
@[simp] theorem Dev.emit_rwp (d : Dev) (o : Output) : (d.emit o).rwp = d.rwp := rfl
@[simp] theorem Dev.emit_ctx (d : Dev) (o : Output) : (d.emit o).ctx = d.ctx := rfl
@[simp] theorem Dev.emit_zeroing (d : Dev) (o : Output) : (d.emit o).zeroing = d.zeroing := rfl
@[simp] theorem Dev.emit_cmds (d : Dev) (o : Output) : (d.emit o).cmds = d.cmds := rfl
@[simp] theorem Dev.emit_tensors (d : Dev) (o : Output) : (d.emit o).tensors = d.tensors := rfl
@[simp] theorem Dev.emit_attns (d : Dev) (o : Output) : (d.emit o).attns = d.attns := rfl
@[simp] theorem Dev.emit_tiles (d : Dev) (o : Output) : (d.emit o).tiles = d.tiles := rfl
@[simp] theorem Dev.emit_arr (d : Dev) (o : Output) : (d.emit o).arr = d.arr := rfl
@[simp] theorem Dev.emit_mc (d : Dev) (o : Output) : (d.emit o).mc = d.mc := rfl
@[simp] theorem Dev.emit_inject (d : Dev) (o : Output) : (d.emit o).inject = d.inject := rfl
@[simp] theorem Dev.emit_injectDetected (d : Dev) (o : Output) : (d.emit o).injectDetected = d.injectDetected := rfl
@[simp] theorem Dev.emit_mem (d : Dev) (o : Output) : (d.emit o).mem = d.mem := rfl
@[simp] theorem Dev.emit_ind (d : Dev) (o : Output) : (d.emit o).ind = d.ind := rfl
@[simp] theorem Dev.emit_flt (d : Dev) (o : Output) : (d.emit o).flt = d.flt := rfl
@[simp] theorem Dev.emit_port (d : Dev) (o : Output) : (d.emit o).port = d.port := rfl
@[simp] theorem Dev.emit_cjn (d : Dev) (o : Output) : (d.emit o).cjn = d.cjn := rfl
@[simp] theorem Dev.emit_grp (d : Dev) (o : Output) : (d.emit o).grp = d.grp := rfl
@[simp] theorem Dev.emit_cod (d : Dev) (o : Output) : (d.emit o).cod = d.cod := rfl
@[simp] theorem Dev.emit_rcl (d : Dev) (o : Output) : (d.emit o).rcl = d.rcl := rfl
@[simp] theorem Dev.emit_net (d : Dev) (o : Output) : (d.emit o).net = d.net := rfl
@[simp] theorem Dev.emit_life (d : Dev) (o : Output) : (d.emit o).life = d.life := rfl
@[simp] theorem Dev.emit_dump (d : Dev) (o : Output) : (d.emit o).dump = d.dump := rfl
@[simp] theorem Dev.emit_sec (d : Dev) (o : Output) : (d.emit o).sec = d.sec := rfl
@[simp] theorem Dev.emit_pwr (d : Dev) (o : Output) : (d.emit o).pwr = d.pwr := rfl
@[simp] theorem Dev.emit_ring (d : Dev) (o : Output) : (d.emit o).ring = d.ring := rfl
@[simp] theorem Dev.emit_seqs (d : Dev) (o : Output) : (d.emit o).seqs = d.seqs := rfl
@[simp] theorem Dev.emit_nextId (d : Dev) (o : Output) : (d.emit o).nextId = d.nextId := rfl
@[simp] theorem Dev.emit_nextUid (d : Dev) (o : Output) : (d.emit o).nextUid = d.nextUid := rfl
@[simp] theorem Dev.emit_freeCount (d : Dev) (o : Output) : (d.emit o).freeCount = d.freeCount := rfl
@[simp] theorem Dev.emit_takes (d : Dev) (o : Output) : (d.emit o).takes = d.takes := rfl
@[simp] theorem Dev.emit_ctxTakes (d : Dev) (o : Output) : (d.emit o).ctxTakes = d.ctxTakes := rfl

/-! ## `Dev.count` -/

@[simp] theorem Dev.count_per (d : Dev) (i n : Nat) : (d.count i n).per = d.per := rfl
@[simp] theorem Dev.count_cmp (d : Dev) (i n : Nat) : (d.count i n).cmp = d.cmp := rfl
@[simp] theorem Dev.count_lex (d : Dev) (i n : Nat) : (d.count i n).lex = d.lex := rfl
@[simp] theorem Dev.count_rwp (d : Dev) (i n : Nat) : (d.count i n).rwp = d.rwp := rfl
@[simp] theorem Dev.count_ctx (d : Dev) (i n : Nat) : (d.count i n).ctx = d.ctx := rfl
@[simp] theorem Dev.count_zeroing (d : Dev) (i n : Nat) : (d.count i n).zeroing = d.zeroing := rfl
@[simp] theorem Dev.count_cmds (d : Dev) (i n : Nat) : (d.count i n).cmds = d.cmds := rfl
@[simp] theorem Dev.count_tensors (d : Dev) (i n : Nat) : (d.count i n).tensors = d.tensors := rfl
@[simp] theorem Dev.count_attns (d : Dev) (i n : Nat) : (d.count i n).attns = d.attns := rfl
@[simp] theorem Dev.count_tiles (d : Dev) (i n : Nat) : (d.count i n).tiles = d.tiles := rfl
@[simp] theorem Dev.count_arr (d : Dev) (i n : Nat) : (d.count i n).arr = d.arr := rfl
@[simp] theorem Dev.count_mc (d : Dev) (i n : Nat) : (d.count i n).mc = d.mc := rfl
@[simp] theorem Dev.count_inject (d : Dev) (i n : Nat) : (d.count i n).inject = d.inject := rfl
@[simp] theorem Dev.count_injectDetected (d : Dev) (i n : Nat) : (d.count i n).injectDetected = d.injectDetected := rfl
@[simp] theorem Dev.count_mem (d : Dev) (i n : Nat) : (d.count i n).mem = d.mem := rfl
@[simp] theorem Dev.count_ind (d : Dev) (i n : Nat) : (d.count i n).ind = d.ind := rfl
@[simp] theorem Dev.count_flt (d : Dev) (i n : Nat) : (d.count i n).flt = d.flt := rfl
@[simp] theorem Dev.count_port (d : Dev) (i n : Nat) : (d.count i n).port = d.port := rfl
@[simp] theorem Dev.count_cjn (d : Dev) (i n : Nat) : (d.count i n).cjn = d.cjn := rfl
@[simp] theorem Dev.count_grp (d : Dev) (i n : Nat) : (d.count i n).grp = d.grp := rfl
@[simp] theorem Dev.count_cod (d : Dev) (i n : Nat) : (d.count i n).cod = d.cod := rfl
@[simp] theorem Dev.count_rcl (d : Dev) (i n : Nat) : (d.count i n).rcl = d.rcl := rfl
@[simp] theorem Dev.count_net (d : Dev) (i n : Nat) : (d.count i n).net = d.net := rfl
@[simp] theorem Dev.count_dump (d : Dev) (i n : Nat) : (d.count i n).dump = d.dump := rfl
@[simp] theorem Dev.count_sec (d : Dev) (i n : Nat) : (d.count i n).sec = d.sec := rfl
@[simp] theorem Dev.count_pwr (d : Dev) (i n : Nat) : (d.count i n).pwr = d.pwr := rfl
@[simp] theorem Dev.count_ring (d : Dev) (i n : Nat) : (d.count i n).ring = d.ring := rfl
@[simp] theorem Dev.count_seqs (d : Dev) (i n : Nat) : (d.count i n).seqs = d.seqs := rfl
@[simp] theorem Dev.count_nextId (d : Dev) (i n : Nat) : (d.count i n).nextId = d.nextId := rfl
@[simp] theorem Dev.count_nextUid (d : Dev) (i n : Nat) : (d.count i n).nextUid = d.nextUid := rfl
@[simp] theorem Dev.count_freeCount (d : Dev) (i n : Nat) : (d.count i n).freeCount = d.freeCount := rfl
@[simp] theorem Dev.count_takes (d : Dev) (i n : Nat) : (d.count i n).takes = d.takes := rfl
@[simp] theorem Dev.count_ctxTakes (d : Dev) (i n : Nat) : (d.count i n).ctxTakes = d.ctxTakes := rfl
@[simp] theorem Dev.count_out (d : Dev) (i n : Nat) : (d.count i n).out = d.out := rfl

/-! ## What an update makes of its own field -/

theorem vec_set_same {α : Type} {n : Nat} (v : Vector α n) (i : Fin n) (x : α) : (v.set i x)[i] = x := by
  simp

theorem vec_set_other {α : Type} {n : Nat} (v : Vector α n) {i j : Fin n} (x : α) (h : i ≠ j) : (v.set i x)[j] = v[j] := by
  have : i.val ≠ j.val := fun e => h (Fin.ext e)
  simp [this]

theorem Dev.modCtx_same (d : Dev) (c : CtxId) (f : Ctx → Ctx) : (d.modCtx c f).ctx[c] = f d.ctx[c] := vec_set_same ..
theorem Dev.modCtx_other (d : Dev) {c c' : CtxId} (f : Ctx → Ctx) (h : c ≠ c') : (d.modCtx c f).ctx[c'] = d.ctx[c'] :=
  vec_set_other _ _ h
theorem Dev.modCp_same (d : Dev) (c : CtxId) (f : Cp → Cp) :
    (d.modCp c f).ctx[c] = { d.ctx[c] with cp := f d.ctx[c].cp } := Dev.modCtx_same ..
theorem Dev.modCp_other (d : Dev) {c c' : CtxId} (f : Cp → Cp) (h : c ≠ c') : (d.modCp c f).ctx[c'] = d.ctx[c'] :=
  Dev.modCtx_other d _ h
theorem Dev.modCp_congr (d : Dev) (c : CtxId) {f g : Cp → Cp} (h : f d.ctx[c].cp = g d.ctx[c].cp) :
    d.modCp c f = d.modCp c g := by
  have e : ({ d.ctx[c] with cp := f d.ctx[c].cp } : Ctx) = { d.ctx[c] with cp := g d.ctx[c].cp } := by rw [h]
  exact congrArg (fun x : Ctx => ({ d with ctx := d.ctx.set c x } : Dev)) e
theorem Dev.modQ_same (d : Dev) (c : CtxId) (q : QId) (f : Queue → Queue) :
    (d.modQ c q f).ctx[c] = { d.ctx[c] with queue := d.ctx[c].queue.set q (f d.ctx[c].queue[q]) } := Dev.modCtx_same ..
theorem Dev.modQ_other (d : Dev) {c c' : CtxId} (q : QId) (f : Queue → Queue) (h : c ≠ c') :
    (d.modQ c q f).ctx[c'] = d.ctx[c'] := Dev.modCtx_other d _ h
/-- A change of one context that leaves a part of it leaves that part of every context. -/
theorem Dev.modCtx_part {α : Type} (d : Dev) (c c' : CtxId) (f : Ctx → Ctx) (g : Ctx → α) (h : ∀ x, g (f x) = g x) :
    g (d.modCtx c f).ctx[c'] = g d.ctx[c'] := by
  by_cases e : c = c'
  · subst e; rw [Dev.modCtx_same, h]
  · rw [Dev.modCtx_other d f e]
/-- A change of a queue leaves the processor of every context. -/
theorem Dev.modQ_cp (d : Dev) (c c' : CtxId) (q : QId) (f : Queue → Queue) : (d.modQ c q f).ctx[c'].cp = d.ctx[c'].cp :=
  Dev.modCtx_part d c c' _ Ctx.cp fun _ => rfl
theorem Dev.modArr_same (d : Dev) (a : ArrId) (f : Arr → Arr) : (d.modArr a f).arr[a] = f d.arr[a] := vec_set_same ..
theorem Dev.modArr_other (d : Dev) {a b : ArrId} (f : Arr → Arr) (h : a ≠ b) : (d.modArr a f).arr[b] = d.arr[b] :=
  vec_set_other _ _ h
theorem Dev.modPort_same (d : Dev) (p : PortId) (f : Port → Port) : (d.modPort p f).port[p] = f d.port[p] := vec_set_same ..
theorem Dev.modPort_other (d : Dev) {p p' : PortId} (f : Port → Port) (h : p ≠ p') : (d.modPort p f).port[p'] = d.port[p'] :=
  vec_set_other _ _ h

end Sys2Proof.Machine
end

