-- ==== Sys2Proof/Laws/Quiet.lean ====
section
/-!
SUPPORT. Laws/Quiet.lean: what writing records, counting and writing memory can change. `Dev.core` erases exactly that: the
bytes of memory with what protects them, the companion cache and its requests, record numbers, live counters and what is
sent out. Every report and every write of memory leaves the core.
-/
namespace Sys2Proof.Machine

def Queue.core (x : Queue) : Queue := { x with seq := 0, recs := [], cplNext := 0 }
def Ctx.core (x : Ctx) : Ctx := { x with queue := x.queue.map Queue.core, ring := { x.ring with next := 0, drop := 0 } }
def Channel.core (x : Channel) : Channel := { x with ue := 0, ueTimes := [] }
def Mem.core (m : Mem) : Mem :=
  { m with cells := [], poison := [], fresh := [], wcb := Vector.replicate 48 {}, ch := m.ch.map Channel.core }
def Rcl.core (r : Rcl) : Rcl := { r with lines := [], asks := [], probes := [], backInv := 0, evicted := 0, seq := 0, replay := [] }

/-- The faults but for which words of a slot under copy have been written. -/
def Flt.core (f : Flt) : Flt := { f with slot := f.slot.map fun (x : Slot) => { x with written := [] } }

/-- The device but for memory, the companion cache, record numbers, live counters and what is sent out. -/
def Dev.core (d : Dev) : Dev :=
  { d with
    ctx := d.ctx.map Ctx.core, arr := d.arr.map fun (x : Arr) => { x with ue := 0 }
    port := d.port.map fun (x : Port) => { x with evSeq := 0 }
    cod := { d.cod with sess := d.cod.sess.map fun (x : Sess) => { x with evSeq := 0 } }
    mem := d.mem.core, rcl := d.rcl.core, flt := d.flt.core, life := { d.life with live := [] }, dump := { d.dump with log := [] }
    ring := { d.ring with next := 0, drop := 0 }, seqs := {}, out := [] }

/-- `d'` differs from `d` in nothing that the core keeps. -/
def Dev.Quiet (d d' : Dev) : Prop := d'.core = d.core

theorem Dev.Quiet.refl (d : Dev) : d.Quiet d := rfl
theorem Dev.Quiet.trans {a b c : Dev} (h : a.Quiet b) (g : b.Quiet c) : a.Quiet c := Eq.trans g h

theorem Dev.Quiet.trans' {a b c : Dev} (g : b.Quiet c) (h : a.Quiet b) : a.Quiet c := Eq.trans g h

/-! ## What a quiet change leaves -/

/-- Whatever is read off the core is the same. -/
theorem Dev.Quiet.get {α : Type} {d d' : Dev} (h : d.Quiet d') (f : Dev → α) : f d'.core = f d.core := congrArg f h

section
variable {d d' : Dev} (h : d.Quiet d')
include h
theorem Dev.Quiet.per : d'.per = d.per := h.get fun x => x.per
theorem Dev.Quiet.cmp : d'.cmp = d.cmp := h.get fun x => x.cmp
theorem Dev.Quiet.lex : d'.lex = d.lex := h.get fun x => x.lex
theorem Dev.Quiet.rwp : d'.rwp = d.rwp := h.get fun x => x.rwp
theorem Dev.Quiet.zeroing : d'.zeroing = d.zeroing := h.get fun x => x.zeroing
theorem Dev.Quiet.cmds : d'.cmds = d.cmds := h.get fun x => x.cmds
theorem Dev.Quiet.tensors : d'.tensors = d.tensors := h.get fun x => x.tensors
theorem Dev.Quiet.attns : d'.attns = d.attns := h.get fun x => x.attns
theorem Dev.Quiet.tiles : d'.tiles = d.tiles := h.get fun x => x.tiles
theorem Dev.Quiet.mc : d'.mc = d.mc := h.get fun x => x.mc
theorem Dev.Quiet.inject : d'.inject = d.inject := h.get fun x => x.inject
theorem Dev.Quiet.injectDetected : d'.injectDetected = d.injectDetected := h.get fun x => x.injectDetected
theorem Dev.Quiet.ind : d'.ind = d.ind := h.get fun x => x.ind
theorem Dev.Quiet.cjn : d'.cjn = d.cjn := h.get fun x => x.cjn
theorem Dev.Quiet.grp : d'.grp = d.grp := h.get fun x => x.grp
theorem Dev.Quiet.net : d'.net = d.net := h.get fun x => x.net
theorem Dev.Quiet.sec : d'.sec = d.sec := h.get fun x => x.sec
theorem Dev.Quiet.pwr : d'.pwr = d.pwr := h.get fun x => x.pwr
theorem Dev.Quiet.nextId : d'.nextId = d.nextId := h.get fun x => x.nextId
theorem Dev.Quiet.nextUid : d'.nextUid = d.nextUid := h.get fun x => x.nextUid
theorem Dev.Quiet.freeCount : d'.freeCount = d.freeCount := h.get fun x => x.freeCount
theorem Dev.Quiet.takes : d'.takes = d.takes := h.get fun x => x.takes
theorem Dev.Quiet.ctxTakes : d'.ctxTakes = d.ctxTakes := h.get fun x => x.ctxTakes
theorem Dev.Quiet.eng : d'.cod.eng = d.cod.eng := h.get fun x => x.cod.eng
theorem Dev.Quiet.reserve : d'.cod.reserve = d.cod.reserve := h.get fun x => x.cod.reserve
theorem Dev.Quiet.missed : d'.rcl.missed = d.rcl.missed := h.get fun x => x.rcl.missed
theorem Dev.Quiet.rclSt : d'.rcl.st = d.rcl.st := h.get fun x => x.rcl.st
theorem Dev.Quiet.halted : d'.dump.halted = d.dump.halted := h.get fun x => x.dump.halted
theorem Dev.Quiet.due : d'.dump.due = d.dump.due := h.get fun x => x.dump.due

theorem Dev.Quiet.ctxCore (c : CtxId) : d'.ctx[c].core = d.ctx[c].core := by
  have e : d'.ctx.map Ctx.core = d.ctx.map Ctx.core := h.get fun x => x.ctx
  simpa using congrArg (fun v : Vector Ctx 16 => v[c]) e
theorem Dev.Quiet.getCtx {α : Type} (c : CtxId) (f : Ctx → α) : f d'.ctx[c].core = f d.ctx[c].core :=
  congrArg f (h.ctxCore c)
theorem Dev.Quiet.cp (c : CtxId) : d'.ctx[c].cp = d.ctx[c].cp := h.getCtx c fun x => x.cp
theorem Dev.Quiet.cst (c : CtxId) : d'.ctx[c].st = d.ctx[c].st := h.getCtx c fun x => x.st
theorem Dev.Quiet.grant (c : CtxId) : d'.ctx[c].g = d.ctx[c].g := h.getCtx c fun x => x.g
theorem Dev.Quiet.ldt (c : CtxId) : d'.ctx[c].ldt = d.ctx[c].ldt := h.getCtx c fun x => x.ldt
theorem Dev.Quiet.rph (c : CtxId) : d'.ctx[c].rph = d.ctx[c].rph := h.getCtx c fun x => x.rph
theorem Dev.Quiet.att (c : CtxId) : d'.ctx[c].att = d.ctx[c].att := h.getCtx c fun x => x.att
theorem Dev.Quiet.turn (c : CtxId) : d'.ctx[c].turn = d.ctx[c].turn := h.getCtx c fun x => x.turn
theorem Dev.Quiet.queueCore (c : CtxId) (q : QId) : d'.ctx[c].queue[q].core = d.ctx[c].queue[q].core := by
  have e : d'.ctx[c].queue.map Queue.core = d.ctx[c].queue.map Queue.core := congrArg (fun x : Ctx => x.queue) (h.ctxCore c)
  simpa using congrArg (fun v : Vector Queue 4 => v[q]) e
theorem Dev.Quiet.getQueue {α : Type} (c : CtxId) (q : QId) (f : Queue → α) :
    f d'.ctx[c].queue[q].core = f d.ctx[c].queue[q].core := congrArg f (h.queueCore c q)
theorem Dev.Quiet.held (c : CtxId) (q : QId) : d'.ctx[c].queue[q].held = d.ctx[c].queue[q].held :=
  h.getQueue c q fun x => x.held
theorem Dev.Quiet.qlaunch (c : CtxId) (q : QId) : d'.ctx[c].queue[q].launch = d.ctx[c].queue[q].launch :=
  h.getQueue c q fun x => x.launch
theorem Dev.Quiet.qst (c : CtxId) (q : QId) : d'.ctx[c].queue[q].st = d.ctx[c].queue[q].st :=
  h.getQueue c q fun x => x.st
end

/-! ## Changes that may also miss a read -/

def Dev.unmissed (d : Dev) : Dev := { d with rcl := { d.rcl with missed := false } }

/-- A quiet change but that it may mark a missed read. -/
def Dev.Still (d d' : Dev) : Prop := d'.core.unmissed = d.core.unmissed

theorem Dev.Still.refl (d : Dev) : d.Still d := rfl
theorem Dev.Still.trans' {a b c : Dev} (g : b.Still c) (h : a.Still b) : a.Still c := Eq.trans g h
theorem Dev.Quiet.still {d d' : Dev} (h : d.Quiet d') : d.Still d' := congrArg Dev.unmissed h
theorem Dev.Still.get {α : Type} {d d' : Dev} (h : d.Still d') (f : Dev → α) : f d'.core.unmissed = f d.core.unmissed :=
  congrArg f h

section
variable {d d' : Dev} (h : d.Still d')
include h
theorem Dev.Still.per : d'.per = d.per := h.get fun x => x.per
theorem Dev.Still.cmds : d'.cmds = d.cmds := h.get fun x => x.cmds
theorem Dev.Still.sec : d'.sec = d.sec := h.get fun x => x.sec
theorem Dev.Still.pwr : d'.pwr = d.pwr := h.get fun x => x.pwr
theorem Dev.Still.cmp : d'.cmp = d.cmp := h.get fun x => x.cmp
theorem Dev.Still.halted : d'.dump.halted = d.dump.halted := h.get fun x => x.dump.halted
theorem Dev.Still.ctxCore (c : CtxId) : d'.ctx[c].core = d.ctx[c].core := by
  have e : d'.ctx.map Ctx.core = d.ctx.map Ctx.core := h.get fun x => x.ctx
  simpa using congrArg (fun v : Vector Ctx 16 => v[c]) e
theorem Dev.Still.getCtx {α : Type} (c : CtxId) (f : Ctx → α) : f d'.ctx[c].core = f d.ctx[c].core :=
  congrArg f (h.ctxCore c)
theorem Dev.Still.cp (c : CtxId) : d'.ctx[c].cp = d.ctx[c].cp := h.getCtx c fun x => x.cp
theorem Dev.Still.ldt (c : CtxId) : d'.ctx[c].ldt = d.ctx[c].ldt := h.getCtx c fun x => x.ldt
theorem Dev.Still.cst (c : CtxId) : d'.ctx[c].st = d.ctx[c].st := h.getCtx c fun x => x.st
end

/-! ## Vectors and folds -/

theorem vec_map_set {α β : Type} {n : Nat} (v : Vector α n) (i : Fin n) (x : α) (f : α → β) (e : f x = f v[i]) :
    (v.set i x).map f = v.map f := by
  ext j hj
  simp only [Vector.getElem_map, Vector.getElem_set]
  split
  · next g => subst g; exact e
  · rfl

/-- A fold of quiet changes is quiet. -/
theorem quiet_foldl {α : Type} (f : Dev → α → Dev) (h : ∀ (d : Dev) a, d.Quiet (f d a)) (l : List α) (d : Dev) :
    d.Quiet (l.foldl f d) := by
  induction l generalizing d with
  | nil => exact .refl d
  | cons a l ih => exact (h d a).trans (ih _)

/-- A fold that carries the device beside something else. -/
theorem quiet_foldl_fst {α β : Type} (f : Dev × β → α → Dev × β) (h : ∀ (x : Dev × β) a, x.1.Quiet (f x a).1) (l : List α)
    (x : Dev × β) : x.1.Quiet (l.foldl f x).1 := by
  induction l generalizing x with
  | nil => exact .refl _
  | cons a l ih => exact (h x a).trans (ih _)

theorem quiet_foldl_snd {α β : Type} (f : β × Dev → α → β × Dev) (h : ∀ (x : β × Dev) a, x.2.Quiet (f x a).2) (l : List α)
    (x : β × Dev) : x.2.Quiet (l.foldl f x).2 := by
  induction l generalizing x with
  | nil => exact .refl _
  | cons a l ih => exact (h x a).trans (ih _)

/-! ## The small updates -/

theorem Dev.quiet_log (d : Dev) (l : List Line) : d.Quiet { d with dump := { d.dump with log := l } } := rfl
theorem Dev.quiet_emit (d : Dev) (o : Output) : d.Quiet (d.emit o) := rfl
theorem Dev.quiet_count (d : Dev) (i n : Nat) : d.Quiet (d.count i n) := rfl
theorem Dev.quiet_rcl (d : Dev) (r : Rcl) (h : r.core = d.rcl.core) : d.Quiet { d with rcl := r } := by
  unfold Dev.Quiet Dev.core; simp only [h]
theorem Dev.quiet_rclSend (d : Dev) (m : RclMsg) : d.Quiet (d.rclSend m) := by
  unfold Dev.rclSend
  dsimp only
  generalize List.drop _ _ = l
  exact .trans' (Dev.quiet_emit _ _) (d.quiet_rcl _ (by rfl))
theorem quiet_ite {d a b : Dev} {p : Prop} [Decidable p] (h : d.Quiet a) (g : d.Quiet b) : d.Quiet (if p then a else b) := by
  split <;> assumption
theorem Dev.quiet_ask (d : Dev) (line : Nat) (k : AskKind) (m : BitVec 128) : d.Quiet (d.ask line k m) := by
  unfold Dev.ask; split
  · exact d.quiet_rcl _ (by rfl)
  · dsimp only; split
    · exact .trans' (Dev.quiet_rclSend _ _) (d.quiet_rcl _ (by rfl))
    · exact d.quiet_rcl _ (by rfl)
theorem Dev.quiet_probe (d : Dev) (line : Nat) (b : Bool) (m : BitVec 128) : d.Quiet (d.probe line b m) := by
  unfold Dev.probe
  refine quiet_ite (d.quiet_rcl _ ?_) (quiet_ite (.trans' (Dev.quiet_rclSend _ _) (d.quiet_rcl _ ?_)) (d.quiet_rcl _ ?_)) <;> rfl
theorem Dev.quiet_want (d : Dev) (line : Nat) : d.Quiet (d.want line) := by
  unfold Dev.want; split
  · rfl
  · split
    · exact d.quiet_ask ..
    · exact d.quiet_probe ..
theorem Dev.quiet_cacheLine (d : Dev) (line : Nat) (st : LineSt) : d.Quiet (d.cacheLine line st) := by
  unfold Dev.cacheLine; dsimp only; split
  · rfl
  · split
    · split <;> exact .trans' (Dev.quiet_rclSend _ _) (d.quiet_rcl _ (by rfl))
    · exact d.quiet_rcl _ (by rfl)
theorem Dev.quiet_touchWrite (d : Dev) (line i n : Nat) (half : Bool) : d.Quiet (d.touchWrite line i n half) := by
  unfold Dev.touchWrite; split
  · rfl
  · exact d.quiet_cacheLine ..
  · exact d.quiet_ask ..
theorem Dev.quiet_dirWrite (d : Dev) (line i n : Nat) (half : Bool) : d.Quiet (d.dirWrite line i n half) := by
  unfold Dev.dirWrite; split
  · exact d.quiet_probe ..
  · rfl

/-- Poison does not reach the core. -/
theorem Mem.core_clearPoison (m : Mem) (k n : Nat) : (m.clearPoison k n).core = m.core := rfl
theorem Mem.core_setPoison (m : Mem) (k : Nat) : (m.setPoison k).core = m.core := rfl

theorem Mem.core_ite (b : Bool) (m m' : Mem) {x : Mem} (h : m.core = x) (h' : m'.core = x) :
    (if b then m else m').core = x := by cases b <;> assumption

theorem Dev.quiet_mem (d : Dev) (m : Mem) (h : m.core = d.mem.core) : d.Quiet { d with mem := m } := by
  unfold Dev.Quiet Dev.core; simp only [h]

theorem Dev.quiet_countArr (d : Dev) (k : Nat) (a : ArrId) (n : Nat) : d.Quiet (d.countArr k a n) := rfl
theorem Dev.quiet_countCh (d : Dev) (k : Nat) (ch : Fin 192) (n : Nat) : d.Quiet (d.countCh k ch n) := rfl

theorem Dev.quiet_lpddrPut (d : Dev) (a : Nat) (bs : List Byte) (half : Bool) : d.Quiet (d.lpddrPut a bs half) := by
  unfold Dev.lpddrPut
  refine Dev.Quiet.trans (Dev.quiet_mem d _ ?_) (quiet_foldl _ (fun d l => d.quiet_countCh ..) _ _)
  exact Mem.core_ite _ _ _ rfl rfl

theorem Dev.quiet_plainPut (d : Dev) (a : Nat) (bs : List Byte) (half : Bool) : d.Quiet (d.plainPut a bs half) := by
  unfold Dev.plainPut
  refine Dev.quiet_mem d _ ?_
  dsimp only; split <;> rfl

theorem Dev.quiet_putPiece (d : Dev) (k : Nat) (bs : List Byte) (half : Bool) : d.Quiet (d.putPiece k bs half) := by
  unfold Dev.putPiece; split
  · exact d.quiet_plainPut ..
  · split
    · exact (d.quiet_touchWrite ..).trans (Dev.quiet_plainPut ..)
    · exact (d.quiet_dirWrite ..).trans (Dev.quiet_lpddrPut ..)

theorem Dev.quiet_putBytes (d : Dev) (k : Nat) (bs : List Byte) (half : Bool) : d.Quiet (d.putBytes k bs half) := by
  unfold Dev.putBytes; split
  · exact d.quiet_plainPut ..
  · exact quiet_foldl_fst _ (fun x a => x.1.quiet_putPiece ..) _ (d, bs)

/-! ## Records -/

theorem Dev.quiet_modQ (d : Dev) (c : CtxId) (q : QId) (f : Queue → Queue) (h : ∀ x, (f x).core = x.core) :
    d.Quiet (d.modQ c q f) := by
  have e : (d.modQ c q f).ctx.map Ctx.core = d.ctx.map Ctx.core := by
    refine vec_map_set _ c _ _ ?_
    have g : (d.ctx[c].queue.set q (f d.ctx[c].queue[q])).map Queue.core = d.ctx[c].queue.map Queue.core :=
      vec_map_set _ q _ _ (h _)
    simp only [Ctx.core]
    exact congrArg (fun v => ({ d.ctx[c] with queue := v, ring := { d.ctx[c].ring with next := 0, drop := 0 } } : Ctx)) g
  unfold Dev.Quiet Dev.core; simp only [e]; rfl

theorem Dev.quiet_modRing (d : Dev) (r : Option CtxId) (f : EvRing → EvRing)
    (h : ∀ x : EvRing, { f x with next := 0, drop := 0 } = { x with next := 0, drop := 0 }) : d.Quiet (d.modRing r f) := by
  cases r with
  | none =>
    show Dev.core _ = _
    unfold Dev.core Dev.modRing; simp only [h]
  | some c =>
    have e : (d.modRing (some c) f).ctx.map Ctx.core = d.ctx.map Ctx.core := by
      refine vec_map_set _ c _ _ ?_
      simp only [Ctx.core, h]
    unfold Dev.Quiet Dev.core; simp only [e]; rfl

theorem Dev.quiet_ringPut (d : Dev) (r : Option CtxId) (bs : List Byte) : d.Quiet (d.ringPut r bs) := by
  unfold Dev.ringPut; dsimp only; split
  · refine .trans' (Dev.quiet_modRing _ _ _ fun _ => ?_) (d.quiet_putBytes ..)
    rfl
  · refine .trans' (Dev.quiet_count ..) (d.quiet_modRing _ _ fun _ => ?_)
    rfl

theorem Dev.quiet_drainRecs (d : Dev) (c : CtxId) (q : QId) (n : Nat) : d.Quiet (d.drainRecs c q n) := by
  induction n generalizing d with
  | zero => exact .refl d
  | succ n ih =>
    unfold Dev.drainRecs; dsimp only; split
    · rfl
    · refine .trans' (ih _) (.trans' (Dev.quiet_ringPut ..) (d.quiet_modQ _ _ _ fun _ => ?_))
      rfl
    · split
      · refine .trans' (ih _) (.trans' (Dev.quiet_modQ _ _ _ _ fun _ => ?_) (d.quiet_putBytes ..))
        rfl
      · rfl

theorem Dev.quiet_pushRec (d : Dev) (c : CtxId) (q : QId) (r : QRec) : d.Quiet (d.pushRec c q r) := by
  unfold Dev.pushRec
  refine .trans' (Dev.quiet_drainRecs ..) (d.quiet_modQ _ _ _ fun _ => ?_)
  rfl

theorem Dev.quiet_modSess (d : Dev) (i : SessId) (f : Sess → Sess)
    (h : ∀ x : Sess, { f x with evSeq := 0 } = { x with evSeq := 0 }) : d.Quiet (d.modSess i f) := by
  have e : (d.modSess i f).cod.sess.map (fun (x : Sess) => { x with evSeq := 0 }) =
      d.cod.sess.map (fun (x : Sess) => { x with evSeq := 0 }) := vec_map_set _ i _ _ (h _)
  unfold Dev.Quiet Dev.core; simp only [e]; rfl

theorem Dev.quiet_modPort (d : Dev) (p : PortId) (f : Port → Port)
    (h : ∀ x : Port, { f x with evSeq := 0 } = { x with evSeq := 0 }) : d.Quiet (d.modPort p f) := by
  have e : (d.modPort p f).port.map (fun (x : Port) => { x with evSeq := 0 }) =
      d.port.map (fun (x : Port) => { x with evSeq := 0 }) := vec_map_set _ p _ _ (h _)
  unfold Dev.Quiet Dev.core; simp only [e]; rfl

theorem Dev.quiet_modArr (d : Dev) (a : ArrId) (f : Arr → Arr)
    (h : ∀ x : Arr, { f x with ue := 0 } = { x with ue := 0 }) : d.Quiet (d.modArr a f) := by
  have e : (d.modArr a f).arr.map (fun (x : Arr) => { x with ue := 0 }) =
      d.arr.map (fun (x : Arr) => { x with ue := 0 }) := vec_map_set _ a _ _ (h _)
  unfold Dev.Quiet Dev.core; simp only [e]; rfl

theorem Dev.quiet_modCh (d : Dev) (i : Fin 192) (f : Channel → Channel) (h : ∀ x, (f x).core = x.core) :
    d.Quiet (d.modCh i f) := by
  refine Dev.quiet_mem d _ ?_
  have e : (d.mem.ch.set i (f d.mem.ch[i])).map Channel.core = d.mem.ch.map Channel.core := vec_map_set _ i _ _ (h _)
  simp only [Mem.core, e]

theorem Dev.quiet_takeSeq (d : Dev) (s : EvSrc) : d.Quiet (d.takeSeq s).2 := by
  cases s with
  | queue c q => exact d.quiet_modQ _ _ _ fun _ => rfl
  | session i => exact d.quiet_modSess _ _ fun _ => rfl
  | port p => exact d.quiet_modPort _ _ fun _ => rfl
  | _ => rfl

theorem Dev.quiet_complete (d : Dev) (c : CtxId) (q : QId) (r : CplRec) : d.Quiet (d.complete c q r) :=
  (d.quiet_takeSeq (.queue c q)).trans (Dev.quiet_pushRec ..)

/-- An event is a report: it changes nothing that the core keeps. -/
theorem Dev.quiet_event (d : Dev) (s : EvSrc) (code : Nat) (a : DWord) (b : Word) (i : Bool) :
    d.Quiet (d.event s code a b i) := by
  have t := d.quiet_takeSeq s
  unfold Dev.event; dsimp only
  cases s with
  | queue c q => exact t.trans (Dev.quiet_pushRec ..)
  | session i => exact t.trans (Dev.quiet_ringPut ..)
  | fault =>
    exact .trans' (Dev.quiet_ringPut ..) (.trans' (Dev.quiet_log ..) t)
  | _ => exact t.trans (Dev.quiet_ringPut ..)

/-! ## Accesses -/

theorem Dev.quiet_poisonedRead (d : Dev) (k : Nat) : d.Quiet (d.poisonedRead k) := by
  unfold Dev.poisonedRead
  by_cases h : 2 ^ 52 ≤ k
  · rw [if_pos h]
    dsimp only
    generalize (k - 2 ^ 52) / padSize = a
    split
    · exact (d.quiet_event ..).trans (Dev.quiet_countArr ..)
    · exact d.quiet_event ..
  · rw [if_neg h]
    split
    · exact d.quiet_event ..
    · refine .trans' (Dev.quiet_countCh ..) (.trans' (Dev.quiet_modCh _ _ _ fun _ => ?_) (d.quiet_event ..))
      rfl

theorem Dev.quiet_protected (d : Dev) (a : Nat) : d.Quiet (d.protected a) :=
  (Dev.quiet_count ..).trans' (d.quiet_event ..)

theorem Dev.quiet_unmappedProg (d : Dev) (c : CtxId) (q : QId) (a : Nat) : d.Quiet (d.unmappedProg c q a) :=
  (Dev.quiet_count ..).trans' (d.quiet_event ..)

theorem Dev.quiet_loadKey (d : Dev) (k n : Nat) : d.Quiet (d.loadKey k n).2 :=
  quiet_foldl _ (fun d k => d.quiet_poisonedRead k) _ _

theorem Dev.quiet_loadPad (d : Dev) (a : ArrId) (o n : Nat) : d.Quiet (d.loadPad a o n).2 := by
  unfold Dev.loadPad; split
  · exact d.quiet_loadKey ..
  · rfl
theorem Dev.quiet_loadSlot (d : Dev) (s o n : Nat) : d.Quiet (d.loadSlot s o n).2 := by
  unfold Dev.loadSlot; split
  · exact d.quiet_loadPad ..
  · rfl
theorem Dev.quiet_storePad (d : Dev) (a : ArrId) (o : Nat) (bs : List Byte) (half : Bool) :
    d.Quiet (d.storePad a o bs half) := by
  unfold Dev.storePad; split
  · exact d.quiet_plainPut ..
  · rfl
theorem Dev.quiet_modSlot (d : Dev) (i : Fin 192) (f : Slot → Slot)
    (h : ∀ x : Slot, { f x with written := [] } = { x with written := [] }) : d.Quiet (d.modSlot i f) := by
  have e : (d.modSlot i f).flt.slot.map (fun (x : Slot) => { x with written := [] }) =
      d.flt.slot.map (fun (x : Slot) => { x with written := [] }) := vec_map_set _ i _ _ (h _)
  unfold Dev.Quiet Dev.core Flt.core; simp only [e]; rfl
theorem Dev.quiet_noteWritten (d : Dev) (s o n : Nat) : d.Quiet (d.noteWritten s o n) := by
  unfold Dev.noteWritten; split
  · exact d.quiet_modSlot _ _ fun _ => rfl
  · rfl
theorem Dev.quiet_storeSlot (d : Dev) (s o : Nat) (bs : List Byte) (half : Bool) :
    d.Quiet (d.storeSlot s o bs half) := by
  unfold Dev.storeSlot; dsimp only
  have h : d.Quiet (match d.slotArr s with | some a => d.storePad a o bs half | none => d) := by
    split
    · exact d.quiet_storePad ..
    · rfl
  split
  · exact (h.trans (Dev.quiet_storePad ..)).trans (Dev.quiet_noteWritten ..)
  · exact h

/-! ## Reads that may miss -/

theorem still_foldl_snd {α β : Type} (f : β × Dev → α → β × Dev) (h : ∀ (x : β × Dev) a, x.2.Still (f x a).2) (l : List α)
    (x : β × Dev) : x.2.Still (l.foldl f x).2 := by
  induction l generalizing x with
  | nil => exact .refl _
  | cons a l ih => exact .trans' (ih _) (h x a)

theorem Dev.still_touchRead (d : Dev) (line : Nat) : d.Still (d.touchRead line) := by
  unfold Dev.touchRead; split
  · exact .refl d
  · exact (d.quiet_want line).still

theorem Dev.still_loadPiece (d : Dev) (a n : Nat) : d.Still (d.loadPiece a n).2 := by
  unfold Dev.loadPiece; split
  · exact .trans' (Dev.quiet_loadKey ..).still (d.still_touchRead _)
  · exact .trans' (Dev.quiet_loadKey ..).still (d.still_touchRead _)
  · exact .refl d

/-- The report of a program's access is quiet. -/
theorem Dev.quiet_reportAccess (d : Dev) (c : CtxId) (q : QId) (ps : List (Nat × Nat)) : d.Quiet (d.reportAccess (.prog c q) ps) := by
  have h1 : ∀ (d : Dev) a, d.Quiet (d.reportUnmapped (.prog c q) a) := fun d a => d.quiet_unmappedProg ..
  have h2 : ∀ (d : Dev) a, d.Quiet (d.reportProtected (.prog c q) a) := fun d a => d.quiet_protected ..
  unfold Dev.reportAccess
  dsimp only
  have hq : d.Quiet (match ps.find? fun p => decide (d.region p.1 = .unmapped) with
    | some p => d.reportUnmapped (.prog c q) p.1 | none => d) := by
    split
    · exact h1 ..
    · exact .refl d
  split
  · exact hq.trans (h2 ..)
  · exact hq
theorem Dev.quiet_reportSpace (d : Dev) (c : CtxId) (q : QId) (sp : Nat) (ps : List (Nat × Nat)) :
    d.Quiet (d.reportSpace (.prog c q) sp ps) := by
  unfold Dev.reportSpace; split
  · exact d.quiet_reportAccess ..
  · exact .refl d

theorem Dev.still_loadSpace (d : Dev) (c : CtxId) (q : QId) (sp a n : Nat) :
    d.Still (d.loadSpace (.prog c q) c none sp a n).2 := by
  refine .trans' (still_foldl_snd _ (fun x p => ?_) _ ([], d.reportSpace (.prog c q) sp (linePieces a n))) (d.quiet_reportSpace ..).still
  dsimp only
  unfold Dev.loadSpacePiece
  split
  · exact Dev.still_loadPiece ..
  · exact (Dev.quiet_loadSlot ..).still
  · exact .refl _

/-- A read of a line that is at hand changes nothing. -/
theorem Dev.touchRead_held (d : Dev) (line : Nat) (h : d.atHand line = true) : d.touchRead line = d := by
  unfold Dev.touchRead; simp [h]

end Sys2Proof.Machine
end

