-- ==== Sys2Proof/Laws/Access.lean ====
section
/-!
SUPPORT. Laws/Access.lean: reads and writes of memory: how a range falls into lines, how many bytes a read answers, and reading
after writing.
-/
namespace Sys2Proof.Machine

/-! ## Ranges as pieces of lines -/

theorem pieces_sum (fuel a n : Nat) (h : n = 0 ∨ n + a % 64 ≤ 64 * fuel) : ((pieces fuel a n).map (·.2)).sum = n := by
  induction fuel generalizing a n with
  | zero => simp [pieces]; omega
  | succ fuel ih =>
    unfold pieces
    split
    · next h0 => simp [h0]
    · next h0 =>
      simp only [List.map_cons, List.sum_cons]
      rw [ih]
      · omega
      · by_cases hm : n ≤ 64 - a % 64
        · exact .inl (by rw [Nat.min_eq_left hm]; omega)
        · rw [Nat.min_eq_right (by omega)]
          exact .inr (by omega)

theorem linePieces_sum (a n : Nat) : ((linePieces a n).map (·.2)).sum = n := by
  refine pieces_sum _ _ _ (.inr ?_)
  have := Nat.div_add_mod n 64
  omega

/-- A range within one line is one piece. -/
theorem linePieces_one (a n : Nat) (h0 : 0 < n) (h : a % 64 + n ≤ 64) : linePieces a n = [(a, n)] := by
  unfold linePieces
  have e : min n (64 - a % 64) = n := Nat.min_eq_left (by omega)
  have hn : n ≠ 0 := by omega
  rw [show n / 64 + 2 = (n / 64 + 1) + 1 from rfl]
  unfold pieces
  rw [if_neg hn]
  simp only [e, Nat.sub_self]
  unfold pieces
  simp

/-! ## How many bytes a read answers -/

theorem length_loadKey (d : Dev) (k n : Nat) : (d.loadKey k n).1.length = n := by simp [Dev.loadKey]

theorem length_loadPiece (d : Dev) (a n : Nat) : (d.loadPiece a n).1.length = n := by
  unfold Dev.loadPiece
  cases d.region a <;> first | exact length_loadKey .. | simp

theorem length_loadPad (d : Dev) (a : ArrId) (o n : Nat) : (d.loadPad a o n).1.length = n := by
  unfold Dev.loadPad; split <;> first | exact length_loadKey .. | simp

theorem length_loadSlot (d : Dev) (x o n : Nat) : (d.loadSlot x o n).1.length = n := by
  unfold Dev.loadSlot; split <;> first | exact length_loadPad .. | simp

theorem length_loadSpacePiece (d : Dev) (c : CtxId) (loc : Option ArrId) (sp a n : Nat) :
    (d.loadSpacePiece c loc sp a n).1.length = n := by
  unfold Dev.loadSpacePiece
  split
  · exact length_loadPiece ..
  · exact length_loadSlot ..
  · split <;> first | exact length_loadPad .. | simp

/-- A fold that gathers bytes piece by piece gathers as many as the pieces have. -/
theorem length_gather {α : Type} (f : Dev → Nat × Nat → List α × Dev) (h : ∀ d p, (f d p).1.length = p.2)
    (l : List (Nat × Nat)) (acc : List α × Dev) :
    (l.foldl (fun (acc : List α × Dev) p => (acc.1 ++ (f acc.2 p).1, (f acc.2 p).2)) acc).1.length =
      acc.1.length + (l.map (·.2)).sum := by
  induction l generalizing acc with
  | nil => simp
  | cons p l ih => rw [List.foldl_cons, ih]; simp [h]; omega

theorem length_loadSpace (d : Dev) (who : Actor) (c : CtxId) (loc : Option ArrId) (sp a n : Nat) :
    (d.loadSpace who c loc sp a n).1.length = n := by
  have := length_gather (fun d p => d.loadSpacePiece c loc sp (p.1 % 2 ^ 52) p.2)
    (fun d p => length_loadSpacePiece ..) (linePieces a n) ([], d.reportSpace who sp (linePieces a n))
  rw [linePieces_sum] at this
  exact this.trans (Nat.zero_add n)

theorem length_loadAddr (d : Dev) (who : Actor) (a n : Nat) : (d.loadAddr who a n).1.length = n := by
  have := length_gather (fun d p => d.loadPiece p.1 p.2) (fun d p => length_loadPiece ..) (linePieces a n) ([], d.reportAccess who (linePieces a n))
  rw [linePieces_sum] at this
  exact this.trans (Nat.zero_add n)

/-! ## A read within one line of the software region -/

/-- An access within the software region is reported nowhere. -/
theorem Dev.reportSpace_software (d : Dev) (who : Actor) (a n : Nat) (ha : a < 2 ^ 52) (hr : d.region a = .software) :
    d.reportSpace who 0 [(a, n)] = d := by
  have e : a % 4503599627370496 = a := Nat.mod_eq_of_lt ha
  simp [Dev.reportSpace, Dev.reportAccess, e, hr]

theorem Dev.loadSpace_line (d : Dev) (who : Actor) (c : CtxId) (loc : Option ArrId) (a n : Nat) (h0 : 0 < n) (h : a % 64 + n ≤ 64)
    (ha : a < 2 ^ 52) (hr : d.region a = .software) (hh : d.atHand (a - a % 64) = true) :
    d.loadSpace who c loc 0 a n = d.loadKey a n := by
  unfold Dev.loadSpace
  rw [linePieces_one a n h0 h]
  rw [Dev.reportSpace_software d who a n ha hr]
  simp only [List.foldl_cons, List.foldl_nil, Dev.loadSpacePiece, Nat.mod_eq_of_lt ha, List.nil_append]
  unfold Dev.loadPiece
  rw [hr, Dev.touchRead_held _ _ hh]

theorem bytes_loadKey (d : Dev) (k n : Nat) : bytesOf (d.loadKey k n).1 = d.mem.read k n := by
  simp [Dev.loadKey, bytesOf, Mem.read]

/-! ## A read of companion memory that meets no poison and whose lines are held leaves the device as it was -/

theorem pieces_ge (fuel a n : Nat) : ∀ p ∈ pieces fuel a n, a ≤ p.1 := by
  induction fuel generalizing a n with
  | zero => simp [pieces]
  | succ fuel ih =>
    unfold pieces
    split
    · simp
    · intro p hp
      rcases List.mem_cons.1 hp with rfl | hp
      · exact Nat.le_refl _
      · exact Nat.le_trans (Nat.le_add_right _ _) (ih _ _ p hp)

@[simp] theorem Mem.wasLost_none (m : Mem) (hl : m.lost = []) (line : Nat) : m.wasLost line = false := by
  simp [Mem.wasLost, hl]

theorem Mem.poisoned_clean (m : Mem) (hp : m.poison = []) (hl : m.lost = []) (k n : Nat) : m.poisoned k n = [] := by
  simp [Mem.poisoned, Mem.bad, hp, Mem.wasLost_none m hl]

theorem Dev.loadPiece_clean (d : Dev) (a n : Nat) (ha : 2 ^ 51 ≤ a) (hh : d.atHand (a - a % 64) = true)
    (hp : d.mem.poison = []) (hl : d.mem.lost = []) : d.loadPiece a n = ((d.mem.read a n).map fun b => (b, false), d) := by
  have hr : d.region a = .companion := by unfold Dev.region; exact if_pos ha
  unfold Dev.loadPiece
  rw [hr]
  dsimp only
  rw [Dev.touchRead_held _ _ hh, Dev.loadKey, Mem.poisoned_clean _ hp hl]
  simp [Mem.read]

theorem Dev.loadAddr_clean (d : Dev) (who : Actor) (a n : Nat) (ha : 2 ^ 51 ≤ a)
    (hh : ∀ p ∈ linePieces a n, d.atHand (p.1 - p.1 % 64) = true) (hp : d.mem.poison = []) (hl : d.mem.lost = []) :
    (d.loadAddr who a n).2 = d ∧ ∀ b ∈ (d.loadAddr who a n).1, b.2 = false := by
  have key : ∀ (l : List (Nat × Nat)) (acc : List RByte × Dev), acc.2 = d → (∀ b ∈ acc.1, b.2 = false) →
      (∀ p ∈ l, 2 ^ 51 ≤ p.1 ∧ d.atHand (p.1 - p.1 % 64) = true) →
      (l.foldl (fun (acc : List RByte × Dev) p => (acc.1 ++ (acc.2.loadPiece p.1 p.2).1, (acc.2.loadPiece p.1 p.2).2)) acc).2 = d ∧
      ∀ b ∈ (l.foldl (fun (acc : List RByte × Dev) p =>
        (acc.1 ++ (acc.2.loadPiece p.1 p.2).1, (acc.2.loadPiece p.1 p.2).2)) acc).1, b.2 = false := by
    intro l
    induction l with
    | nil => intro acc h1 h2 _; exact ⟨h1, h2⟩
    | cons p l ih =>
      intro acc h1 h2 h3
      have e := Dev.loadPiece_clean d p.1 p.2 (h3 p (List.mem_cons_self ..)).1 (h3 p (List.mem_cons_self ..)).2 hp hl
      rw [List.foldl_cons]
      refine ih _ ?_ ?_ fun q hq => h3 q (List.mem_cons_of_mem _ hq)
      · simp only [h1, e]
      · intro b hb
        simp only [h1, e, List.mem_append, List.mem_map] at hb
        rcases hb with hb | ⟨x, _, rfl⟩
        · exact h2 b hb
        · rfl
  have hrep : d.reportAccess who (linePieces a n) = d := by
    have hc : ∀ p ∈ linePieces a n, d.region p.1 = .companion := fun p hm => if_pos (Nat.le_trans ha (pieces_ge _ _ _ p hm))
    have hf : ∀ bad : Region → Bool, bad .companion = false → (linePieces a n).find? (fun p => bad (d.region p.1)) = none :=
      fun bad hb => List.find?_eq_none.2 fun p hm => by rw [hc p hm, hb]; decide
    unfold Dev.reportAccess
    dsimp only
    rw [hf (fun r => decide (r = .unmapped)) rfl, hf (fun r => decide (r = .firmware ∨ r = .reserve)) rfl]
  unfold Dev.loadAddr
  rw [hrep]
  exact key (linePieces a n) ([], d) rfl (by simp) fun p hm => ⟨Nat.le_trans ha (pieces_ge _ _ _ p hm), hh p hm⟩

theorem Dev.readOpen_clean (d : Dev) (who : Actor) (a n : Nat) (ha : 2 ^ 51 ≤ a)
    (hh : ∀ p ∈ linePieces a n, d.atHand (p.1 - p.1 % 64) = true) (hp : d.mem.poison = []) (hl : d.mem.lost = []) :
    (d.readOpen who a n).2 = d := by
  obtain ⟨h1, h2⟩ := Dev.loadAddr_clean d who a n ha hh hp hl
  have key : ∀ (l : List RByte) (acc : List Byte × Dev), acc.2 = d → (∀ b ∈ l, b.2 = false) →
      (l.foldl (fun (acc : List Byte × Dev) b =>
        if b.2 then ((acc.1 ++ [(acc.2.draw 8).1], (acc.2.draw 8).2) : List Byte × Dev) else (acc.1 ++ [b.1], acc.2)) acc).2 = d := by
    intro l
    induction l with
    | nil => intro acc h _; exact h
    | cons b l ih =>
      intro acc h hb
      rw [List.foldl_cons]
      refine ih _ ?_ fun x hx => hb x (List.mem_cons_of_mem _ hx)
      simp [hb b (List.mem_cons_self ..), h]
  exact key _ _ h1 h2

/-- A device that holds every line of a range of companion memory. -/
theorem Dev.atHand_pieces (d : Dev) (a n : Nat) (ha : 2 ^ 51 ≤ a)
    (hl : d.rcl.lines = (linePieces a n).map fun p => (p.1 - p.1 % 64, LineSt.e)) (p : Nat × Nat) (hm : p ∈ linePieces a n) :
    d.atHand (p.1 - p.1 % 64) = true := by
  have := pieces_ge _ _ _ p hm
  have : 2 ^ 51 ≤ p.1 - p.1 % 64 := by omega
  simp only [Dev.atHand, this, if_true, Bool.or_eq_true, List.any_eq_true, decide_eq_true_eq, hl]
  exact .inl ⟨_, List.mem_map.2 ⟨p, hm, rfl⟩, rfl⟩

end Sys2Proof.Machine
end

