-- ==== Sys2Proof/Laws/Bytes.lean ====
section
/-!
SUPPORT. Laws/Bytes.lean: numbers as little-endian bytes, lines as bytes and lanes.
-/
namespace Sys2Proof
open Machine

@[simp] theorem length_leBytes (n k : Nat) : (leBytes n k).length = k := by
  induction k generalizing n with
  | zero => rfl
  | succ k ih => simp [leBytes, ih]

theorem leNat_append (a b : List Byte) : leNat (a ++ b) = leNat a + 256 ^ a.length * leNat b := by
  induction a with
  | nil => simp [leNat]
  | cons x a ih => simp only [List.cons_append, leNat, ih, List.length_cons, pow_succ]; ring

theorem leNat_lt (a : List Byte) : leNat a < 256 ^ a.length := by
  induction a with
  | nil => simp [leNat]
  | cons x a ih =>
    have := x.isLt
    simp only [leNat, List.length_cons, pow_succ]
    omega

/-- The bytes of a number give it back, modulo what they hold. -/
theorem leNat_leBytes (n k : Nat) : leNat (leBytes n k) = n % 256 ^ k := by
  induction k generalizing n with
  | zero => simp [leBytes, leNat, Nat.mod_one]
  | succ k ih =>
    simp only [leBytes, leNat, ih, BitVec.toNat_ofNat]
    rw [pow_succ' 256 k, Nat.mod_mul]

theorem leNat_flatMap (k : Nat) (f : Nat → List Byte) (hf : ∀ x, (f x).length = k) (l : List Nat) (i : Nat) (hi : i < l.length) :
    leNat (l.flatMap f) / 256 ^ (k * i) % 256 ^ k = leNat (f l[i]) := by
  induction l generalizing i with
  | nil => simp at hi
  | cons x l ih =>
    rw [List.flatMap_cons, leNat_append, hf]
    have hx : leNat (f x) < 256 ^ k := by have := leNat_lt (f x); rwa [hf] at this
    cases i with
    | zero =>
      simp only [Nat.mul_zero, pow_zero, Nat.div_one, List.getElem_cons_zero]
      rw [Nat.add_mul_mod_self_left, Nat.mod_eq_of_lt hx]
    | succ i =>
      have : 256 ^ (k * (i + 1)) = 256 ^ k * 256 ^ (k * i) := by rw [← pow_add]; congr 1; ring
      rw [this, ← Nat.div_div_eq_div_mul, Nat.add_mul_div_left _ _ (by positivity), Nat.div_eq_of_lt hx, Nat.zero_add]
      exact ih i (by simpa using hi)

/-- A vector made of 16 lanes has them (R185). -/
theorem lane_ofLanes (ls : List Word) (h : ls.length = 16) (l : Nat) (hl : l < 16) :
    lane (ofLanes ls) l = ls[l]'(h ▸ hl) := by
  apply BitVec.eq_of_toNat_eq
  have e : ofLanes ls = BitVec.ofNat 512 (leNat ((ls.map BitVec.toNat).flatMap fun n => leBytes n 4)) := by
    unfold ofLanes Line.ofBytes; rw [List.flatMap_map]
  have hlen : ((ls.map BitVec.toNat).flatMap fun n => leBytes n 4).length = 64 := by
    rw [List.length_flatMap, List.map_map, show ((fun x => (leBytes x 4).length) ∘ BitVec.toNat : Word → Nat) = fun _ => 4 by
      funext x; simp]
    simp [h]
  have hlt : leNat ((ls.map BitVec.toNat).flatMap fun n => leBytes n 4) < 2 ^ 512 := by
    have := leNat_lt ((ls.map BitVec.toNat).flatMap fun n => leBytes n 4)
    rw [hlen] at this
    exact Nat.lt_of_lt_of_eq this (by rw [show (256 : Nat) = 2 ^ 8 from rfl, ← pow_mul])
  have hb := leNat_flatMap 4 (fun n => leBytes n 4) (fun _ => length_leBytes _ _) (ls.map BitVec.toNat) l (by simpa [h] using hl)
  have h2 : (ls[l]'(h ▸ hl)).toNat < 256 ^ 4 := (ls[l]'(h ▸ hl)).isLt
  rw [e]
  unfold lane
  rw [BitVec.extractLsb'_toNat, BitVec.toNat_ofNat, Nat.mod_eq_of_lt hlt, Nat.shiftRight_eq_div_pow]
  rw [leNat_leBytes, List.getElem_map, Nat.mod_eq_of_lt h2] at hb
  rw [← hb, show (2 : Nat) ^ (32 * l) = 256 ^ (4 * l) by rw [show (256 : Nat) = 2 ^ 8 from rfl, ← pow_mul]; congr 1; ring,
    show (2 : Nat) ^ 32 = 256 ^ 4 from rfl]

end Sys2Proof
end

