-- ==== Sys2Proof/Laws/Run.lean ====
section
/-!
SUPPORT. Laws/Run.lean: how a command's change of the device becomes the next state: the guards of service and boot, and the
wait for lines that are not at hand.
-/
namespace Sys2Proof.Machine

/-- A change whose reads are all at hand takes effect. -/
theorem Dev.attempt_now (d : Dev) (f : Dev → Dev) (ho : d.out = []) (h : d.runsNow f) : d.attempt f = d.after (f d.seen) := by
  have e : ({ d with rcl := { d.rcl with missed := false } } : Dev) = d.seen := by
    unfold Dev.seen; rw [← ho]
  unfold Dev.attempt
  simp only [e]
  have h' : (f d.seen).rcl.missed = false := h
  rw [if_neg (by simp [h'])]
  rfl

/-- In service, a command whose reads are all at hand answers the state that its change makes. -/
theorem run_inService (s : State) (f : Dev → Dev) (hs : s.dev.serving = true) (h : s.dev.runsNow f) :
    s.run (fun d => d.inService f) = .next { s with dev := s.dev.after (f s.dev.seen) } := by
  have e := Dev.attempt_now { s.dev with out := [] } f rfl h
  have hs' : Dev.serving { s.dev with out := [] } = true := hs
  unfold State.run Dev.inService
  simp only [hs', if_true, e]
  rfl

/-- The same from the time the links train on. -/
theorem run_inBoot (s : State) (f : Dev → Dev) (hs : s.dev.booted = true) (h : s.dev.runsNow f) :
    s.run (fun d => d.inBoot f) = .next { s with dev := s.dev.after (f s.dev.seen) } := by
  have e := Dev.attempt_now { s.dev with out := [] } f rfl h
  have hs' : Dev.booted { s.dev with out := [] } = true := hs
  unfold State.run Dev.inBoot
  simp only [hs', if_true, e]
  rfl

/-- Out of service a guarded command changes nothing. -/
theorem run_notServing (s : State) (f : Dev → Dev) (hs : s.dev.serving = false) :
    s.run (fun d => d.inService f) = .next { s with dev := { s.dev with out := [] } } := by
  have hs' : Dev.serving { s.dev with out := [] } = false := hs
  unfold State.run Dev.inService
  simp [hs']

theorem run_notBooted (s : State) (f : Dev → Dev) (hs : s.dev.booted = false) :
    s.run (fun d => d.inBoot f) = .next { s with dev := { s.dev with out := [] } } := by
  have hs' : Dev.booted { s.dev with out := [] } = false := hs
  unfold State.run Dev.inBoot
  simp [hs']

/-- A quiet change misses no read. -/
theorem Dev.runsNow_quiet (d : Dev) (f : Dev → Dev) (h : d.seen.Quiet (f d.seen)) : d.runsNow f := h.missed

end Sys2Proof.Machine
end

