-- ==== Sys2Proof/Laws/Issue.lean ====
section
/-!
SUPPORT. Laws/Issue.lean: everything that a clause word does when it issues (R150 to R153): which registers it writes with
what, that it leaves every other register, and what it adds to the escape buffer and to the loads in flight.
-/
namespace Sys2Proof.Machine

/-! ## Registers -/

theorem getLsbD_setBit {w : Nat} (x : BitVec w) (i j : Nat) (b : Bool) (hj : j < w) :
    (setBit x i b).getLsbD j = if i = j then b else x.getLsbD j := by
  have e : (BitVec.ofNat w (2 ^ i)).getLsbD j = decide (i = j) := by
    rw [BitVec.getLsbD_ofNat, Nat.testBit_two_pow]; simp [hj]
  unfold setBit
  generalize BitVec.ofNat w (2 ^ i) = m at e
  by_cases h : i = j
  · rw [decide_eq_true h] at e
    cases b <;> simp [BitVec.getLsbD_or, BitVec.getLsbD_and, BitVec.getLsbD_not, -BitVec.getLsbD_eq_getElem, e, h, hj]
  · rw [decide_eq_false h] at e
    cases b <;> simp [BitVec.getLsbD_or, BitVec.getLsbD_and, BitVec.getLsbD_not, -BitVec.getLsbD_eq_getElem, e, h, hj]

theorem Snap.get_wr_other (r : Snap) (x y : Dest) (v : Line) (h : x ≠ y) : (r.wr x v).get y = r.get y := by
  cases x with
  | s i =>
    simp only [Snap.wr]; split
    · rfl
    · cases y with
      | s j =>
        have hij : i ≠ j := fun e => h (by rw [e])
        have hv : i.toNat ≠ j.toNat := fun e => hij (BitVec.eq_of_toNat_eq e)
        simp [Snap.get, Snap.sr, hv]
      | p j => rfl
      | v j => rfl
  | p i =>
    simp only [Snap.wr]; split
    · rfl
    · cases y with
      | s j => rfl
      | v j => rfl
      | p j =>
        have hij : i ≠ j := fun e => h (by rw [e])
        have hv : i.toNat ≠ j.toNat := fun e => hij (BitVec.eq_of_toNat_eq e)
        have hb := getLsbD_setBit r.p i.toNat j.toNat (v.getLsbD 0) j.isLt
        rw [if_neg hv] at hb
        simp only [Snap.get, Snap.pr, hb]
  | v i =>
    cases y with
    | s j => rfl
    | p j => rfl
    | v j =>
      have hij : i ≠ j := fun e => h (by rw [e])
      have hv : i.toNat ≠ j.toNat := fun e => hij (BitVec.eq_of_toNat_eq e)
      simp [Snap.wr, Snap.get, Snap.vr, hv]

/-- What a register holds after a write: s0 and p0 keep their constants (R149). -/
def Dest.held (x : Dest) (v : Line) : Line :=
  match x with
  | .s i => if i = 0 then 0 else (BitVec.setWidth 64 v).setWidth 512
  | .p i => if i = 0 then bitLine true else bitLine (v.getLsbD 0)
  | .v _ => v

theorem Snap.get_wr_same (r : Snap) (x : Dest) (v : Line) : (r.wr x v).get x = x.held v := by
  cases x with
  | s i =>
    by_cases h : i = 0
    · subst h; simp [Snap.get, Snap.sr, Dest.held]
    · simp only [Snap.wr, Snap.get, Snap.sr, Dest.held, if_neg h, Vector.getElem_set_self]
  | p i =>
    by_cases h : i = 0
    · subst h; simp [Snap.get, Snap.pr, Dest.held]
    · have hi : i.toNat < 8 := i.isLt
      have hb := getLsbD_setBit r.p i.toNat i.toNat (v.getLsbD 0) hi
      rw [if_pos rfl] at hb
      simp only [Snap.wr, Snap.get, Snap.pr, Dest.held, if_neg h, hb]
  | v i => simp [Snap.wr, Snap.get, Snap.vr, Dest.held]

/-- The registers after a list of writes. -/
def Snap.writes (r : Snap) (l : List (Dest × Line)) : Snap := l.foldl (fun r y => r.wr y.1 y.2) r

theorem Snap.get_writes_other (r : Snap) (l : List (Dest × Line)) (y : Dest) (h : ∀ p ∈ l, p.1 ≠ y) :
    (r.writes l).get y = r.get y := by
  induction l generalizing r with
  | nil => rfl
  | cons p l ih =>
    have := ih (r.wr p.1 p.2) fun q hq => h q (List.mem_cons_of_mem _ hq)
    exact this.trans (Snap.get_wr_other _ _ _ _ (h p List.mem_cons_self))

/-- Of writes to distinct registers each is read back; one to s0 or p0 is not (R149). -/
theorem Snap.get_writes_mem (r : Snap) (l : List (Dest × Line)) (y : Dest) (v : Line) (hm : (y, v) ∈ l)
    (hc : (l.map Prod.fst).count y ≤ 1) : (r.writes l).get y = y.held v := by
  induction l generalizing r with
  | nil => simp at hm
  | cons p l ih =>
    by_cases e : p.1 = y
    · have hc' : (l.map Prod.fst).count y = 0 := by
        simp only [List.map_cons, List.count_cons, e, beq_self_eq_true, if_true] at hc; omega
      have hn : ∀ q ∈ l, q.1 ≠ y := fun q hq e' =>
        (List.count_eq_zero.mp hc') (List.mem_map.mpr ⟨q, hq, e'⟩)
      have hp : p = (y, v) := by
        rcases List.mem_cons.mp hm with h | h
        · exact h.symm
        · exact absurd rfl (hn _ h)
      subst hp
      exact (Snap.get_writes_other _ l y hn).trans (Snap.get_wr_same ..)
    · have hm' : (y, v) ∈ l := by
        rcases List.mem_cons.mp hm with h | h
        · exact absurd (by rw [← h]) e
        · exact h
      have hc' : (l.map Prod.fst).count y ≤ 1 := by
        simp only [List.map_cons, List.count_cons] at hc; omega
      exact ih (r.wr p.1 p.2) hm' hc'

/-! ## The slots that act -/

theorem pickSlot_some {α : Type} {g u n : Bool} {x y : α} (h : pickSlot g u n x = some y) :
    y = x ∧ g = true ∧ u = false ∧ n = false := by
  unfold pickSlot at h
  split at h
  · next hc =>
    simp only [Bool.and_eq_true, Bool.not_eq_true'] at hc
    exact ⟨(Option.some.inj h).symm, hc.1.1, hc.1.2, hc.2⟩
  · cases h

theorem pickSlot_acts {α : Type} {g u n : Bool} (x : α) (hg : g = true) (hu : u = false) (hn : n = false) :
    pickSlot g u n x = some x := by simp [pickSlot, hg, hu, hn]

/-- What LEA, the V slot and a scalar slot of a word write. -/
def Acts.leaWrite (x : Acts) (r : Snap) : List (Dest × Line) :=
  match x.a with
  | some f => if f.op = 0x10 then [(Dest.s f.rd, BitVec.ofNat 512 (f.ea r))] else []
  | none => []
def Acts.vWrite (x : Acts) (r : Snap) (rup : Line) : List (Dest × Line) :=
  match x.v with | some f => vWrites f r rup | none => []
def sWrite (d : Dev) (s0 : Bool) (f : Option SSlot) (r : Snap) : List (Dest × Line) :=
  match f with | some f => sWrites d s0 f r | none => []

/-- Registers that the slots of a word write at its issue, with their values; `pw` by the wait, `rup` the word that RURD
reads. -/
def Acts.regWrites (x : Acts) (d : Dev) (r : Snap) (rup : Line) (pw : List (Dest × Line)) : List (Dest × Line) :=
  x.leaWrite r ++ x.vWrite r rup ++ (sWrite d false x.s1 r ++ sWrite d true x.s0 r) ++ pw

/-- Effects that the slots of a word add to the escape buffer. -/
def Acts.effects (x : Acts) (r : Snap) (cb : List RByte) : List Effect :=
  x.ownStore r ++ (match x.t with | some f => [tensorOf f r] | none => []) ++
    (match x.v with | some f => if f.op = 0x20 then [Effect.rup f.epi (f.ix.setWidth 4) (r.vr f.va)] else [] | none => []) ++
    (match x.a with | some f => if f.op = 0x11 then [Effect.ldtld f.ldti] else [] | none => []) ++
    (match x.q with | some f => qEffects f r cb | none => [])

/-- The processor after a word has issued: the registers `r'` and the effects `es`. -/
def Cp.issued (cp : Cp) (x : Acts) (r' : Snap) (es : List Effect) : Cp :=
  Cp.checkpoint
    { cp with
      r := r', lastPc := cp.r.pc, st := .running, awaited := 0, twait := none, escape := cp.escape ++ es
      prog := cp.prog.map fun p => if x.qIs 7 then { p with ending := true } else p }

/-- The word that the RURD of a word reads. -/
def Dev.rupRead (d : Dev) (c : CtxId) (x : Acts) : Line :=
  match x.v with | some f => (if f.op = 0x21 then d.rupSeen c f.epi f.ix.toNat else 0) | none => 0

/-- The registers after a word has issued on device `d`, with the loads `ls` added to those in flight. -/
def Dev.issuedRegs (d : Dev) (c : CtxId) (x : Acts) (r : Snap) (pw : List (Dest × Line)) (ls : List Load) : Snap :=
  { r.writes (x.regWrites d r (d.rupRead c x) pw) with
    pc := if x.qIs 7 then r.pc else nextPc x.s1 r, loads := r.loads ++ ls }

/-- The issue of a word, part by part. -/
theorem Dev.issueWord_eq (d : Dev) (c : CtxId) (q : QId) (x : Acts) (pw : List (Dest × Line)) (cb : List RByte)
    (hc : (d.loadsOf c q x).2.ctx[c].cp = d.ctx[c].cp) :
    d.issueWord c q x pw cb =
      (d.loadsOf c q x).2.modCp c fun cp =>
        cp.issued x ((d.loadsOf c q x).2.issuedRegs c x d.ctx[c].cp.r pw (d.loadsOf c q x).1) (x.effects d.ctx[c].cp.r cb) := by
  have e : d.issueWord c q x pw cb =
      (d.loadsOf c q x).2.modCp c fun cp =>
        Cp.checkpoint
          { cp with
            r := (d.loadsOf c q x).2.issuedRegs c x d.ctx[c].cp.r pw (d.loadsOf c q x).1
            lastPc := d.ctx[c].cp.r.pc, st := .running, awaited := 0, twait := none
            escape := cp.escape ++ x.effects d.ctx[c].cp.r cb
            prog := cp.prog.map fun p => if x.qIs 7 then { p with ending := true } else p } := by
    unfold Dev.issueWord Dev.loadsOf Dev.issuedRegs Acts.regWrites Acts.leaWrite Acts.vWrite sWrite Acts.effects Dev.rupRead
      Snap.writes
    cases x.a with
    | none => cases x.v <;> rfl
    | some f =>
      dsimp only
      by_cases h : f.isLoad = true
      · simp only [h, if_true]; cases x.v <;> rfl
      · simp only [h]; cases x.v <;> rfl
  rw [e]
  refine Dev.modCp_congr _ _ ?_
  unfold Cp.issued
  rw [hc]

/-! ## Reads of a word leave the processors -/

theorem Dev.still_issueLoad (d : Dev) (c : CtxId) (q : QId) (f : ASlot) (r : Snap) : d.Still (d.issueLoad c q f r).2 := by
  unfold Dev.issueLoad
  dsimp only
  split
  · refine still_foldl_snd _ (fun x l => ?_) _ (_, d)
    split
    · exact Dev.still_loadSpace ..
    · exact (Dev.quiet_want ..).still
  · exact d.still_loadSpace ..

theorem Dev.still_loadsOf (d : Dev) (c : CtxId) (q : QId) (x : Acts) : d.Still (d.loadsOf c q x).2 := by
  unfold Dev.loadsOf
  split
  · split
    · exact d.still_issueLoad ..
    · exact .refl d
  · exact .refl d

theorem Dev.still_cmdRead (d : Dev) (c : CtxId) (q : QId) (x : Acts) : d.Still (d.cmdRead c q x).2 := by
  unfold Dev.cmdRead Dev.cmdBytes
  split
  · split
    · exact d.still_loadSpace ..
    · exact .refl d
  · exact .refl d

/-! ## Which registers a word writes -/

/-- The destinations among the resources that a word writes. -/
def Res.dest? : Res → Option Dest | .d x => some x | .ldt _ => none

theorem Acts.of_q {r : Snap} {w : ClauseWord} {f : QSlot} (h : (Acts.of r w).q = some f) :
    f = w.q ∧ r.guard w.q.gp w.q.gn = true ∧ f.undefined = false ∧ f.op ≠ 0 := by
  obtain ⟨e, g, u, n⟩ := pickSlot_some h
  subst e; exact ⟨rfl, g, u, by simpa using n⟩
theorem Acts.of_t {r : Snap} {w : ClauseWord} {f : TSlot} (h : (Acts.of r w).t = some f) :
    f = w.t ∧ r.guard w.t.gp w.t.gn = true ∧ f.undefined = false ∧ f.op ≠ 0 := by
  obtain ⟨e, g, u, n⟩ := pickSlot_some h
  subst e; exact ⟨rfl, g, u, by simpa using n⟩
theorem Acts.of_v {r : Snap} {w : ClauseWord} {f : VSlot} (h : (Acts.of r w).v = some f) :
    f = w.v ∧ r.guard w.v.gp w.v.gn = true ∧ f.undefined = false ∧ f.op ≠ 0 := by
  obtain ⟨e, g, u, n⟩ := pickSlot_some h
  subst e; exact ⟨rfl, g, u, by simpa using n⟩
theorem Acts.of_a {r : Snap} {w : ClauseWord} {f : ASlot} (h : (Acts.of r w).a = some f) :
    f = w.a ∧ r.guard w.a.gp w.a.gn = true ∧ f.undefined = false ∧ f.op ≠ 0 := by
  obtain ⟨e, g, u, n⟩ := pickSlot_some h
  subst e; exact ⟨rfl, g, u, by simpa using n⟩

theorem vUse_of_defined {f : VSlot} (h : f.undefined = false) (h0 : f.op ≠ 0) : ∃ u, f.use = some u := by
  unfold VSlot.undefined at h
  rw [if_neg h0] at h
  cases e : f.use with
  | none => simp [e] at h
  | some u => exact ⟨u, rfl⟩

theorem toNat_op {n : Nat} {f : BitVec 8} (hn : n < 256) : f = BitVec.ofNat 8 n ↔ f.toNat = n := by
  constructor
  · intro h; subst h; simp [Nat.mod_eq_of_lt hn]
  · intro h; exact BitVec.eq_of_toNat_eq (by simp [h, Nat.mod_eq_of_lt hn])

/-- The registers a V slot writes are those it names as written (R185). -/
theorem vWrites_dests (f : VSlot) (r : Snap) (rup : Line) (hu : f.undefined = false) (h0 : f.op ≠ 0) :
    ((vWrites f r rup).map fun (p : Dest × Line) => Res.d p.1) = VSlot.writes f := by
  obtain ⟨u, e⟩ := vUse_of_defined hu h0
  unfold vWrites VSlot.writes
  rw [e]
  dsimp only
  by_cases h1 : f.op = 0x20
  · have : f.op.toNat = 32 := by rw [h1]; rfl
    unfold VSlot.use at e; rw [this] at e
    have e' := Option.some.inj e
    subst e'
    rw [if_pos h1, if_neg (by rw [h1]; decide)]; rfl
  · rw [if_neg h1]
    by_cases h2 : f.op = 0xB
    · rw [if_pos h2, if_pos h2]; rfl
    · rw [if_neg h2, if_neg h2]
      have hv : u.vd = true := by
        unfold VSlot.use at e
        have n1 : f.op.toNat ≠ 32 := fun g => h1 ((toNat_op (by decide)).mpr g)
        have n2 : f.op.toNat ≠ 11 := fun g => h2 ((toNat_op (by decide)).mpr g)
        split at e <;> first | (cases e; done) | (have e' := Option.some.inj e; subst e'; first | rfl | (exfalso; omega))
      rw [if_pos hv]; rfl

theorem sWrites_dests (d : Dev) (s0 : Bool) (f : SSlot) (r : Snap) :
    ((sWrites d s0 f r).map fun (p : Dest × Line) => Res.d p.1) = SSlot.writes s0 f := by
  unfold sWrites SSlot.writes
  cases sForm s0 f.op <;> rfl

theorem qWait_dests {d : Dev} {c : CtxId} {f : QSlot} {pw : List (Dest × Line)} (h : d.qWait c f = some pw) :
    (pw.map fun (p : Dest × Line) => Res.d p.1) = QSlot.writes f := by
  by_cases h1 : f.op.toNat = 1
  · simp only [Dev.qWait, QSlot.writes, h1] at h ⊢
    split at h <;> first | (cases h; done) | (cases h; rfl)
  by_cases h4 : f.op.toNat = 4
  · simp only [Dev.qWait, QSlot.writes, h4] at h ⊢
    repeat' (first | (cases h; done) | (cases h; rfl) | split at h)
  simp only [Dev.qWait, QSlot.writes, h1, h4] at h ⊢
  cases h
  rfl

/-- A word writes each register that its slots name as written at most as often as they name it. -/
theorem Acts.count_regWrites {r : Snap} {w : ClauseWord} {d : Dev} {rr : Snap} {rup : Line} {pw : List (Dest × Line)}
    (hp : pw.map (fun (p : Dest × Line) => Res.d p.1) = uses (Acts.of r w).q QSlot.writes) (y : Dest) (hy : (Res.d y).real = true) :
    (((Acts.of r w).regWrites d rr rup pw).map Prod.fst).count y ≤ (Acts.of r w).writes.count (Res.d y) := by
  have inj : ∀ l : List (Dest × Line), (l.map Prod.fst).count y = (l.map fun (p : Dest × Line) => Res.d p.1).count (Res.d y) := by
    intro l
    have e : (l.map fun (p : Dest × Line) => Res.d p.1) = (l.map Prod.fst).map Res.d := by simp
    rw [e, List.count_map_of_injective _ Res.d fun a b h => by injection h]
  have hx : (Acts.of r w).writes.count (Res.d y) =
      (uses (Acts.of r w).q QSlot.writes).count (Res.d y) + (uses (Acts.of r w).v VSlot.writes).count (Res.d y) +
      (uses (Acts.of r w).a ASlot.writes).count (Res.d y) + (uses (Acts.of r w).s1 (SSlot.writes false)).count (Res.d y) +
      (uses (Acts.of r w).s0 (SSlot.writes true)).count (Res.d y) := by
    unfold Acts.writes
    rw [List.count_filter hy]
    simp only [List.count_append]
  rw [hx, inj]
  unfold Acts.regWrites
  simp only [List.map_append, List.count_append, hp]
  have ha : (((Acts.of r w).leaWrite rr).map fun (p : Dest × Line) => Res.d p.1).count (Res.d y) ≤
      (uses (Acts.of r w).a ASlot.writes).count (Res.d y) := by
    unfold Acts.leaWrite
    cases (Acts.of r w).a with
    | none => simp
    | some f =>
      dsimp only
      by_cases h : f.op = 0x10
      · have : f.op.toNat = 16 := by rw [h]; rfl
        simp [h, uses, ASlot.writes, rs]
      · rw [if_neg h]; exact Nat.zero_le _
  have hv : (((Acts.of r w).vWrite rr rup).map fun (p : Dest × Line) => Res.d p.1).count (Res.d y)
      ≤ (uses (Acts.of r w).v VSlot.writes).count (Res.d y) := by
    unfold Acts.vWrite
    cases e : (Acts.of r w).v with
    | none => simp
    | some f =>
      obtain ⟨_, _, hu, h0⟩ := Acts.of_v e
      simp only [uses, Option.map_some, Option.getD_some, vWrites_dests f rr rup hu h0, Nat.le_refl]
  have hs : ∀ (b : Bool) (o : Option SSlot), ((sWrite d b o rr).map fun (p : Dest × Line) => Res.d p.1).count (Res.d y) ≤
      (uses o (SSlot.writes b)).count (Res.d y) := by
    intro b o
    unfold sWrite
    cases o with
    | none => simp
    | some f => simp only [uses, Option.map_some, Option.getD_some, sWrites_dests, Nat.le_refl]
  have h1 := hs false (Acts.of r w).s1
  have h2 := hs true (Acts.of r w).s0
  omega

/-- The wait of a word writes what its Q slot names. -/
theorem Dev.waitWrites_dests {d : Dev} {c : CtxId} {x : Acts} {pw : List (Dest × Line)} (h : d.waitWrites c x = some pw) :
    pw.map (fun (p : Dest × Line) => Res.d p.1) = uses x.q QSlot.writes := by
  unfold Dev.waitWrites at h
  cases e : x.q with
  | none => rw [e] at h; cases h; rfl
  | some f => rw [e] at h; simp [uses, qWait_dests h]

/-! ## The issue of a word -/

theorem Cp.checkpoint_r (p : Cp) : p.checkpoint.r = p.r := by unfold Cp.checkpoint; split <;> rfl
theorem Cp.checkpoint_prog (p : Cp) : p.checkpoint.prog = p.prog := by unfold Cp.checkpoint; split <;> rfl
theorem Cp.checkpoint_failed (p : Cp) : p.checkpoint.failed = p.failed := by unfold Cp.checkpoint; split <;> rfl
theorem Cp.checkpoint_ibuf (p : Cp) : p.checkpoint.ibuf = p.ibuf := by unfold Cp.checkpoint; split <;> rfl
theorem Cp.checkpoint_fence (p : Cp) : p.checkpoint.fence = p.fence := by unfold Cp.checkpoint; split <;> rfl
theorem Cp.checkpoint_poison (p : Cp) : p.checkpoint.poison = p.poison := by unfold Cp.checkpoint; split <;> rfl
/-- A checkpoint loses no effect and keeps their order (R171). -/
theorem Cp.checkpoint_escaped (p : Cp) : p.checkpoint.escaped = p.escaped := by
  unfold Cp.checkpoint
  split
  · next h =>
    have hn : p.ckpt = none := Option.isNone_iff_eq_none.mp h.1
    simp [Cp.escaped, hn]
  · rfl

theorem Cp.issued_r (cp : Cp) (x : Acts) (r' : Snap) (es : List Effect) : (cp.issued x r' es).r = r' :=
  Cp.checkpoint_r _
theorem Cp.issued_fence (cp : Cp) (x : Acts) (r' : Snap) (es : List Effect) : (cp.issued x r' es).fence = cp.fence :=
  Cp.checkpoint_fence _
theorem Cp.issued_poison (cp : Cp) (x : Acts) (r' : Snap) (es : List Effect) : (cp.issued x r' es).poison = cp.poison :=
  Cp.checkpoint_poison _
theorem Cp.issued_escaped (cp : Cp) (x : Acts) (r' : Snap) (es : List Effect) :
    (cp.issued x r' es).escaped = cp.escaped ++ es := by
  unfold Cp.issued
  rw [Cp.checkpoint_escaped]
  unfold Cp.escaped
  simp only [List.append_assoc]

/-- After a word that ends the program no word can issue. -/
theorem Cp.issued_ready (cp : Cp) (x : Acts) (r' : Snap) (es : List Effect) (g : Program) (hg : cp.ready = some g) :
    (cp.issued x r' es).ready = if x.qIs 7 then none else some g := by
  have hp : cp.prog = some g ∧ g.faulted.isNone = true ∧ g.ending = false ∧ cp.failed = false := by
    unfold Cp.ready at hg
    split at hg
    · next g' e =>
      split at hg
      · next hc =>
        simp only [Bool.and_eq_true, Bool.not_eq_true'] at hc
        cases hg; exact ⟨e, hc.1.1, hc.1.2, hc.2⟩
      · cases hg
    · cases hg
  obtain ⟨hp, hf, he, hd⟩ := hp
  have ep : (cp.issued x r' es).prog = some (if x.qIs 7 then { g with ending := true } else g) := by
    unfold Cp.issued; rw [Cp.checkpoint_prog]; simp only [hp, Option.map_some]
  have ed : (cp.issued x r' es).failed = false := by
    unfold Cp.issued; rw [Cp.checkpoint_failed]; exact hd
  unfold Cp.ready; rw [ep, ed]
  by_cases hq : x.qIs 7 = true
  · simp only [hq, if_true, Bool.not_true, Bool.and_false, Bool.false_and, Bool.false_eq_true, if_false]
  · simp only [hq, if_false, hf, he, Bool.not_false, Bool.and_true, if_true, Bool.false_eq_true]

/-- The check of the word that comes next finds nothing where `nextOk` holds. -/
theorem Dev.fetchCheck_issued (d : Dev) (c : CtxId) (x : Acts) (r' : Snap) (es : List Effect) (g : Program)
    (hg : d.ctx[c].cp.ready = some g) (hn : d.ctx[c].cp.nextOk g x = true)
    (hpc : r'.pc = if x.qIs 7 then d.ctx[c].cp.r.pc else nextPc x.s1 d.ctx[c].cp.r) :
    (d.modCp c fun cp => cp.issued x r' es).fetchCheck c = d.modCp c fun cp => cp.issued x r' es := by
  have er := Cp.issued_ready d.ctx[c].cp x r' es g hg
  unfold Dev.fetchCheck
  rw [Dev.modCp_same]
  dsimp only
  rw [er]
  generalize d.ctx[c].cp = cp at hn hpc
  unfold Cp.nextOk at hn
  by_cases hq : x.qIs 7 = true
  · rw [if_pos hq]
  · rw [if_neg hq] at hpc ⊢
    have eb : (cp.issued x r' es).ibuf = cp.ibuf := Cp.checkpoint_ibuf _
    simp only [hq, Bool.false_or, Bool.and_eq_true, decide_eq_true_eq] at hn
    obtain ⟨h1, h2⟩ := hn
    dsimp only
    rw [Cp.issued_r, hpc, eb, if_neg (Nat.not_le.mpr h1)]
    split
    · next e => rw [e] at h2; cases h2
    · rfl

/-- How a word is tried, in the terms of Safety.lean. -/
theorem Dev.tryWord_eq (d : Dev) (c : CtxId) (q : QId) (w : ClauseWord) :
    d.tryWord c q w =
      let x := Acts.of d.ctx[c].cp.r w
      if x.waitsResult d.ctx[c].cp.r then d.holdWord c .stalled
      else
        match d.waitWrites c x with
        | none =>
          if (x.q.getD {}).op = 1 then d.holdWord c .waiting (x.q.getD {}).f else d.holdWord c .waiting 0 (some (x.q.getD {}).ci)
        | some pw =>
          if !d.roomFor c q x then d.holdWord c .stalled
          else if d.wordFault c x ≠ 0 then d.faultHere c (d.wordFault c x)
          else
            match d.cmdAwaits c x with
            | some a => (d.want a).holdWord c .stalled
            | none =>
              match cmdFault x (d.cmdRead c q x).1 with
              | 0 => (d.cmdRead c q x).2.issueWord c q x pw (d.cmdRead c q x).1
              | 6 => (d.cmdRead c q x).2.faultHere c 6
              | cls => d.faultHere c cls := rfl

/-- A word that issues: what the processor holds after it, on a device that its reads have left otherwise as it was. -/
theorem Dev.clause_issue (d : Dev) (c : CtxId) (w : ClauseWord) (h : d.issues c w = true) :
    ∃ (g : Program) (l : Cmd) (pw : List (Dest × Line)) (cb : List RByte) (ls : List Load) (d' : Dev),
      d.ctx[c].cp.ready = some g ∧ d.launchOf c = some l ∧ d.waitWrites c (Acts.of d.ctx[c].cp.r w) = some pw ∧
      cb = (d.cmdRead c l.q (Acts.of d.ctx[c].cp.r w)).1 ∧
      (ls, d') = (d.cmdRead c l.q (Acts.of d.ctx[c].cp.r w)).2.loadsOf c l.q (Acts.of d.ctx[c].cp.r w) ∧
      d.wordFault c (Acts.of d.ctx[c].cp.r w) = 0 ∧
      d.Still d' ∧ d'.rcl.missed = false ∧
      d.clause c w = d'.modCp c fun cp =>
        cp.issued (Acts.of cp.r w) (d'.issuedRegs c (Acts.of cp.r w) cp.r pw ls) ((Acts.of cp.r w).effects cp.r cb) := by
  unfold Dev.issues at h
  dsimp only at h
  generalize hx : Acts.of d.ctx[c].cp.r w = x at h ⊢
  cases hg : d.ctx[c].cp.ready with
  | none => rw [hg] at h; cases h
  | some g =>
    cases hl : d.launchOf c with
    | none => rw [hg, hl] at h; cases h
    | some l =>
      rw [hg, hl] at h
      simp only [Bool.and_eq_true, Bool.not_eq_true', decide_eq_true_eq] at h
      obtain ⟨⟨⟨⟨⟨⟨⟨⟨hb, hw⟩, hq⟩, hr⟩, hf⟩, hc⟩, hz⟩, hm⟩, hn⟩ := h
      obtain ⟨pw, hpw⟩ := Option.isSome_iff_exists.mp hq
      have hs1 := d.still_cmdRead c l.q x
      have hs2 := (d.cmdRead c l.q x).2.still_loadsOf c l.q x
      refine ⟨g, l, pw, _, _, _, rfl, rfl, hpw, rfl, rfl, hf, .trans' hs2 hs1, hm, ?_⟩
      have hcp1 := hs1.cp c
      have hcp2 := hs2.cp c
      have ht : d.tryWord c l.q w = (d.cmdRead c l.q x).2.issueWord c l.q x pw (d.cmdRead c l.q x).1 := by
        rw [Dev.tryWord_eq, hx]
        dsimp only
        have hc' : d.cmdAwaits c x = none := Option.isNone_iff_eq_none.mp hc
        rw [hw, hpw]
        dsimp only
        rw [hr, hf, hc', hz]
        rfl
      have hi := Dev.issueWord_eq (d.cmdRead c l.q x).2 c l.q x pw (d.cmdRead c l.q x).1 hcp2
      unfold Dev.clause
      dsimp only
      rw [hg, hl]
      dsimp only
      have hfin : (d.tryWord c l.q w).fetchCheck c =
          ((d.cmdRead c l.q x).2.loadsOf c l.q x).2.modCp c fun cp =>
            cp.issued (Acts.of cp.r w)
              (((d.cmdRead c l.q x).2.loadsOf c l.q x).2.issuedRegs c (Acts.of cp.r w) cp.r pw
                ((d.cmdRead c l.q x).2.loadsOf c l.q x).1)
              ((Acts.of cp.r w).effects cp.r (d.cmdRead c l.q x).1) := by
        rw [ht, hi, hcp1]
        have hcp : ((d.cmdRead c l.q x).2.loadsOf c l.q x).2.ctx[c].cp = d.ctx[c].cp := hcp2.trans hcp1
        rw [Dev.fetchCheck_issued _ c x _ _ g (by rw [hcp]; exact hg) (by rw [hcp]; exact hn) (by rw [hcp]; rfl)]
        refine Dev.modCp_congr _ _ ?_
        rw [hcp, hx]
      split
      · next e =>
        rw [e] at hb
        simp only [decide_eq_true_eq] at hb
        rw [if_pos hb]; exact hfin
      · exact hfin

end Sys2Proof.Machine
end

