-- ==== Sys2Proof/Laws/Memory.lean ====
section
/-!
SUPPORT. Laws/Memory.lean: sparse tables read what was written, every operation of memory keeps the canonical form, and a
write changes no byte outside its range.
-/
namespace Sys2Proof.Machine

section Table
variable {α : Type} [DecidableEq α] {z v : α} {k j : Nat} {l : List (Nat × α)}

/-- Every entry of a table that has had `v` put at `k` was there before or is `(k, v)`. -/
theorem mem_alPut {p : Nat × α} (h : p ∈ alPut z k v l) : p ∈ l ∨ (p = (k, v) ∧ v ≠ z) := by
  induction l with
  | nil =>
    unfold alPut at h
    split at h
    · simp at h
    · exact .inr ⟨by simpa using h, ‹_›⟩
  | cons q l ih =>
    obtain ⟨k', v'⟩ := q
    simp only [alPut] at h
    split_ifs at h
    · exact .inl h
    · rcases List.mem_cons.1 h with rfl | h
      · exact .inr ⟨rfl, ‹_›⟩
      · exact .inl h
    · exact .inl (List.mem_cons_of_mem _ h)
    · rcases List.mem_cons.1 h with rfl | h
      · exact .inr ⟨rfl, ‹_›⟩
      · exact .inl (List.mem_cons_of_mem _ h)
    · rcases List.mem_cons.1 h with rfl | h
      · exact .inl (List.mem_cons_self ..)
      · exact (ih h).imp_left (List.mem_cons_of_mem _)

/-- Writing keeps the canonical form. -/
theorem alPut_wf (h : alWf z l) : alWf z (alPut z k v l) := by
  refine ⟨?_, fun p hp => (mem_alPut hp).elim (h.2 p) fun e => by rw [e.1]; exact e.2⟩
  obtain ⟨hs, -⟩ := h
  induction l with
  | nil => unfold alPut; split <;> simp
  | cons q l ih =>
    obtain ⟨k', v'⟩ := q
    obtain ⟨h1, h2⟩ := List.pairwise_cons.1 hs
    simp only [alPut]
    split_ifs with hlt hz heq hz
    · exact hs
    · refine List.pairwise_cons.2 ⟨fun p hp => ?_, hs⟩
      rcases List.mem_cons.1 hp with rfl | hp
      · exact hlt
      · exact Nat.lt_trans hlt (h1 p hp)
    · exact h2
    · subst heq; exact List.pairwise_cons.2 ⟨h1, h2⟩
    · refine List.pairwise_cons.2 ⟨fun p hp => ?_, ih h2⟩
      rcases mem_alPut hp with hp | ⟨rfl, -⟩
      · exact h1 p hp
      · exact Nat.lt_of_le_of_ne (Nat.le_of_not_lt hlt) (Ne.symm heq)

omit [DecidableEq α] in
/-- A key below every key of a table is not listed. -/
theorem alGet_of_lt (h : ∀ p ∈ l, k < p.1) : alGet z l k = z := by
  induction l with
  | nil => rfl
  | cons q l ih =>
    have := h q (List.mem_cons_self ..)
    simp only [alGet, if_neg (Nat.ne_of_lt this)]
    exact ih fun p hp => h p (List.mem_cons_of_mem _ hp)

/-- Reading after writing. -/
theorem alGet_alPut (hs : l.Pairwise (fun p q => p.1 < q.1)) :
    alGet z (alPut z k v l) j = if j = k then v else alGet z l j := by
  induction l with
  | nil => unfold alPut; split_ifs <;> simp_all [alGet]
  | cons q l ih =>
    obtain ⟨k', v'⟩ := q
    obtain ⟨h1, h2⟩ := List.pairwise_cons.1 hs
    have later : alGet z l k' = z := alGet_of_lt h1
    have below : k < k' → alGet z ((k', v') :: l) k = z := fun hlt =>
      alGet_of_lt fun p hp => (List.mem_cons.1 hp).elim (fun e => e ▸ hlt) fun hp => Nat.lt_trans hlt (h1 p hp)
    rcases Nat.lt_trichotomy k k' with hlt | rfl | hgt
    · simp only [alPut, if_pos hlt]
      split_ifs with hz hj hj
      · rw [hj, hz]; exact below hlt
      · rfl
      · simp [alGet, hj]
      · simp [alGet, hj]
    · simp only [alPut, lt_irrefl, if_false, if_true]
      split_ifs with hz hj hj
      · rw [hj, hz]; exact later
      · simp [alGet, hj]
      · simp [alGet, hj]
      · simp [alGet, hj]
    · simp only [alPut, if_neg (Nat.lt_asymm hgt), if_neg (Nat.ne_of_gt hgt), alGet, ih h2]
      by_cases hj : j = k
      · simp [hj, Nat.ne_of_gt hgt]
      · simp [hj]

omit [DecidableEq α] in
/-- Taking entries out keeps the canonical form. -/
theorem alWf_filter (f : Nat × α → Bool) (h : alWf z l) : alWf z (l.filter f) :=
  ⟨h.1.filter f, fun p hp => h.2 p (List.mem_filter.1 hp).1⟩

end Table

/-! ## Memory -/

theorem memPut_wf {m : List Host.Cell} (h : Memory.wf m) (k : Nat) (b : Byte) : Memory.wf (memPut m k b) := alPut_wf h

theorem memPuts_wf {m : List Host.Cell} (h : Memory.wf m) (k : Nat) (bs : List Byte) : Memory.wf (memPuts m k bs) := by
  induction bs generalizing m k with
  | nil => exact h
  | cons b bs ih => exact ih (memPut_wf h k b) (k + 1)

/-- Writes one after the other keep the canonical form. -/
theorem foldl_wf {β : Type} (l : List β) (f : List Host.Cell → β → List Host.Cell)
    (hf : ∀ m x, Memory.wf m → Memory.wf (f m x)) {m : List Host.Cell} (h : Memory.wf m) : Memory.wf (l.foldl f m) := by
  induction l generalizing m with
  | nil => exact h
  | cons x l ih => exact ih (hf m x h)

theorem memByte_memPut {m : List Host.Cell} (h : Memory.wf m) (k j : Nat) (b : Byte) :
    memByte (memPut m k b) j = if j = k then b else memByte m j := alGet_alPut h.1

/-- A byte outside a written range keeps what it held. -/
theorem memByte_memPuts_outside {m : List Host.Cell} (h : Memory.wf m) (k : Nat) (bs : List Byte) (j : Nat)
    (hj : j < k ∨ k + bs.length ≤ j) : memByte (memPuts m k bs) j = memByte m j := by
  induction bs generalizing m k with
  | nil => rfl
  | cons b bs ih =>
    simp only [List.length_cons] at hj
    have ne : j ≠ k := by omega
    rw [memPuts, ih (memPut_wf h k b) (k + 1) (by omega), memByte_memPut h, if_neg ne]

/-- A byte of a written range holds what was written. -/
theorem memByte_memPuts_inside {m : List Host.Cell} (h : Memory.wf m) (k : Nat) (bs : List Byte) (i : Nat)
    (hi : i < bs.length) : memByte (memPuts m k bs) (k + i) = bs[i] := by
  induction bs generalizing m k i with
  | nil => simp at hi
  | cons b bs ih =>
    cases i with
    | zero =>
      rw [memPuts, memByte_memPuts_outside (memPut_wf h k b) _ _ _ (.inl (by omega)), memByte_memPut h]
      simp
    | succ i =>
      simp only [List.length_cons, Nat.add_lt_add_iff_right] at hi
      rw [memPuts, show k + (i + 1) = k + 1 + i by omega, ih (memPut_wf h k b) (k + 1) i hi]
      simp

/-! ## The operations of the device that write memory -/

@[simp] theorem clearPoison_cells (m : Mem) (k n : Nat) : (m.clearPoison k n).cells = m.cells := rfl
@[simp] theorem setPoison_cells (m : Mem) (k : Nat) : (m.setPoison k).cells = m.cells := rfl

/-- Counting an event of a channel changes no byte of memory. -/
@[simp] theorem countCh_cells (d : Dev) (kind : Nat) (c : Fin 192) :
    (d.countCh kind c).mem.cells = d.mem.cells := rfl

theorem countChs_cells (l : List Nat) (f : Dev → Nat → Dev) (hf : ∀ d x, (f d x).mem.cells = d.mem.cells) (d : Dev) :
    (l.foldl f d).mem.cells = d.mem.cells := by
  induction l generalizing d with
  | nil => rfl
  | cons x l ih => rw [List.foldl_cons, ih, hf]

theorem plainPut_cells (d : Dev) (a : Nat) (bs : List Byte) (half : Bool) :
    (d.plainPut a bs half).mem.cells = memPuts d.mem.cells a (d.mem.merged a bs half) := by
  unfold Dev.plainPut; cases half <;> rfl

theorem lpddrPut_cells (d : Dev) (a : Nat) (bs : List Byte) (half : Bool) :
    (d.lpddrPut a bs half).mem.cells = memPuts d.mem.cells a (d.mem.merged a bs half) := by
  unfold Dev.lpddrPut
  simp only
  rw [countChs_cells _ _ fun d x => countCh_cells d 2 (d.mem.channel x)]
  split <;> rfl

/-! ## Whatever writes a record keeps the canonical form -/

/-- The memory of a device is in canonical form. -/
abbrev Dev.memOk (d : Dev) : Prop := Memory.wf d.mem.cells

theorem memOk_ite {p : Prop} [Decidable p] {a b : Dev} (h : a.memOk) (g : b.memOk) : (if p then a else b).memOk := by
  split <;> assumption

theorem memOk_foldl {α : Type} (f : Dev → α → Dev) (hf : ∀ (d : Dev) a, d.memOk → (f d a).memOk) (l : List α) {d : Dev}
    (h : d.memOk) : (l.foldl f d).memOk := by
  induction l generalizing d with
  | nil => exact h
  | cons a l ih => exact ih (hf d a h)

theorem memOk_foldl_fst {α β : Type} (f : Dev × β → α → Dev × β) (hf : ∀ (x : Dev × β) a, x.1.memOk → (f x a).1.memOk)
    (l : List α) (x : Dev × β) (h : x.1.memOk) : (l.foldl f x).1.memOk := by
  induction l generalizing x with
  | nil => exact h
  | cons a l ih => exact ih _ (hf x a h)

section
variable {d : Dev} (h : d.memOk)
include h

theorem ask_wf (line : Nat) (k : AskKind) (m : BitVec 128) : (d.ask line k m).memOk := by
  unfold Dev.ask; exact memOk_ite h (memOk_ite h h)
theorem probe_wf (line : Nat) (b : Bool) (m : BitVec 128) : (d.probe line b m).memOk := by
  unfold Dev.probe; exact memOk_ite h (memOk_ite h h)
theorem cacheLine_wf (line : Nat) (st : LineSt) : (d.cacheLine line st).memOk := by
  unfold Dev.cacheLine
  refine memOk_ite h ?_
  split
  · dsimp only; split <;> exact h
  · exact h
theorem touchWrite_wf (line i n : Nat) (half : Bool) : (d.touchWrite line i n half).memOk := by
  unfold Dev.touchWrite; split
  · exact h
  · exact cacheLine_wf h ..
  · exact ask_wf h ..
theorem dirWrite_wf (line i n : Nat) (half : Bool) : (d.dirWrite line i n half).memOk := by
  unfold Dev.dirWrite; exact memOk_ite (probe_wf h ..) h
theorem plainPut_wf (k : Nat) (bs : List Byte) (half : Bool) : (d.plainPut k bs half).memOk := by
  unfold Dev.memOk; rw [plainPut_cells]; exact memPuts_wf h ..
theorem lpddrPut_wf (k : Nat) (bs : List Byte) (half : Bool) : (d.lpddrPut k bs half).memOk := by
  unfold Dev.memOk; rw [lpddrPut_cells]; exact memPuts_wf h ..
theorem putPiece_wf (k : Nat) (bs : List Byte) (half : Bool) : (d.putPiece k bs half).memOk := by
  unfold Dev.putPiece
  exact memOk_ite (plainPut_wf h ..) (memOk_ite (plainPut_wf (touchWrite_wf h ..) ..) (lpddrPut_wf (dirWrite_wf h ..) ..))
theorem putBytes_wf (k : Nat) (bs : List Byte) (half : Bool) : (d.putBytes k bs half).memOk := by
  unfold Dev.putBytes
  exact memOk_ite (plainPut_wf h ..) (memOk_foldl_fst _ (fun x _ hx => putPiece_wf hx ..) _ (d, bs) h)
theorem modRing_wf (r : Option CtxId) (f : EvRing → EvRing) : (d.modRing r f).memOk := by cases r <;> exact h
theorem ringPut_wf (r : Option CtxId) (bs : List Byte) : (d.ringPut r bs).memOk := by
  unfold Dev.ringPut
  exact memOk_ite (modRing_wf (putBytes_wf h ..) ..) (modRing_wf h r _)
theorem drainRecs_wf (c : CtxId) (q : QId) (n : Nat) : (d.drainRecs c q n).memOk := by
  induction n generalizing d with
  | zero => exact h
  | succ n ih =>
    unfold Dev.drainRecs; dsimp only; split
    · exact h
    · exact ih (ringPut_wf (d := d.modQ c q _) h ..)
    · refine memOk_ite (ih ?_) h
      exact putBytes_wf h ..
theorem pushRec_wf (c : CtxId) (q : QId) (r : QRec) : (d.pushRec c q r).memOk :=
  drainRecs_wf (d := d.modQ c q _) h ..
theorem takeSeq_wf (s : EvSrc) : (d.takeSeq s).2.memOk := by cases s <;> exact h
theorem event_wf (s : EvSrc) (code : Nat) (a : DWord) (b : Word) (i : Bool) : (d.event s code a b i).memOk := by
  have t := takeSeq_wf h s
  unfold Dev.event; dsimp only
  cases s with
  | queue c q => exact pushRec_wf t ..
  | fault =>
    generalize (d.takeSeq .fault).2 = x at t
    generalize List.drop _ _ = l
    exact ringPut_wf (d := { x with dump := { x.dump with log := l } }) t ..
  | _ => exact ringPut_wf t ..
theorem poisonedRead_wf (k : Nat) : (d.poisonedRead k).memOk := by
  unfold Dev.poisonedRead
  dsimp only
  refine memOk_ite ?_ (memOk_ite (event_wf h ..) (event_wf h ..))
  split <;> exact event_wf h ..

/-- The loads that await a line take its bytes: no byte of memory changes but what the reports write. -/
theorem fillLoads_wf (line : Nat) (raw : Option Line) : (d.fillLoads line raw).memOk := by
  unfold Dev.fillLoads
  refine memOk_foldl _ (fun d c hd => ?_) _ h
  dsimp only
  show Dev.memOk (ite ..)
  exact memOk_ite (memOk_foldl _ (fun d _ hd => poisonedRead_wf hd line) _ hd) hd

/-- A line that arrives from the companion keeps the canonical form (R353). -/
theorem lineArrives_wf (addr : Nat) (line : Line) (poison : Bool) (mask : BitVec 128) :
    (d.lineArrives addr line poison mask).memOk := by
  unfold Dev.lineArrives
  dsimp only
  generalize mask ||| d.ownMask addr = mask
  have key : Memory.wf (line.bytes.zipIdx.foldl (fun m b =>
      memPut m (addr + b.2) (halfMerge mask b.2 (memByte m (addr + b.2)) b.1)) d.mem.cells) :=
    foldl_wf _ _ (fun _ _ hm => memPut_wf hm _ _) h
  generalize line.bytes.zipIdx.foldl _ d.mem.cells = cells at key
  exact fillLoads_wf (memOk_ite key key) ..

end

theorem copyPad_wf (d : Dev) (a b : ArrId) (h : Memory.wf d.mem.cells) : Memory.wf (d.copyPad a b).mem.cells :=
  foldl_wf _ _ (fun _ _ hm => memPut_wf hm _ _) (alWf_filter _ h)

/-- A scratchpad that died before its copy was complete leaves poison in the new one, and no byte changed (R406). -/
theorem deadCopy_wf (d : Dev) (b : ArrId) (written : List Nat) (h : d.memOk) : (d.deadCopy b written).memOk := by
  unfold Dev.deadCopy
  refine memOk_foldl _ (fun d i hd => memOk_ite hd ?_) _ h
  unfold Dev.padPoison
  exact memOk_ite hd hd

theorem zeroPad_wf (d : Dev) (a : ArrId) (h : Memory.wf d.mem.cells) : Memory.wf (d.zeroPad a).mem.cells :=
  alWf_filter _ h

/-- Memory after reset lists nothing. -/
theorem reset_memWf : State.reset.memWf := ⟨List.Pairwise.nil, fun p hp => by cases hp⟩

end Sys2Proof.Machine
end

