-- ==== Sys2Proof/Laws/Word.lean ====
section
/-!
SUPPORT. Laws/Word.lean: what a clause word that issues at once answers: its next state, and every register it writes.
-/
namespace Sys2Proof.Machine

/-- A word that raises no fault holds no undefined encoding and names no register twice as written (R178). -/
theorem Dev.wordFault_zero {d : Dev} {c : CtxId} {x : Acts} (h : d.wordFault c x = 0) :
    x.illegal = false ∧ ∀ y : Dest, x.writes.count (Res.d y) ≤ 1 := by
  unfold Dev.wordFault at h
  dsimp only at h
  split at h
  · cases h
  · next hi =>
    split at h
    · cases h
    · next hn =>
      refine ⟨by simpa using hi, fun y => ?_⟩
      simp only [Bool.not_eq_true', decide_eq_false_iff_not, Decidable.not_not] at hn
      have := List.nodup_iff_count_le_one.mp hn (Res.d y)
      rwa [List.count_filter (by rfl)] at this

theorem ite_zero {p : Prop} [Decidable p] {k m : Nat} (hk : k ≠ 0) (h : (if p then k else m) = 0) : ¬p ∧ m = 0 := by
  by_cases hp : p
  · rw [if_pos hp] at h; exact absurd h hk
  · rw [if_neg hp] at h; exact ⟨hp, h⟩

/-- The A slot of a word that raises no fault is aligned and within the context's share (R178, R189). -/
theorem Dev.wordFault_a {d : Dev} {c : CtxId} {x : Acts} {f : ASlot} (h : d.wordFault c x = 0) (hf : x.a = some f) :
    (f.op = 0x11 → f.ea d.ctx[c].cp.r % 64 = 0) ∧
      (f.op ≠ 0x11 → (f.isLoad || f.isStore) = true → f.ea d.ctx[c].cp.r % f.size = 0) ∧
      (f.space = 1 → (f.isLoad || f.isStore) = true → d.slotRangeOk c (f.ea d.ctx[c].cp.r) f.size = true) := by
  obtain ⟨q, t, v, a, s1, s0, ill⟩ := x
  have hf' : a = some f := hf
  subst hf'
  unfold Dev.wordFault at h
  dsimp only at h
  obtain ⟨_, h⟩ := ite_zero (by decide) h
  obtain ⟨_, h⟩ := ite_zero (by decide) h
  obtain ⟨_, h⟩ := ite_zero (by decide) h
  obtain ⟨ha, h⟩ := ite_zero (by decide) h
  obtain ⟨hs, h⟩ := ite_zero (by decide) h
  simp only [Bool.or_eq_true, not_or, Bool.not_eq_true] at ha hs
  refine ⟨fun e => ?_, fun e hl => ?_, fun e hl => ?_⟩
  · have := ha.1; rw [if_pos e] at this; simpa using this
  · have := ha.1; rw [if_neg e, hl] at this; simpa using this
  · simp only [e, decide_true, hl, Bool.true_and, Bool.not_eq_false'] at hs; exact hs

/-- What a word that issues at once answers. -/
theorem State.Issues.answers {s : State} {c : CtxId} {w : ClauseWord} (h : s.Issues c w) :
    ∃ (l : Cmd) (pw : List (Dest × Line)) (cb : List RByte) (ls : List Load) (d' : Dev),
      s.dev.seen.launchOf c = some l ∧ s.dev.seen.waitWrites c (Acts.of (s.regs c) w) = some pw ∧
      cb = (s.dev.seen.cmdRead c l.q (Acts.of (s.regs c) w)).1 ∧
      (ls, d') = (s.dev.seen.cmdRead c l.q (Acts.of (s.regs c) w)).2.loadsOf c l.q (Acts.of (s.regs c) w) ∧
      s.dev.seen.wordFault c (Acts.of (s.regs c) w) = 0 ∧
      s.dev.seen.Still d' ∧ d'.rcl.missed = false ∧
      issueOn c w s = .next { s with dev := s.dev.after (d'.modCp c fun cp =>
        cp.issued (Acts.of (s.regs c) w) (d'.issuedRegs c (Acts.of (s.regs c) w) (s.regs c) pw ls)
          ((Acts.of (s.regs c) w).effects (s.regs c) cb)) } := by
  obtain ⟨hs, hi⟩ := h
  obtain ⟨g, l, pw, cb, ls, d', _, hl, hpw, hcb, hls, hf, hst, hm, he⟩ := Dev.clause_issue s.dev.seen c w hi
  have hcp : d'.ctx[c].cp = s.dev.ctx[c].cp := hst.cp c
  refine ⟨l, pw, cb, ls, d', hl, hpw, hcb, hls, hf, hst, hm, ?_⟩
  have hr : s.dev.runsNow (fun d => d.clause c w) := by
    show (s.dev.seen.clause c w).rcl.missed = false
    rw [he]
    exact hm
  unfold issueOn
  rw [run_inService s _ hs hr, he]
  have e : (d'.modCp c fun cp => cp.issued (Acts.of cp.r w) (d'.issuedRegs c (Acts.of cp.r w) cp.r pw ls) ((Acts.of cp.r w).effects cp.r cb)) =
      d'.modCp c fun cp => cp.issued (Acts.of (s.regs c) w) (d'.issuedRegs c (Acts.of (s.regs c) w) (s.regs c) pw ls)
          ((Acts.of (s.regs c) w).effects (s.regs c) cb) := by
    refine Dev.modCp_congr _ _ ?_
    rw [hcp]; rfl
  rw [e]


theorem sWrites_per {d d' : Dev} (e : d'.per = d.per) (s0 : Bool) (f : SSlot) (r : Snap) : sWrites d' s0 f r = sWrites d s0 f r := by
  have e1 : sResult d' f r = sResult d f r := by unfold sResult Dev.tsNs; rw [e]
  unfold sWrites; rw [e1]

theorem Dev.Still.rupRead {d d' : Dev} (h : d.Still d') (c : CtxId) (x : Acts) : d'.rupRead c x = d.rupRead c x := by
  unfold Dev.rupRead Dev.rupSeen Dev.epiWord
  rw [h.cp c, h.ldt c]

theorem Acts.regWrites_per {d d' : Dev} (e : d'.per = d.per) (x : Acts) (r : Snap) (rup : Line) (pw : List (Dest × Line)) :
    x.regWrites d' r rup pw = x.regWrites d r rup pw := by
  have hs : ∀ b o, sWrite d' b o r = sWrite d b o r := by
    intro b o; unfold sWrite; cases o with
    | none => rfl
    | some f => exact sWrites_per e b f r
  unfold Acts.regWrites; rw [hs, hs]

/-- A register that is hard-wired reads its constant (R149). -/
theorem Snap.get_notReal (r : Snap) (y : Dest) (v : Line) (h : (Res.d y).real = false) : r.get y = y.held v := by
  cases y with
  | s i =>
    have : i = 0 := by simpa [Res.real] using h
    subst this; simp [Snap.get, Snap.sr, Dest.held]
  | p i =>
    have : i = 0 := by simpa [Res.real] using h
    subst this; simp [Snap.get, Snap.pr, Dest.held]
  | v i => cases h

/-- The registers that a word writes as it issues: each destination once, with its slot's result, s0 and p0 but for. -/
theorem State.Issues.writes {s : State} {c : CtxId} {w : ClauseWord} (h : s.Issues c w) :
    ∃ (t : State) (pw : List (Dest × Line)), issueOn c w s = .next t ∧ t.pending = s.pending ∧
      s.dev.seen.waitWrites c (Acts.of (s.regs c) w) = some pw ∧ (Acts.of (s.regs c) w).illegal = false ∧
      (t.regs c).pc = (if (Acts.of (s.regs c) w).qIs 7 then (s.regs c).pc else nextPc (Acts.of (s.regs c) w).s1 (s.regs c)) ∧
      ∀ y v, (y, v) ∈ (Acts.of (s.regs c) w).regWrites s.dev (s.regs c) (s.dev.rupRead c (Acts.of (s.regs c) w)) pw →
        (t.regs c).get y = y.held v := by
  obtain ⟨l, pw, cb, ls, d', _, hpw, _, _, hf, hst, _, ht⟩ := h.answers
  obtain ⟨hill, hcount⟩ := Dev.wordFault_zero hf
  have e : ∀ X : Dev, State.regs { s with dev := s.dev.after X } c = X.ctx[c].cp.r := fun _ => rfl
  refine ⟨_, pw, ht, rfl, hpw, hill, ?_, ?_⟩
  · rw [e, Dev.modCp_same, Cp.issued_r]; rfl
  · intro y v hm
    rw [e, Dev.modCp_same, Cp.issued_r]
    show ((s.regs c).writes ((Acts.of (s.regs c) w).regWrites d' (s.regs c) (d'.rupRead c (Acts.of (s.regs c) w)) pw)).get y = _
    rw [hst.rupRead, Acts.regWrites_per hst.per]
    by_cases hy : (Res.d y).real = true
    · exact Snap.get_writes_mem _ _ y v hm ((Acts.count_regWrites (Dev.waitWrites_dests hpw) y hy).trans (hcount y))
    · exact Snap.get_notReal _ y v (by simpa using hy)

end Sys2Proof.Machine
end

