-- ==== Sys2Proof/WellFormed.lean ====
section
/-!
DEFINITION. WellFormed.lean: what the operands of a command must be for a sender to have sent it: a slot operation carries
its row's OP code (Tables 08-3, 08-4, 08-6, 08-9, 08-11), messages carry as many fields as their layouts have, and addresses
of lines are line addresses. `exec` does not ask for it: it answers on every term.
-/
namespace Sys2Proof

/-- A register access stands on a 4-byte boundary of its window (R355, Table 15-5). -/
def offOk (w : Window) (off : Nat) : Bool :=
  decide (off % 4 = 0) && (match w with | .priv => decide (off < 0x1000000) | .ctx _ => decide (off < 0x10000))

/-- An address of a 64-byte line of the device address map. -/
def lineOk (a : Nat) : Bool := decide (a % 64 = 0 ∧ a < 2 ^ 52)

/-- The size of an access through a region (Table 15-5). -/
def winOk (region : Fin 3) (size : Nat) : Bool := region ≠ 2 && decide (1 ≤ size ∧ size ≤ 64)

/-- The column of a flaw is one of the row's 128 columns (Table 05-6). -/
def RowFlaw.wf : RowFlaw → Bool
  | .none => true
  | .wrongSum col _ => decide (col < 128)
  | .checkColumn _ => true
  | .specialState => true

/-- Well-formed commands. -/
def Instr.wf : Instr → Bool
  | .internalTick => true
  | .sourceEvent _ _ _ => true
  | .holdoverEntry => true
  | .holdoverTick => true
  | .acquireTimeout => true
  | .newSettingTimeout => true
  | .shareZeroed _ => true
  | .syncOutPulseEnd => true
  | .comparatorFire _ => true
  | .registerWrite w off _ => offOk w off
  | .fencePoisonClear _ _ _ => true
  | .arrInject _ => true
  | .take => true
  | .ctxSnapTake _ => true
  | .indirectWrite _ => true
  | .indirectRead => true
  | .indirectComplete => true
  | .marginDone _ errors => decide (errors < 2 ^ 64)
  | .lexReadInForce _ _ => true
  | .lexWrite _ _ => true
  | .lexReadPending _ _ => true
  | .lexReadCaptured _ _ => true
  | .lexReadDescription _ _ => true
  | .lexFlashReadDone _ => true
  | .coeSdoDownload _ _ value _ => decide (1 ≤ value.length ∧ value.length ≤ 1024)
  | .coeSdoUpload _ _ _ => true
  | .coeSdoInformation _ => true
  | .alStateRequest _ => true
  | .fieldPortLink _ _ => true
  | .stageImage => true
  | .confirm => true
  | .discard => true
  | .swap => true
  | .install => true
  | .quote => true
  | .extend => true
  | .getCerts => true
  | .unlock => true
  | .spareReady => true
  | .spareReloaded => true
  | .tailLineInvalidation _ _ _ _ => true
  | .entryFetched _ _ _ _ => true
  | .cplRdInvalidation _ _ _ => true
  | .eventRdInvalidation _ _ => true
  | .entryDispatch _ _ => true
  | .commandReady _ => true
  | .launch _ => true
  | .fenceSet _ => true
  | .fenceAdd _ => true
  | .allReduce _ => true
  | .allGather _ => true
  | .permute _ => true
  | .reshard _ => true
  | .sgather _ => true
  | .place _ rooms => rooms.all fun r => decide (r.left.length = 16)
  | .scatter _ => true
  | .batch _ => true
  | .codOpen _ => true
  | .codEnc _ => true
  | .codDec _ => true
  | .codRel _ => true
  | .codClose _ => true
  | .nop _ _ _ => true
  | .fwait _ f _ => f.op = 1
  | .fset _ f _ => f.op = 2
  | .fadd _ f _ => f.op = 3
  | .twait _ f _ => f.op = 4
  | .post _ f _ => f.op = 5
  | .cmd _ f _ => f.op = 6
  | .endProgram _ f _ => f.op = 7
  | .matrix _ f _ => f.op = 1
  | .attn _ f _ => f.op = 2
  | .vaddf _ f _ => f.op = 1
  | .vsubf _ f _ => f.op = 2
  | .vmulf _ f _ => f.op = 3
  | .vfmaf _ f _ => f.op = 4
  | .vminf _ f _ => f.op = 5
  | .vmaxf _ f _ => f.op = 6
  | .vsf _ f _ => f.op = 7
  | .vpack _ f _ => f.op = 8
  | .vunpk _ f _ => f.op = 9
  | .vbcast _ f _ => f.op = 10
  | .vext _ f _ => f.op = 11
  | .vins _ f _ => f.op = 12
  | .vsumf _ f _ => f.op = 13
  | .vand _ f _ => f.op = 16
  | .vor _ f _ => f.op = 17
  | .vxor _ f _ => f.op = 18
  | .vaddi _ f _ => f.op = 19
  | .rupld _ f _ => f.op = 32
  | .rurd _ f _ => f.op = 33
  | .ldb _ f _ => f.op = 1
  | .ldh _ f _ => f.op = 2
  | .ldw _ f _ => f.op = 3
  | .ldd _ f _ => f.op = 4
  | .ldws _ f _ => f.op = 5
  | .stb _ f _ => f.op = 8
  | .sth _ f _ => f.op = 9
  | .stw _ f _ => f.op = 10
  | .std _ f _ => f.op = 11
  | .vld _ f _ => f.op = 12
  | .vst _ f _ => f.op = 13
  | .lea _ f _ => f.op = 16
  | .ldtld _ f _ => f.op = 17
  | .add _ _ f _ => f.op = 1
  | .sub _ _ f _ => f.op = 2
  | .andOp _ _ f _ => f.op = 3
  | .orOp _ _ f _ => f.op = 4
  | .xorOp _ _ f _ => f.op = 5
  | .shl _ _ f _ => f.op = 6
  | .shr _ _ f _ => f.op = 7
  | .sar _ _ f _ => f.op = 8
  | .mul _ _ f _ => f.op = 9
  | .divu _ _ f _ => f.op = 10
  | .remu _ _ f _ => f.op = 11
  | .minOp _ _ f _ => f.op = 12
  | .maxOp _ _ f _ => f.op = 13
  | .inshi _ _ f _ => f.op = 14
  | .cmpeq _ _ f _ => f.op = 16
  | .cmpne _ _ f _ => f.op = 17
  | .cmplt _ _ f _ => f.op = 18
  | .cmpltu _ _ f _ => f.op = 19
  | .cmple _ _ f _ => f.op = 20
  | .cmpleu _ _ f _ => f.op = 21
  | .pand _ _ f _ => f.op = 24
  | .por _ _ f _ => f.op = 25
  | .pxor _ _ f _ => f.op = 26
  | .pandn _ _ f _ => f.op = 27
  | .addf _ _ f _ => f.op = 32
  | .subf _ _ f _ => f.op = 33
  | .mulf _ _ f _ => f.op = 34
  | .fmaf _ _ f _ => f.op = 35
  | .minf _ _ f _ => f.op = 36
  | .maxf _ _ f _ => f.op = 37
  | .cmpltf _ _ f _ => f.op = 38
  | .cmpeqf _ _ f _ => f.op = 39
  | .cvtif _ _ f _ => f.op = 40
  | .cvtfi _ _ f _ => f.op = 41
  | .br _ f _ => f.op = 48
  | .brr _ f _ => f.op = 49
  | .call _ f _ => f.op = 50
  | .loop _ f _ => f.op = 51
  | .rdper _ _ f _ => f.op = 56
  | .rdtime _ _ f _ => f.op = 57
  | .loadDataReturn _ _ => true
  | .checkpointDurable _ => true
  | .lockstepCompareFailure _ => true
  | .cpFailover _ => true
  | .pairTestDone _ _ => true
  | .supFailover => true
  | .tileExpand _ => true
  | .arrayFree _ => true
  | .bPassLoaded _ _ => true
  | .multicastAdvance _ => true
  | .rowRelease _ row flaw => decide (row < 256) && flaw.wf
  | .rowStaged _ row _ => decide (row < 256)
  | .bf16Compare _ => true
  | .tileCommit _ => true
  | .rephraseDecision _ => true
  | .slotCopyDone _ _ => true
  | .arrayTestDone _ _ => true
  | .fatalFault _ _ _ => true
  | .scratchpadScrub _ word _ => decide (word < 2 ^ 22)
  | .lpddrScrub _ line _ => decide (64 * line < 0x16800000000)
  | .wcbAgeEvict _ => true
  | .channelSpared _ _ => true
  | .migrationDone _ => true
  | .flitReceived (.chip _) _ fixed _ => decide (fixed.length ≤ 2) && fixed.all fun x => decide (x.val < 12)
  | .flitReceived .rcl _ fixed _ => decide (fixed.length ≤ 2)
  | .nak _ _ => true
  | .laneFailed _ _ => true
  | .portDetect _ _ => true
  | .portTrained _ _ _ => true
  | .identExchange _ _ => true
  | .portDown _ => true
  | .routeUpdate routes _ => decide (routes.length = 64)
  | .neighbourTable _ far => decide (far.length = 18)
  | .announcementReceived _ _ => true
  | .csnAssignment _ _ _ _ _ => true
  | .reservationGrant => true
  | .segmentSend _ _ _ bad => bad.all fun g => decide (g < 8192)
  | .segDone _ _ _ => true
  | .completionReport _ _ => true
  | .memberLost _ => true
  | .tickFlit _ gperiod _ _ _ lead num den => decide (gperiod < 2 ^ 64 ∧ lead < 2 ^ 32 ∧ num < 2 ^ 32 ∧ den < 2 ^ 32)
  | .delayEcho _ trips => decide (trips.length = 16)
  | .headEnd => true
  | .spanMerge _ _ => true
  | .poolInitDone _ _ => true
  | .unitStart _ => true
  | .unitVisible _ => true
  | .windowFetchDone _ => true
  | .unitRecode _ => true
  | .decodeTimeBound _ => true
  | .rclLaneFailed _ => true
  | .rclDown => true
  | .rclTrainAttempt _ => true
  | .rclUp => true
  | .getClean addr => lineOk addr
  | .getSole addr => lineOk addr
  | .getOnce addr => lineOk addr
  | .putLine addr _ _ => lineOk addr
  | .putBytes addr _ _ _ => lineOk addr
  | .returnLine addr _ _ => lineOk addr
  | .letGo addr => lineOk addr
  | .winRead region _ size => winOk region size
  | .winWrite region _ size _ => winOk region size
  | .probeDrop addr => lineOk addr
  | .probeDemote addr => lineOk addr
  | .ansDone addr => lineOk addr
  | .ansLine addr _ _ => lineOk addr
  | .modEnAssert => true
  | .railGood => true
  | .railWindowExpired => true
  | .serviceReached => true
  | .watchdogReset => true
  | .modEnDeassert => true
  | .rstNReset => true
  | .rstNRise => true
  | .inputOutOfRange _ => true
  | .sensorSample r => decide (r.temps.length = 74 ∧ r.cons.length = 8)
  | .overTemperatureTrip => true
  | .histogramSecond => true
  | .lifetimeFlush _ => true
  | .tickLeadElapsed => true
  | .prsntNChange _ _ => true
  | .laneGroupRetrained _ => true
  | .rclHalfRetrained => true
  | .headStateReceived _ _ _ _ _ => true
  | .takeoverReportRequest _ => true
  | .takeoverReport _ _ _ => true
  | .streamPlacement _ _ cost _ => decide (1 ≤ cost ∧ cost ≤ 65535)
  | .shardGenerationsReceived gens => decide (gens.length = 4096)
  | .engineTestDone _ _ => true
  | .slotZeroed _ => true
  | .modEnHoldoffElapsed => true
  | .testPortInstruction _ => true
  | .ethercatDatagram _ _ => true
  | .instructionFetchReturn _ _ count => decide (1 ≤ count ∧ count ≤ 4096)

end Sys2Proof
end

