-- ==== Sys2Proof/Tests/Slice0.lean ====
section
/-!
SUPPORT. Tests/Slice0.lean: ill-formed commands that WellFormed refuses; worked values of the spec; and for each statement of
Certificates/Slice0/Obligations.lean states and operands that meet its hypotheses.
-/
open Sys2Proof Sys2Proof.Machine
namespace Sys2Proof.Tests
set_option Elab.async false

/-! ## Ill-formed commands -/

theorem test_wf_window_offset : (Instr.registerWrite .priv 2 0).wf = false ∧ (Instr.registerWrite .priv 0x1000000 0).wf = false ∧
    (Instr.registerWrite (.ctx 3) 0x10000 0).wf = false ∧ (Instr.registerWrite (.ctx 3) 0xFFFC 0).wf = true := by decide
theorem test_wf_line_address : (Instr.getClean 32).wf = false ∧ (Instr.putLine (2 ^ 52) 0 false).wf = false ∧ (Instr.letGo (2 ^ 52 - 64)).wf = true := by
  decide
theorem test_wf_window_size : (Instr.winRead 0 0 0).wf = false ∧ (Instr.winRead 2 0 4).wf = false ∧ (Instr.winWrite 1 0 65 0).wf = false ∧
    (Instr.winWrite 1 0 4 0).wf = true := by decide
theorem test_wf_row_flaw : (Instr.rowRelease 1 0 (.wrongSum 128 1)).wf = false ∧ (Instr.rowRelease 1 256 .none).wf = false ∧
    (Instr.rowStaged 1 256 false).wf = false ∧ (Instr.rowRelease 1 255 (.wrongSum 127 1)).wf = true := by decide
theorem test_wf_op_code : (Instr.add 0 .s0 { op := 2 } {}).wf = false ∧ (Instr.vand 0 { op := 0x11 } {}).wf = false ∧ (Instr.ldb 0 { op := 2 } {}).wf = false ∧
    (Instr.matrix 0 { op := 2 } {}).wf = false ∧ (Instr.fwait 0 { op := 2 } {}).wf = false ∧ (Instr.add 0 .s0 { op := 1 } {}).wf = true := by decide
theorem test_wf_lengths : (Instr.routeUpdate [] 0).wf = false ∧ (Instr.neighbourTable 0 []).wf = false ∧ (Instr.delayEcho 0 []).wf = false ∧
    (Instr.shardGenerationsReceived []).wf = false ∧ (Instr.coeSdoDownload 0 0 [] true).wf = false ∧
    (Instr.sensorSample { temps := [], cons := [], vin := 0, iin := 0, pin := 0 }).wf = false := by decide
theorem test_wf_counts : (Instr.instructionFetchReturn 0 0 0).wf = false ∧ (Instr.instructionFetchReturn 0 0 4097).wf = false ∧
    (Instr.streamPlacement 0 0 65536 false).wf = false ∧ (Instr.marginDone 0 (2 ^ 64)).wf = false ∧ (Instr.scratchpadScrub 0 (2 ^ 22) .clean).wf = false ∧
    (Instr.lpddrScrub 0 (0x16800000000 / 64) .clean).wf = false ∧ (Instr.tickFlit 0 (2 ^ 64) 0 0 0 0 1 1).wf = false := by decide

/-- The table gives no row bits, so that no word spells a command. -/
theorem test_no_word_decodes : decodeTableWord 0 0 = none ∧ decodeTableWord 512 1 = none := by decide

/-! ## Worked values of the spec -/

/-- The worked value of Table 03-6, and its element rounded to BF16 under SR. -/
theorem test_stochastic_word : srWord 0xA5 0x101 64 = 0x34DAFC8F ∧ (toBf16 .sr 0x34DAFC8F (f32 0x3F80E000)).code = 0x3F81 := by decide +kernel
/-- The worked decode after R257: line 1,207,964,351 lies in channel 191. -/
theorem test_channel_of_line : channelOf 1207964351 = 191 := by decide +kernel
/-- The worked FP4 block after R66: 0.75, −0.2, 0.05 and −0.0625 over 2^-6. -/
theorem test_fp4_block :
    let x := blockConv .fp4 .rne ([(.fin false 48 1, 0), (.fin true 128 10, 0), (.fin false 32 10, 0), (.fin true 4 1, 0)] ++ List.replicate 28 (.fin false 0 1, 0))
    x.scale = 0x82 ∧ x.codes.take 4 = [7, 0xB, 1, 9] := by decide +kernel
/-- The voltage bin that R428 works out. -/
theorem test_voltage_bin : voltBin 40030 = 150 := by decide +kernel


/-! ## States that the tests start from -/

/-- A device in service: powered, its links to the companion up, Period 1 in force, context 0 with its pair. -/
def upDev : Dev :=
  { Dev.reset with
    pwr := {}, sec := { (Dev.reset).sec with stage := .service, version := 0x20401 }, rcl := { st := .up16 }
    per := { started := true, k := 2, number := 1, now := 40000100, lastTick := 40000000, lastSrc := 40000000 }
    ctx := (Vector.replicate 16 ({} : Ctx)).set 0 { cp := { pair := some 0 } } }

/-- The LAUNCH whose program runs on context 0, and the program. -/
def launch0 : Cmd :=
  { id := 7, c := 0, q := 0, entryNo := 3, launch := none, kind := 1, entry := 0, period := 1, waits := [], sig := none, phase := .running }

def prog0 : Program := { launch := 7, image := 0x200001000, words := 100 }

/-- A device that runs a program on context 0 with registers `r`, and more of its processor as `f` says. -/
def runDev (r : Snap) (f : Cp → Cp := id) : Dev :=
  { upDev with
    ctx := upDev.ctx.set 0 { cp := f { pair := some 0, prog := some prog0, r := r, st := .running } }
    cmds := [launch0], nextId := 8 }

def run (r : Snap) (f : Cp → Cp := id) : State := { dev := runDev r f }

/-- Registers: s1 = 5, s2 = 9, s5 the seed, s6 = an address of the software region, v1 and v2 with small lanes. -/
def r0 : Snap :=
  { s := ((((Vector.replicate 64 (0 : DWord)).set 1 5).set 2 9).set 5 0x1234).set 6 0x200000000, pc := 4
    v := ((Vector.replicate 32 (0 : Line)).set 1 0x3F800000_40000000).set 2 0x40400000_C0000000 }

/-- A word with no operation in any slot. -/
def nop : ClauseWord := {}

/-! ## Slot operations -/

/-- Operands that an S slot's operation has. -/
def sOperands (op : BitVec 8) : SSlot := { rd := 3, ra := 1, rb := if op = 0x0E ∨ op = 0x28 ∨ op = 0x29 then 0 else 2, i := decide (op = 0x0E) }

theorem witness_scalar : (∀ op ∈ scalarOps, (run r0).Issues 0 (nop.withS .s0 op.2.1 (sOperands op.2.1))) ∧
    ((run r0).regs 0).guard 0 false = true := by decide +kernel

/-- Operands that a comparison or a predicate operation has. -/
def pOperands (op : BitVec 8) : SSlot :=
  if 0x18 ≤ op.toNat ∧ op.toNat ≤ 0x1B then { pd := 7, pa := 1, pb := 2 } else { pd := 7, ra := 1, rb := 2 }

theorem witness_predicate : (∀ op ∈ predicateOps, (run r0).Issues 0 (nop.withS .s1 op.2.1 (pOperands op.2.1))) ∧
    ((run r0).regs 0).guard 1 true = true := by decide +kernel

theorem witness_clock : (run r0).Issues 0 (nop.withS .s0 0x38 { rd := 63 }) ∧ (run r0).Issues 0 (nop.withS .s0 0x39 { rd := 0 }) := by
  decide +kernel

theorem witness_branch :
    (Acts.of ((run r0).regs 0) (nop.withS .s1 0x30 { imm := 95 })).qIs 7 = false ∧
    (run r0).Issues 0 (nop.withS .s1 0x30 { imm := 95 }) ∧ (run r0).Issues 0 (nop.withS .s1 0x31 { ra := 1 }) ∧
    (run r0).Issues 0 (nop.withS .s1 0x32 { rd := 0, imm := -4 }) ∧ (run r0).Issues 0 (nop.withS .s1 0x33 { rd := 1, ra := 1, imm := -1 }) := by
  decide +kernel

/-- Operands that a V slot's operation has. -/
def vOperands (op : BitVec 8) : VSlot :=
  if op = 0x09 then { vd := 31, va := 1, ix := 1 }
  else if op = 0x0A then { vd := 31, sr := 1 }
  else if op = 0x0C then { vd := 31, va := 1, sr := 1, ix := 15 }
  else if op = 0x0D then { vd := 31, va := 1 }
  else if op = 0x04 then { vd := 31, va := 1, vb := 2, vc := 31 }
  else { vd := 31, va := 1, vb := 2 }

theorem witness_vector : ∀ op ∈ vectorOps, (run r0).Issues 0 (nop.withV op.2.1 (vOperands op.2.1)) := by decide +kernel

theorem witness_vector_stochastic : (run r0).Issues 0 (nop.withV 0x08 { vd := 1, va := 1, vb := 2, rm := 4, sr := 2, imm := 0xFFFFFFFF }) := by
  decide +kernel

theorem witness_vector_function : (run r0).Issues 0 (nop.withV 0x07 { vd := 1, va := 1, fn := 1 }) ∧
    (run r0).Issues 0 (nop.withV 0x0B { va := 1, sr := 63, ix := 15 }) ∧
    (run r0).Issues 0 (nop.withV 0x21 { vd := 0, ix := 15, epi := 255 }) := by decide +kernel

theorem witness_lea : (run r0).Issues 0 (nop.withA 0x10 { rd := 3, rb := 6, ri := 1, sc := 3, off := -1 }) := by decide +kernel

theorem witness_loop_zero : (Acts.of ((run r0).regs 0) (nop.withS .s1 0x33 { rd := 0, ra := 1, imm := -1 })).qIs 7 = false ∧
    (run r0).Issues 0 (nop.withS .s1 0x33 { rd := 0, ra := 1, imm := -1 }) := by decide +kernel

theorem witness_loads : (∀ op ∈ loadOps, (run r0).Issues 0
      (nop.withA op.2.1 (if op.2.1 = 0x0C then { vr := 31, rb := 6 } else { rd := 3, rb := 6 }))) ∧
    (Acts.of ((run r0).regs 0) (nop.withA 0x01 { rd := 3, rb := 6 })).qIs 6 = false ∧
    effAddr ((run r0).regs 0) { rd := 3, rb := 6 } = 0x200000000 ∧ (run r0).dev.region 0x200000000 = .software ∧
    (run r0).dev.atHand 0x200000000 = true ∧ ((run r0).escaped 0).all (fun e => !e.isStore) = true := by decide +kernel

theorem witness_ldtld : (run r0).Issues 0 (nop.withA 0x11 { rd := 3, rb := 6, ldti := 255 }) := by decide +kernel

theorem witness_stores : ∀ op ∈ storeOps, (run r0).Issues 0
    (nop.withA op.2.1 (if op.2.1 = 0x0D then { vr := 1, rb := 6 } else { rd := 1, rb := 6, ri := 1, sc := 2 })) := by decide +kernel

/-- A loop descriptor of TYPE `t` in entry 3. -/
def withLdt (t : Nat) (s : State) : State :=
  { s with dev := { s.dev with ctx := s.dev.ctx.set 0 { s.dev.ctx[0] with ldt := { entries := [(3, BitVec.ofNat 2048 (t * 2 ^ 248))] } } } }

theorem witness_tensor :
    (withLdt 1 (run r0)).Issues 0 (nop.withT 1 { ldt := 3, rm := 1, rn := 2, w0e := true, w0f := 9, w0t := 1, se := true, sf := 8 }) ∧
    (withLdt 2 (run r0)).Issues 0 (nop.withT 2 { ldt := 3, rm := 6, rk := 63 }) ∧
    (run r0).Issues 0 (nop.withV 0x20 { va := 1, ix := 15, epi := 255 }) := by decide +kernel

/-- Fence counter 9 is at 4 and poisoned. -/
def fenced (s : State) : State :=
  { s with dev := { s.dev with ctx := s.dev.ctx.set 0 { s.dev.ctx[0] with
      cp := { s.dev.ctx[0].cp with fence := s.dev.ctx[0].cp.fence.set 9 4, poison := 512 } } } }

/-- An entry of KIND 2 that a CMD reads at 0x2_0000_0000. -/
def withEntry (s : State) : State := { s with dev := { s.dev with mem := { s.dev.mem with cells := [(0x200000000, 2)] } } }

theorem witness_q_operations :
    (run r0).Issues 0 (nop.withQ 2 { f := 255, sr := 1, imm := 7 }) ∧ (run r0).Issues 0 (nop.withQ 3 { f := 0, imm := 65535 }) ∧
    (run r0).Issues 0 (nop.withQ 5 { imm := 0xFFFF }) ∧ (withEntry (run r0)).Issues 0 (nop.withQ 6 { sr := 6 }) ∧
    (run r0).Issues 0 (nop.withQ 7 {}) := by decide +kernel

theorem witness_cmd_entry : (withEntry (run r0)).dev.region 0x200000000 = .software ∧ (withEntry (run r0)).dev.atHand 0x200000000 = true ∧
    (((withEntry (run r0)).regs 0).sr 6).toNat % 2 ^ 52 = 0x200000000 ∧
    ((withEntry (run r0)).escaped 0).all (fun e => !e.isStore) = true ∧ storeOfWord ((withEntry (run r0)).regs 0) (nop.withQ 6 { sr := 6 }) = [] := by
  decide +kernel

/-- A TWAIT that was held, whose comparator fired in its Period. -/
def twaiting (p : Cp) : Cp := { p with twait := some { period := 0, ci := 7, fired := true } }

theorem witness_fired_wait : (run r0 twaiting).Issues 0 (nop.withQ 4 { pd := 1, ci := 7 }) ∧
    (run r0 twaiting).dev.ctx[(0 : CtxId)].cp.twait.any (·.fired) = true := by decide +kernel

theorem witness_waits : (fenced (run r0)).Issues 0 (nop.withQ 1 { f := 9, imm := 4, pd := 1 }) ∧
    (run r0).Issues 0 (nop.withQ 4 { pd := 1, ci := 7 }) := by decide +kernel

theorem witness_unmet_wait : (fenced (run r0)).dev.serving = true ∧
    (fenced (run r0)).dev.seen.atIssue 0 (nop.withQ 1 { f := 9, imm := 5, pd := 1 }) = true ∧
    2 ^ 31 ≤ (((fenced (run r0)).dev.fence 0 9) - (low32 (((fenced (run r0)).regs 0).sr 0) + 5)).toNat := by decide +kernel

theorem witness_word_frame : slotWord (.add 0 .s0 { rd := 3, ra := 1, rb := 2 } nop) = some (0, nop.withS .s0 1 { rd := 3, ra := 1, rb := 2 }) ∧
    (run r0).Issues 0 (nop.withS .s0 1 { rd := 3, ra := 1, rb := 2 }) ∧
    (Acts.of ((run r0).regs 0) (nop.withS .s0 1 { rd := 3, ra := 1, rb := 2 })).a.all (fun f => !f.isLoad) = true := by decide +kernel

theorem witness_false_guard :
    slotWord (.add 0 .s0 { rd := 3, ra := 1, rb := 2, gp := 1 } nop) = some (0, nop.withS .s0 1 { rd := 3, ra := 1, rb := 2, gp := 1 }) ∧
    guardOf ((run r0).regs 0) (nop.withS .s0 1 { rd := 3, ra := 1, rb := 2, gp := 1 }) .s0 = false ∧
    (run r0).dev.ctx[(0 : CtxId)].cp.ibuf = [] := by decide +kernel

theorem witness_sequential : (Acts.of ((run r0).regs 0) (nop.withS .s1 1 { rd := 3, ra := 1, rb := 2 })).qIs 7 = false ∧
    (Acts.of ((run r0).regs 0) (nop.withS .s1 1 { rd := 3, ra := 1, rb := 2 })).s1 = some { op := 1, rd := 3, ra := 1, rb := 2 } ∧
    (Acts.of ((run r0).regs 0) nop).s1 = none ∧ (run r0).Issues 0 nop ∧
    (run r0).Issues 0 (nop.withS .s1 1 { rd := 3, ra := 1, rb := 2 }) := by decide +kernel

/-- An effect waits in the escape buffer. -/
def escaping (p : Cp) : Cp := { p with escape := [.fadd 1 1] }

theorem witness_fault : (run r0 escaping).dev.serving = true ∧
    (run r0 escaping).dev.seen.raises 0 (nop.withA 0x03 { rd := 3, rb := 6, off := 2 }) = 4 ∧
    slotWord (.ldw 0 { rd := 3, rb := 6, off := 2 } nop) = some (0, nop.withA 0x03 { rd := 3, rb := 6, off := 2 }) ∧
    (run r0 escaping).escaped 0 ≠ [] := by decide +kernel

/-! ## The pair behind a processor -/

/-- Registers with one load in flight. -/
def loading (l : Load) : Snap := { r0 with loads := [l] }

/-- Loads whose bytes are known: marked bad, of a vector, signed, and of a place of memory in which an error may be found. -/
def knownLoads : List Load :=
  [{ dest := .s 0, bytes := [1, 2], bad := true }, { dest := .v 31, bytes := zeros 64, bad := false },
   { dest := .s 63, bytes := zeros 4, bad := true, signed := true }, { dest := .s 3, bytes := [7], bad := false, key := some 0x200000000 }]

theorem witness_load_return : ∀ l ∈ knownLoads, (run (loading l)).dev.serving = true ∧ (run (loading l)).dev.ctx[(0 : CtxId)].cp.failed = false ∧
    ((run (loading l)).regs 0).loads = [l] ∧ l.companion = none ∧ l.need = [] ∧ l.ldt = none := by decide +kernel

/-- An LDTLD in flight, accepted or not, and the place that it keeps: in the escape buffer, or in a checkpoint whose drain
has ended. -/
def ldtLoad (rd : BitVec 6) (bad : Bool) : Load := { dest := .s rd, bytes := zeros 256, bad := bad, ldt := some 255 }
def keeping (p : Cp) : Cp := { p with escape := [.fadd 1 1, .ldtld 255, .fadd 2 1] }
def drainedCp (p : Cp) : Cp := { p with ckpt := some (r0, [.ldtld 255]), drained := true }

theorem witness_ldtld_return : ∀ b ∈ [true, false],
    (let s := run (loading (ldtLoad 3 b)) keeping
     s.dev.serving = true ∧ s.dev.ctx[(0 : CtxId)].cp.failed = false ∧ (s.regs 0).loads = [ldtLoad 3 b] ∧ (ldtLoad 3 b).companion = none ∧
       (ldtLoad 3 b).need = [] ∧ s.dev.ctx[(0 : CtxId)].cp.drained = false ∧ s.escaped 0 = [.fadd 1 1] ++ .ldtld 255 :: [.fadd 2 1] ∧
       Effect.ldtld 255 ∉ ([.fadd 1 1] ++ [.fadd 2 1] : List Effect)) ∧
    (let s := run (loading (ldtLoad 0 b)) drainedCp
     s.dev.serving = true ∧ s.dev.ctx[(0 : CtxId)].cp.failed = false ∧ s.dev.ctx[(0 : CtxId)].cp.drained = true ∧
       (s.regs 0).loads = [ldtLoad 0 b] ∧ s.dev.ctx[(0 : CtxId)].cp.ckpt = some (r0, [.ldtld 255]) ∧
       s.dev.ctx[(0 : CtxId)].cp.escape.contains (.ldtld 255) = false ∧ (s.dev.ctx[(0 : CtxId)].cp.prog.all fun p => p.faulted = none) = true ∧
       s.tablesWf) := by decide +kernel

/-- A checkpoint in flight with one effect. -/
def durable (e : Effect) (p : Cp) : Cp := { p with ckpt := some (r0, [e]) }

theorem witness_checkpoint : ∀ e ∈ [Effect.fset 9 7, .fadd 255 1, .store 0 0x20000003C [1, 2, 3, 4], .ldtld 255, .ldt 3 5 0, .rup 255 15 9],
    (run r0 (durable e)).dev.serving = true ∧ (run r0 (durable e)).dev.ctx[(0 : CtxId)].cp.ckpt = some (r0, [e]) ∧
    (run r0 (durable e)).dev.ctx[(0 : CtxId)].cp.failed = false ∧ (∀ p, (run r0 (durable e)).dev.ctx[(0 : CtxId)].cp.prog = some p → p.faulted = none) ∧
    (run r0 (durable e)).dev.rcl.dir = [] := by
  intro e he
  refine ⟨rfl, rfl, rfl, fun p hp => ?_, rfl⟩
  cases hp; rfl

theorem witness_checkpoint_store : (run r0).tablesWf ∧ (run r0).memWf ∧ 0x20000003C % 64 + 4 ≤ 64 ∧ (run r0).dev.region 0x20000003C = .software := by
  decide +kernel

theorem witness_fetch : (run r0).dev.serving = true ∧ (run r0).dev.ctx[(0 : CtxId)].cp.prog = some prog0 ∧ (run r0).dev.launchOf 0 = some launch0 ∧
    (let a := prog0.image + 64 * (99 + 1)
     99 < prog0.words ∧ a % 64 = 0 ∧ a < 2 ^ 52 ∧ (run r0).dev.region a = .software ∧ (run r0).dev.atHand a = true ∧
     (run r0).dev.ctx[(0 : CtxId)].cp.ibuf.length < 4096) ∧ prog0.words ≤ 100 := by decide +kernel

theorem witness_fetch_past_end : (run r0 fun p => { p with prog := some { prog0 with ending := true } }).dev.ctx[(0 : CtxId)].cp.ready = none := by
  decide +kernel

/-! ## The Period -/

/-- A device in service whose Period is as `f` makes it. -/
def inPeriod (f : Period → Period) (g : Grp := {}) : State := { dev := { upDev with per := f upDev.per, grp := g } }

/-- A Head that expects module 1 besides itself, at the end of a route. -/
def headGrp : Grp := { role := .head, formed := true, reachable := 3, routes := (Vector.replicate 64 {}).set 1 { valid := true } }

/-- The state with Lexicon value 0x2400 subindex 5, the expected members, at `m`. -/
def expecting (m : Nat) (s : State) : State := { s with dev := { s.dev with lex := { s.dev.lex with vals := [(256 * 0x2400 + 5, m)] } } }

/-- A Dependent of Head 0. -/
def depGrp : Grp := { role := .dependent, formed := true, module := 1, head := 0, reachable := 3, myDelay := 300 }

def locked (src : BitVec 2) (p : Period) : Period := { p with source := src, pstate := .locked }
def inState (src : BitVec 2) (st : PState) (p : Period) : Period := { p with source := src, pstate := st }

/-- States in which the Kraip's own ticks are due, in the order of `ownTicks`. -/
def ownTickStates : List State :=
  [inPeriod id, inPeriod (locked 1), inPeriod (inState 1 .holdover), inPeriod (inState 1 .acquiring),
    inPeriod fun p => { inState 1 .acquiring p with newSetting := true }]

theorem witness_own_ticks : ∀ p ∈ ownTicks.zip ownTickStates,
    p.2.dev.canTick = true ∧ p.1.2.1 p.2.dev.per = true ∧ p.2.dev.leads = false := by decide +kernel

theorem witness_own_ticks_dependent : (inPeriod (inState 3 .holdover) depGrp).dev.canTick = true ∧
    (inPeriod (inState 3 .holdover) depGrp).dev.leads = false := by decide +kernel

theorem witness_head_ticks : (expecting 3 (inPeriod id headGrp)).dev.canTick = true ∧ (expecting 3 (inPeriod id headGrp)).dev.leads = true ∧
    (inPeriod id { headGrp with leadTick := some (80000000, 80002000) }).dev.serving = true ∧
    (inPeriod id { headGrp with leadTick := some (80000000, 80002000) }).dev.per.started = true := by decide +kernel

/-- A device whose SYNC0 is active in state SAFE-OP. -/
def sync0State : State :=
  { dev := { upDev with per := locked 2 upDev.per, net := { upDev.net with al := 4, esc := [(0x981, 3)], lastSys := some 7 } } }

theorem witness_sync0 : sync0State.dev.canTick = true ∧ sync0State.dev.usesEvent .sync0 8 ∧ sync0State.dev.leads = false :=
  ⟨by decide +kernel, ⟨by decide +kernel, .inl (by decide +kernel), by decide +kernel, fun y h => by cases h; decide⟩, by decide +kernel⟩

/-- T is 40 ms here: the times since the last tick at the boundaries of each window, which events reach at `x` − 120 ns. -/
theorem witness_source_windows : ∀ st ∈ [PState.locked, .acquiring, .holdover],
    (inPeriod (inState 1 st)).dev.canTick = true ∧ (inPeriod (inState 1 st)).dev.usesEvent .syncIn 0 ∧
    (inPeriod (inState 1 st)).dev.leads = false ∧ (inPeriod (inState 1 st)).dev.per.pstate = st := by
  intro st h
  refine ⟨rfl, rfl, ?_, rfl⟩
  decide +revert +kernel

theorem witness_source_boundaries : 1000 * 25 * 39799999 < 995 * (1000000000 * 1) ∧ 995 * (1000000000 * 1) ≤ 1000 * 25 * 39800000 ∧
    1000 * 25 * 40200000 ≤ 1005 * (1000000000 * 1) ∧ 1005 * (1000000000 * 1) < 1000 * 25 * 40200001 ∧
    1000000000 * 1 ≤ 2 * 25 * 20000000 ∧ 2 * 25 * 60000000 ≤ 3 * (1000000000 * 1) ∧ 2 * 25 * 19999999 < 1000000000 * 1 ∧
    3 * (1000000000 * 1) < 2 * 25 * 60000001 ∧ 200 * 25 * 200000 ≤ 1000000000 * 1 := by decide

theorem witness_tick_flit : (inPeriod (locked 3) depGrp).dev.canTick = true ∧ (inPeriod (locked 3) depGrp).dev.isHead = false ∧
    (inPeriod (locked 3) depGrp).dev.headFor 0 = true ∧ (inPeriod (locked 3) depGrp).dev.headFor 2 = false ∧
    (inPeriod (locked 3) depGrp).dev.per.pstate = .locked := by decide +kernel

/-- A device with a share being zeroed, SYNC_OUT high and a comparator armed. -/
def eventful : State :=
  { dev := { upDev with
      zeroing := [{ c := 3, base := 262144, units := 1, done := true }, { c := 3, base := 0, units := 128 }]
      per := { upDev.per with syncOutHigh := true, pulseEnd := 40000200 }
      cmp := upDev.cmp.set 7 { holder := 0x2510, armed := true, offset := 5 } } }

theorem witness_small_events : eventful.dev.serving = true ∧
    eventful.dev.zeroing.find? (fun z => z.c = 3 && !z.done) = some { c := 3, base := 0, units := 128 } ∧
    0 + 128 * 262144 ≤ padSize ∧ eventful.dev.per.syncOutHigh = true ∧ eventful.dev.cmp[(7 : Fin 8)].armed = true ∧
    eventful.dev.cmp[(7 : Fin 8)].fired = false := by decide +kernel

/-! ## Queues, launches and fences -/

/-- A device in service whose queue 3 of context 15 is `q`, with the commands `cs`. -/
def queued (q : Queue) (cs : List Cmd := []) (n : Nat := 20) : State :=
  { dev := { upDev with
      ctx := upDev.ctx.set 15 { st := .active, g := { units := 2, quota := 4, base := 524288 }, cp := { pair := some 15 }
                                queue := (Vector.replicate 4 ({} : Queue)).set 3 q }
      cmds := cs, nextId := n } }

/-- An enabled queue with its control block at 2^51 + 0x1000. -/
def openQueue : Queue :=
  { st := .enabled, enable := true, qcb := 0x1000, ring := 2 ^ 51 + 0x10000, size := 16, cplRing := 2 ^ 51 + 0x20000, cplSize := 64 }

/-- The state with the control block's TAIL line monitored. -/
def monitored (s : State) : State := { s with dev := { s.dev with rcl := { s.dev.rcl with monitor := [2 ^ 51 + 0x1040] } } }

theorem witness_tail_line : (monitored (queued openQueue)).dev.serving = true ∧ (monitored (queued openQueue)).memWf ∧
    openQueue.st = .enabled ∧ (monitored (queued openQueue)).dev.monitors (openQueue.lineAddr 1) ∧
    (((0x10 : Line).setWidth 64 : DWord) - openQueue.head).toNat ≤ openQueue.size ∧
    openQueue.size < (((0x11 : Line).setWidth 64 : DWord) - openQueue.head).toNat := by decide +kernel

theorem witness_fetched : (queued { openQueue with issued := 1, tail := 1 }).dev.serving = true ∧
    (queued { openQueue with issued := 1, tail := 1 }).dev.rclUp = true ∧
    (queued { openQueue with issued := 1, tail := 1 }).dev.ctx[(15 : CtxId)].queue[(3 : QId)].issued ≠
      (queued { openQueue with issued := 1, tail := 1 }).dev.ctx[(15 : CtxId)].queue[(3 : QId)].head := by decide +kernel

/-- A queue with its CPL_RD line and the device ring's RD line monitored. -/
def pointing : State :=
  { queued { openQueue with cplLine := 2 ^ 51 + 0x10C0 } with dev := { (queued { openQueue with cplLine := 2 ^ 51 + 0x10C0 }).dev with
      ring := { st := .enabled, size := 64, ecb := 0x2000 }
      rcl := { (queued openQueue).dev.rcl with monitor := [2 ^ 51 + 0x10C0, 2 ^ 51 + 0x2040] } } }

theorem witness_read_pointers : pointing.dev.serving = true ∧ pointing.memWf ∧
    pointing.dev.monitors pointing.dev.ctx[(15 : CtxId)].queue[(3 : QId)].cplLine ∧ (pointing.dev.ringOf none).st = .enabled ∧
    pointing.dev.monitors ((pointing.dev.ringOf none).lineAddr 1) := by decide +kernel

/-- A held entry of the Period in force. -/
def heldEntry (l : Line) (poison : Bool := false) : Held := { no := 5, line := l, period := 1, poison := poison }
def dispatching (h : Held) : State := queued { openQueue with held := [h] }

theorem witness_dispatch : ∀ h ∈ [heldEntry 1, heldEntry (2 + 2 ^ 160), heldEntry 0xFF, heldEntry 1 true],
    (dispatching h).dev.serving = true ∧ (dispatching h).dev.ctx[(15 : CtxId)].resident = true ∧
    (dispatching h).dev.turnOf 15 = some 3 ∧ (dispatching h).dev.ctx[(15 : CtxId)].queue[(3 : QId)].held = [h] ∧
    (dispatching h).dev.ctx[(15 : CtxId)].noPair = false ∧ (dispatching h).dev.ctx[(15 : CtxId)].g.quota ≠ 0 ∧
    (∀ x ∈ (dispatching h).dev.cmds, x.id < (dispatching h).dev.nextId) := by decide +kernel

theorem witness_dispatch_cases : entryRejected 1 = false ∧ entryRejected (2 + 2 ^ 160) = false ∧ entryRejected 0xFF = true := by decide +kernel

/-- A ready command of context 15, queue 3. -/
def ready (kind : Nat) (entry : Line) : Cmd :=
  { id := 9, c := 15, q := 3, entryNo := 5, launch := none, kind := kind, entry := entry, period := 1, waits := [], sig := none, phase := .ready }

/-- An entry as a number: bytes of given places and widths. -/
def entryOf (fs : List (Nat × Nat)) : Line := BitVec.ofNat 512 ((fs.map fun p => p.2 * 2 ^ (8 * p.1)).sum)

/-- A launch image of 10 words entered at word 3, and the bytes of its header. -/
def header0 : List Byte := leBytes 0x504B584F 4 ++ leBytes 0x9600 2 ++ leBytes 1 2 ++ leBytes 10 4 ++ leBytes 3 4 ++ [2, 0, 0, 0] ++ leBytes 0xABCD 4
def withHeader (s : State) : State :=
  { s with dev := { s.dev with mem := { s.dev.mem with cells := memPuts [] 0x200000000 header0 } } }
def launchEntry : Line := entryOf [(0, 1), (16, 0x200000000), (24, 0x1234), (32, 77)]
def launching : State := withHeader (queued openQueue [ready 1 launchEntry])

theorem witness_launch : launching.dev.hasReady 9 (ready 1 launchEntry) [0x01] ∧ launching.dev.ctx[(15 : CtxId)].cp.prog = none ∧
    launching.dev.ctx[(15 : CtxId)].cp.pair.isSome = true ∧ ent launchEntry 36 28 = 0 ∧
    launching.dev.headerAt (imageOf (ready 1 launchEntry)) ∧
    (let h := launching.dev.mem.read (imageOf (ready 1 launchEntry)) 64
     headerOk h launching.dev.ctx[(15 : CtxId)].g.units = true ∧
     BitVec.ofNat 8 (natAt h 17 1) &&& ~~~launching.dev.ctx[(15 : CtxId)].heldMc = 0 ∧
     BitVec.ofNat 8 (natAt h 18 1) &&& ~~~launching.dev.ctx[(15 : CtxId)].heldCmp = 0) := by decide +kernel

theorem witness_bad_launch :
    (queued openQueue [ready 1 (entryOf [(0, 1), (16, 0x200000020)])]).dev.hasReady 9 (ready 1 (entryOf [(0, 1), (16, 0x200000020)])) [0x01] ∧
    imageOf (ready 1 (entryOf [(0, 1), (16, 0x200000020)])) % 64 ≠ 0 ∧ ent (entryOf [(0, 1), (63, 1)]) 36 28 ≠ 0 := by decide +kernel

def setEntry : Line := entryOf [(0, 2), (17, 255), (20, 0xFFFFFFFF)]
def addEntry : Line := entryOf [(0, 2), (16, 1), (17, 0), (20, 1)]

theorem witness_fence : (queued openQueue [ready 2 setEntry]).dev.hasReady 9 (ready 2 setEntry) [0x02] ∧ ent setEntry 16 1 = 0 ∧
    (queued openQueue [{ ready 2 addEntry with sig := some 0 }]).dev.hasReady 9 { ready 2 addEntry with sig := some 0 } [0x02] ∧
    ent addEntry 16 1 = 1 ∧ (ready 2 addEntry).launch = none := by decide +kernel

/-- The companion cannot be reached. -/
def cut (s : State) : State := { s with dev := { s.dev with rcl := { s.dev.rcl with st := .down } } }

theorem witness_record : (cut (queued openQueue [ready 2 setEntry])).dev.hasReady 9 (ready 2 setEntry) [0x02] ∧
    (cut (queued openQueue [ready 2 setEntry])).dev.rclUp = false ∧ (queued openQueue [ready 2 setEntry]).dev.rclUp = true ∧
    openQueue.recs = [] ∧ openQueue.cplSize ≠ 0 ∧ openQueue.cplNext - openQueue.cplRd.toNat < openQueue.cplSize ∧
    2 ^ 51 ≤ openQueue.cplRing ∧ openQueue.cplRing + 32 * openQueue.cplSize ≤ 2 ^ 52 ∧ openQueue.cplRing % 32 = 0 ∧
    (queued openQueue [ready 2 setEntry]).memWf := by decide +kernel

/-! ## Registers, captures and the indirect pair -/

/-- A device in service, and the same device as `f` makes it. -/
def up (f : Dev → Dev := id) : State := { dev := f upDev }

theorem witness_register_write : (up).dev.takesWrites ∧ rwpMask 0x10000 ≠ 0 ∧ rwpMask 0x1FFFC = 0 ∧ writableAt 0x1FFFC = false ∧
    (∀ x ∈ [0x10100, 0x108, 0x1F044], rwpMask x ≠ 0) ∧ (up).dev.ind.busy = false := by decide +kernel

theorem witness_halted_write : (up fun d => { d with dump := { d.dump with halted := true } }).dev.windowsOpen = true ∧
    (up fun d => { d with dump := { d.dump with halted := true } }).dev.dump.halted = true ∧ ¬(0xB0000 ≤ 0xC0000 ∧ 0xC0000 < 0xC0000) := by
  decide +kernel

theorem witness_inject : (0x80CF7F7F : Word).getLsbD 31 = true ∧ bits (0x80CF7F7F : Word) 16 8 = (207 : ArrId).val := by decide

theorem witness_windows : (up).dev.windowsOpen = true ∧ (0xB000C % 4 = 0) ∧ (up).dev.lex.busy = false ∧ 65532 % 4 = 0 ∧ 65532 < 65536 := by
  decide +kernel

def busyPair (d : Dev) : Dev := { d with ind := { d.ind with busy := true } }
def running (d : Dev) : Dev := { d with mem := { d.mem with ch := d.mem.ch.set 191 { mrgRun := true, st := .held } } }

theorem witness_indirect : (up busyPair).dev.takesWrites ∧ (up busyPair).dev.ind.busy = true ∧ (up busyPair).dev.ind.wr = none ∧
    (up running).dev.mem.ch[(191 : Fin 192)].mrgRun = true := by decide +kernel

/-! ## The Lexicon -/

theorem witness_mailbox : (up).dev.mailboxFree ∧ lexExists 0x2000 1 = 0 ∧ (lexRow 0x2000 1).isSome = true ∧ lexFlash 0x2000 1 = false ∧
    lexExists 0x1FFF 0 ≠ 0 ∧ lexExists 0x2000 255 ≠ 0 := by decide +kernel

theorem witness_flash_read : lexExists 0x2800 1 = 0 ∧ lexFlash 0x2800 1 = true ∧
    (up fun d => { d with lex := { d.lex with flashWait := some (0x2800, 1), busy := true } }).dev.lex.flashWait = some (0x2800, 1) ∧
    (up fun d => { d with lex := { d.lex with coeWait := some (0x2800, 1) } }).dev.lex.coeWait = some (0x2800, 1) := by decide +kernel

/-- A device whose field network is in state PREOP. -/
def preop (d : Dev) : Dev := { d with net := { d.net with al := 2 } }

theorem witness_lex_write : (up).dev.mailboxFree ∧ (up preop).dev.coeOpen = true ∧
    (up).dev.lexCheck false 0x2000 1 [1] = 0 ∧ (up).dev.lexCheck false 0x2000 1 [1, 0] ≠ 0 ∧
    (up preop).dev.lexCheck true 0x2A01 1 [1] ≠ 0 := by decide +kernel

theorem witness_lex_coe_accepted : (up fun d => { preop d with lex := { d.lex with vals := [(lexKey 0x2A01 1, 2)] } }).dev.lexCheck true 0x2000 1 [1] = 0 := by
  decide +kernel

theorem witness_lex_checks : (up fun d => { d with dump := { d.dump with halted := true } }).dev.dump.halted = true ∧
    (up).dev.dump.halted = false ∧ lexExists 0x1FFF 0 ≠ 0 ∧ (lexRow 0x1008 0).isSome = true ∧
    ((lexRow 0x1008 0).map (·.rw)) = some false ∧ ((lexRow 0x2A01 1).map (·.rw)) = some true ∧ ((lexRow 0x2000 1).map (·.rw)) = some true ∧
    ((lexRow 0x2000 1).map fun r => r.ty.bytes) = some 1 ∧ ((lexRow 0x2000 1).map fun r => decide (r.ty = .vstr)) = some false := by decide +kernel

theorem witness_field : (up preop).dev.coeOpen = true ∧ (up preop).dev.fieldRuns = true ∧ lexExists 0x1FFF 0 ≠ 0 ∧
    lexExists 0x2000 1 = 0 ∧ lexFlash 0x2000 1 = false ∧ ((4 : BitVec 4) ≤ (up preop).dev.net.al ∨ (4 : BitVec 4) = 2 * (up preop).dev.net.al) ∧
    ((1 : BitVec 4) ≤ (up preop).dev.net.al) ∧ escWidth 0x990 ≠ 0 ∧ (up preop).tablesWf := by decide +kernel

/-! ## Security -/

/-- A device whose slot B, not the running one, is TRIAL. -/
def trialB (d : Dev) : Dev := { d with sec := { d.sec with slots := d.sec.slots.set 1 { st := .trial, rollback := 7 } } }
def withSpare (d : Dev) : Dev := { d with flt := { d.flt with sup := d.flt.sup.set 1 { st := .spare } } }

theorem witness_stage : (up trialB).dev.secFree 1 ∧ (up trialB).dev.sec.stage ≠ .recovery ∧ (up trialB).dev.sec.trial.isSome = true ∧
    (up).dev.secFree 1 ∧ (up).dev.sec.trial = none ∧ (up).dev.sec.len.toNat ≤ 2 ^ 26 ∧
    2 ^ 26 < (up fun d => { d with sec := { d.sec with len := 0x4000001 } }).dev.sec.len.toNat := by decide +kernel

theorem witness_trial : (∀ op ∈ [2, 3, 4], (up trialB).dev.secFree op ∧ (up).dev.secFree op) ∧ (up trialB).dev.sec.trial = some true ∧
    (up).dev.sec.trial = none := by decide +kernel

/-- A device that holds lines of companion memory. -/
def holding (l : List (Nat × LineSt)) : State := up fun d => { d with rcl := { d.rcl with lines := l } }

theorem holding_reads (l : List (Nat × LineSt)) (n : Nat) (h : l = (linePieces (2 ^ 51) n).map fun p => (p.1 - p.1 % 64, LineSt.e)) :
    (Dev.readOpen (holding l).dev.seen .unit (2 ^ 51) n).2.rcl.missed = false := by
  have := Dev.readOpen_clean (holding l).dev.seen .unit (2 ^ 51) n (Nat.le_refl _) (Dev.atHand_pieces _ _ _ (Nat.le_refl _) h) rfl rfl
  rw [this]
  rfl

theorem holding_addr (l : List (Nat × LineSt)) : (holding l).dev.secAddr = 2 ^ 51 := by
  show (0 : BitVec 64).toNat % 2 ^ 51 + 2 ^ 51 = 2 ^ 51
  decide

theorem witness_install : ∃ l, (holding l).dev.secFree 5 ∧ (holding l).dev.secFree 9 ∧ (holding l).dev.statementHeld := by
  refine ⟨(linePieces (2 ^ 51) stmtBytes).map fun p => (p.1 - p.1 % 64, LineSt.e), ⟨rfl, rfl⟩, ⟨rfl, rfl⟩, ?_⟩
  unfold Dev.statementHeld
  rw [holding_addr]
  exact holding_reads _ _ rfl

/-- A security command with a length, and an address whose line the cache holds. -/
def secLen (n : Nat) (ok : Bool) (d : Dev) : Dev :=
  { d with sec := { d.sec with len := BitVec.ofNat 32 n, idOk := ok }, rcl := { d.rcl with lines := [(2 ^ 51, .e)] } }

theorem witness_measure : (up (secLen 1 true)).memWf ∧ (up (secLen 1 true)).dev.secFree 7 ∧ 1 ≤ (up (secLen 0x1000000 true)).dev.sec.len.toNat ∧
    (up (secLen 0x1000000 true)).dev.sec.len.toNat ≤ 2 ^ 24 ∧ (up (secLen 1 false)).dev.sec.idOk = false ∧
    (up (secLen 50943 true)).dev.sec.len.toNat < 50944 ∧ 50944 ≤ (up (secLen 50944 true)).dev.sec.len.toNat ∧
    (up (secLen 50944 true)).dev.secFree 6 ∧ (up (secLen 50944 true)).dev.secAddr + 50944 ≤ 2 ^ 52 ∧
    (up (secLen 50944 true)).dev.secAddr % 64 = 0 ∧ (up (secLen 50944 true)).dev.atHand (up (secLen 50944 true)).dev.secAddr = true ∧
    (up (secLen 60095 true)).dev.secFree 8 ∧ (up (secLen 60095 true)).dev.sec.len.toNat < 60096 ∧
    60096 ≤ (up (secLen 60096 true)).dev.sec.len.toNat ∧ (up (secLen 60096 true)).dev.secAddr + 60096 ≤ 2 ^ 52 := by decide +kernel

theorem witness_spare : (up fun d => { withSpare (trialB d) with sec := { (trialB d).sec with spareLoads := true } }).dev.serving = true ∧
    (up fun d => { withSpare (trialB d) with sec := { (trialB d).sec with spareLoads := true } }).dev.sec.spareLoads = true ∧
    (up fun d => withSpare (trialB d)).dev.sec.trial.isSome = true ∧ (up withSpare).dev.spareSup.isSome = true ∧ (up).dev.pwr.on = true := by
  decide +kernel

/-! ## Power, reset and the halted state -/

/-- A module with its power pins and rails as given, and a stage of the security block. -/
def powered (p : Pwr) (st : Stage := .rom) : State := { dev := { Dev.reset with pwr := p, sec := { Dev.reset.sec with stage := st } } }

theorem witness_power_up :
    (let p := (powered { on := false }).dev.pwr; p.lockedOff = false ∧ p.shutdown = false ∧ p.holdoff = false ∧ p.on = false ∧ p.inReset = false ∧
      p.modEn = true ∧ p.supplied = true) ∧
    (let p := (powered { on := false, holdoff := true, modEn := false }).dev.pwr; p.lockedOff = false ∧ p.holdoff = true ∧ p.modEn = false) ∧
    (let p := (powered { on := true, rails := 6 }).dev.pwr; p.on = true ∧ p.rails < 7) ∧
    (let p := (powered { on := true, rails := 7 }).dev.pwr; p.on = true ∧ p.rails = 7 ∧ p.inReset = false) ∧
    (let p := State.reset.dev.pwr; p.on = true ∧ p.rails = 8 ∧ p.inReset = true) ∧
    (let s := powered {} .recovery; s.dev.pwr.on = true ∧ s.dev.pwr.rails = 8 ∧ s.dev.pwr.inReset = false ∧ s.dev.sec.stage ≠ .service ∧ s.dev.pwr.shutdown = false) ∧
    (let p := (powered { on := false, holdoff := true, rise := true, modEn := true }).dev.pwr
     p.holdoff = true ∧ p.modEn = true ∧ p.lockedOff = false ∧ p.inReset = false ∧ p.supplied = true) ∧
    (34000 : Int) ≤ 34000 ∧ (46000 : Int) ≤ 46000 := by decide +kernel

theorem witness_power_down :
    (let p := (powered { rails := 7 }).dev.pwr; p.on = true ∧ p.rails < 8) ∧
    ((31999 : Int) < 32000 ∧ (48000 : Int) < 48001 ∧ (32000 : Int) ≤ 32000 ∧ (33999 : Int) < 34000 ∧ (46000 : Int) < 46001 ∧ (48000 : Int) ≤ 48000) ∧
    (let s := powered {} .loading; s.dev.pwr.shutdown = false ∧ s.dev.pwr.on = true ∧ s.dev.pwr.rails = 8 ∧ s.dev.pwr.modEn = true ∧
      s.dev.per.started = false) ∧
    (let s := up; s.dev.pwr.modEn = true ∧ s.dev.pwr.shutdown = false ∧ s.dev.pwr.on = true ∧ s.dev.per.started = true ∧
      s.dev.firmwareRuns = true) := by decide +kernel

/-- A flash whose manifest of slot A is of zeros, so that it lists no component. -/
def zeroFlash : List Host.Cell := (List.range 0x10000).map fun i => (0x110000 + i, 0)
def serviceable : State := { powered {} .loading with
  dev := { (powered {} .loading).dev with sec := { (powered {} .loading).dev.sec with flash := zeroFlash, slot := false } } }

theorem zeroFlash_byte (j : Nat) (h : j < 0x10000) : flashByte zeroFlash (0x110000 + j) = 0 := by
  unfold flashByte
  cases e : zeroFlash.find? (fun x => x.1 = 0x110000 + j) with
  | some p =>
    obtain ⟨i, -, hi⟩ := List.mem_map.1 (List.mem_of_find?_eq_some e)
    subst hi; rfl
  | none =>
    have := List.find?_eq_none.1 e (0x110000 + j, 0) (List.mem_map.2 ⟨j, List.mem_range.2 h, rfl⟩)
    simp at this

theorem componentsOk_none (d : Dev) (hf : d.sec.flash = zeroFlash) (hs : d.sec.slot = false) : d.componentsOk = true := by
  unfold Dev.componentsOk
  simp only [hs]
  have m : ∀ x ∈ imgManifest (d.slotImg false), x = 0 := by
    intro x hx
    simp only [imgManifest, Dev.slotImg, Dev.flashRead, hf, List.mem_map, List.mem_range] at hx
    obtain ⟨i, hi, rfl⟩ := hx
    exact zeroFlash_byte i hi
  refine List.all_eq_true.2 fun i _ => ?_
  generalize imgManifest (d.slotImg false) = l at m ⊢
  unfold imgComponent
  have : (((l.drop (128 * i)).take 128).all fun x => decide (x = 0)) = true :=
    List.all_eq_true.2 fun x hx => decide_eq_true (m x (List.mem_of_mem_drop (List.mem_of_mem_take hx)))
  simp only [this, Bool.true_or]

theorem witness_components : serviceable.dev.componentsOk = true :=
  componentsOk_none _ (by simp only [serviceable]) (by simp only [serviceable])

theorem witness_service : serviceable.dev.booted = true ∧ serviceable.dev.sec.stage = .loading ∧ serviceable.dev.per.started = false :=
  ⟨rfl, rfl, rfl⟩

/-- An image is being programmed. -/
def flushing (shut : Bool) : State := up fun d => { d with life := { d.life with busy := true, writing := some {}, sector := 255 }, pwr := { d.pwr with shutdown := shut } }

theorem witness_sensors : (up).dev.awake = true ∧ (flushing false).dev.firmwareRuns = true ∧ (flushing false).dev.life.busy = true ∧
    (flushing false).dev.life.writing = some {} ∧ (flushing false).dev.pwr.shutdown = false ∧ (flushing true).dev.firmwareRuns = true ∧
    (flushing true).dev.pwr.shutdown = true := by decide +kernel

/-- A reading: die sensor 3 the hottest at 95 °C, 40.03 V, as R428 has it. -/
def sampled : State := up fun d => { d with pwr := { d.pwr with temp := d.pwr.temp.set 3 1520, vin := 40030 }, life := { d.life with hist := [(95, 7)] } }
theorem witness_second : sampled.dev.awake = true ∧ alWf 0 sampled.dev.life.hist ∧ (∃ k : Fin 16, sampled.dev.pwr.temp[k.val] = 1520) ∧
    (∀ k : Fin 16, sampled.dev.pwr.temp[k.val].toInt ≤ (1520 : BitVec 16).toInt) := by decide +kernel

theorem witness_fatal : (run r0 escaping).dev.serving = true := by decide +kernel

theorem witness_halted : (up fun d => { d with dump := { d.dump with halted := true } }).dev.dump.halted = true := by decide +kernel

theorem witness_off : (powered { on := false }).dev.pwr.on = false ∧ Instr.rstNReset ≠ .modEnAssert ∧ Instr.rstNReset ≠ .modEnHoldoffElapsed ∧
    Instr.rstNReset ≠ .rstNRise ∧ Instr.rstNReset ≠ .inputOutOfRange 40000 := by decide +kernel

/-! ## Faults, repair and memory -/

def spared (d : Dev) : Dev := { d with flt := { d.flt with pair := d.flt.pair.set 17 { st := .spare } } }
def failedPair (d : Dev) : Dev := { spared d with ctx := d.ctx.set 0 { d.ctx[0] with cp := { d.ctx[0].cp with failed := true } } }
def testedPair (d : Dev) : Dev := { d with flt := { d.flt with pair := d.flt.pair.set 17 { st := .test, testing := true } } }
def twoSups (d : Dev) : Dev := { d with flt := { d.flt with sup := (d.flt.sup.set 0 { st := .active }).set 1 { st := .spare } } }
def oneSup (d : Dev) : Dev := { d with flt := { d.flt with sup := (d.flt.sup.set 0 { st := .test }).set 1 { st := .active } } }

theorem witness_pairs : (up spared).dev.serving = true ∧ (up spared).dev.ctx[(0 : CtxId)].cp.pair = some 0 ∧
    (up spared).dev.ctx[(0 : CtxId)].cp.failed = false ∧ (up spared).dev.sparePair.isSome = true ∧
    (up failedPair).dev.ctx[(0 : CtxId)].cp.failed = true ∧ (up failedPair).dev.sparePair = some 17 ∧
    (up testedPair).dev.flt.pair[(17 : Fin 18)].st = .test ∧ (up testedPair).dev.flt.pair[(17 : Fin 18)].testing = true ∧
    (up testedPair).dev.flt.pair[(17 : Fin 18)].returning = false ∧ (up twoSups).dev.activeSup = some 0 ∧ (up twoSups).dev.spareSup = some 1 ∧
    (up oneSup).dev.activeSup = some 1 ∧ (up oneSup).dev.spareSup = none := by decide +kernel

/-- Slot 191 is copied from array 0 to array 207; array 5 is tested to return, array 6 is zeroed; engine 7 is tested. -/
def repairing (d : Dev) : Dev :=
  { d with
    flt := { d.flt with slot := d.flt.slot.set 191 { arr := some 0, copyTo := some 207 } }
    arr := ((((d.arr.set 0 { st := .inService, slot := some 191 }).set 207 { st := .inService }).set 5
      { st := .test, testing := true, returning := true }).set 6 { st := .spare, zeroing := true })
    cod := { d.cod with eng := d.cod.eng.set 7 { d.cod.eng[7] with testing := true } } }

theorem witness_repair : (up repairing).dev.serving = true ∧ (up repairing).memWf ∧ (up repairing).dev.flt.slot[(191 : Fin 192)].arr = some 0 ∧
    (up repairing).dev.flt.slot[(191 : Fin 192)].copyTo = some 207 ∧ (∀ y : ArrId, (up repairing).dev.arr[y].slot = some 191 → y = 0) ∧
    (up repairing).dev.arr[(207 : ArrId)].st = .inService ∧ (up repairing).dev.arr[(5 : ArrId)].st = .test ∧
    (up repairing).dev.arr[(5 : ArrId)].testing = true ∧ (up repairing).dev.arr[(5 : ArrId)].returning = true ∧
    (up repairing).dev.arr[(6 : ArrId)].zeroing = true ∧ (up repairing).dev.arr[(6 : ArrId)].st = .spare ∧
    (up repairing).dev.cod.eng[(7 : EngId)].testing = true := by decide +kernel

/-- A sparing reserve of `k`. -/
def reserve (k : Nat) (d : Dev) : Dev := { d with lex := { d.lex with vals := [(lexKey 0x2300 3, k)] } }
def sparing (d : Dev) : Dev := { d with mem := { d.mem with ch := d.mem.ch.set 191 { st := .sparing }, spares := [{ channel := 191 }] } }

theorem witness_channels : (up (reserve 1)).dev.mem.ch[(191 : Fin 192)].st = .inService ∧
    (up (reserve 1)).dev.mem.spares.length < (up (reserve 1)).dev.reserveK ∧ (up (reserve 0)).dev.reserveK ≤ (up (reserve 0)).dev.mem.spares.length ∧
    (up).dev.mem.channel 191 = 191 ∧ (64 * 191 < 2 ^ 51) ∧ (up).dev.ring.st ≠ .enabled ∧ (up sparing).dev.mem.ch[(191 : Fin 192)].st = .sparing := by decide +kernel

/-- An entry of a write-combining buffer that has reached the age limit. -/
def aged : WcEntry := { line := 7, mask := 1, time := 0 }
def combining (d : Dev) : Dev := { d with mem := { d.mem with wcb := d.mem.wcb.set 47 { entries := [aged] } } }

theorem witness_scrubs : (up).dev.serving = true ∧ 4194303 < 2 ^ 22 ∧ (up).dev.mem.channel 191 = 191 ∧ 64 * 191 < 0x16800000000 ∧
    (up).dev.mem.ch[(191 : Fin 192)].st ≠ .held ∧ (up).dev.ring.st ≠ .enabled ∧
    (up combining).dev.mem.wcb[(47 : Fin 48)].entries.find?
      (fun e => decide (e.time + (up combining).dev.lexVal 0x2303 1 ≤ (up combining).dev.per.now)) = some aged := by decide +kernel

/-! ## The companion link -/

def linked (r : Rcl) : State := up fun d => { d with rcl := r }
/-- A line of companion memory and one of the software region. -/
def farLine : Nat := 0x8000000000040
def homeAddr : Nat := 0x200000040

theorem witness_rcl : (linked { st := .up16 }).dev.rcl.st = .up16 ∧ (linked { st := .up8, half := true }).dev.rcl.st = .up8 ∧
    (linked { st := .down }).dev.rcl.st = .down ∧ (linked { st := .down }).dev.powered = true ∧
    (linked { st := .train, lines := [(farLine, .m)] }).dev.rcl.st = .train ∧ (linked { st := .train }).dev.powered = true ∧
    (farLine, LineSt.m) ∈ (linked { st := .train, lines := [(farLine, .m)] }).dev.rcl.lines := by decide +kernel

/-- The companion holds a line of the software region in O. -/
def owned : State := linked { st := .up16, dir := [(homeAddr, true)] }

theorem witness_home : owned.dev.homeLine (homeAddr + 63) homeAddr ∧ owned.memWf ∧ owned.dev.region homeAddr = .software ∧
    (homeAddr, true) ∈ owned.dev.rcl.dir ∧ (∀ p ∈ owned.dev.rcl.probes, p.addr ≠ homeAddr) ∧
    owned.dev.homeLine 63 0 ∧ owned.dev.region 0 = .firmware ∧ owned.dev.ring.st ≠ .enabled ∧
    (up (reserve 1)).dev.homeLine 0x167FFFFFFFF 0x167FFFFFFC0 ∧ (up (reserve 1)).dev.region 0x167FFFFFFC0 = .reserve ∧
    (up (reserve 1)).memWf ∧ (up (reserve 1)).dev.ring.st ≠ .enabled := by decide +kernel

theorem witness_probes :
    (let s := linked { st := .up16, lines := [(farLine, .m)] }
     s.dev.rclUp = true ∧ farLine = farLine + 63 - (farLine + 63) % 64 ∧ s.memWf ∧ 2 ^ 51 ≤ farLine ∧ s.dev.rcl.monitor.contains farLine = false ∧
       s.dev.lineState farLine = some .m ∧ s.dev.mem.bad farLine = false) ∧
    (let s := linked { st := .up16, lines := [(farLine, .e)] }
     s.dev.rcl.monitor.contains farLine = false ∧ s.dev.lineState farLine = some .e) ∧
    (let s := linked { st := .up16, probes := [{ addr := homeAddr, drop := true }] }
     homeAddr < 2 ^ 51 ∧ homeAddr = homeAddr - homeAddr % 64 ∧ (∃ p ∈ s.dev.rcl.probes, p.addr = homeAddr ∧ p.drop = true) ∧ s.dev.cjn.held = []) ∧
    (let s := linked { st := .up16, lines := [(farLine, .s)], asks := [{ addr := farLine, kind := .sole }] }
     ({ addr := farLine, kind := .sole } : Ask) ∈ s.dev.rcl.asks ∧ (∀ a ∈ s.dev.rcl.asks, a.addr = farLine → a.mask = 0) ∧
       (s.dev.lineState farLine).isSome = true ∧ s.dev.rcl.lines.length < 65536) ∧
    (let s := linked { st := .up16, asks := [{ addr := farLine, kind := .clean }] }
     s.dev.rclUp = true ∧ s.memWf ∧ 2 ^ 51 ≤ farLine ∧ farLine + 64 ≤ 2 ^ 52 ∧
       s.dev.rcl.asks.find? (·.addr = farLine) = some { addr := farLine, kind := .clean } ∧ s.dev.queuesAtRest ∧ s.dev.rcl.lines.length < 65536) := by
  decide +kernel

/-! ## Chip links -/

/-- Port 17 in a state. -/
def portIn (x : Port) (d : Dev) : Dev := { d with port := d.port.set 17 x }
def flit (seq : BitVec 12) (ty : BitVec 4) : Flit :=
  { type := ty, cls := 1, stomp := false, seq := seq, ack := 0xFFF, nak := false, crcls := 0, crv := false, dest := 0, src := 1, stream := 0,
    payload := 0x55 }
def aPort : PortId := 17
/-- A flit with its CRC, and with no check symbols. -/
def wireOf (f : Flit) : BitVec 640 := (0 : BitVec 32) ++ (flitCrc (f.payload ++ flitHeader f) ++ (f.payload ++ flitHeader f))
/-- The same with another CRC. -/
def badWireOf (f : Flit) : BitVec 640 := (0 : BitVec 32) ++ (~~~flitCrc (f.payload ++ flitHeader f) ++ (f.payload ++ flitHeader f))

theorem wire_bits (a c : BitVec 32) (b : BitVec 576) (w : BitVec 640) (h : w = a ++ (c ++ b)) (k : Nat) (hk : k < 608) :
    w.getLsbD k = if k < 576 then b.getLsbD k else c.getLsbD (k - 576) := by
  have e : w.getLsbD k = (a ++ (c ++ b) : BitVec (32 + (32 + 576))).getLsbD k := by rw [h]
  rw [e, BitVec.getLsbD_append, BitVec.getLsbD_append, if_pos (by omega)]

theorem wire_body (a c : BitVec 32) (b : BitVec 576) (w : BitVec 640) (h : w = a ++ (c ++ b)) (i n : Nat) (hi : i + n ≤ 576) :
    w.extractLsb' i n = b.extractLsb' i n := by
  refine BitVec.eq_of_getLsbD_eq fun j hj => ?_
  rw [BitVec.getLsbD_extractLsb', BitVec.getLsbD_extractLsb', wire_bits a c b w h _ (by omega), if_pos (by omega)]

theorem wire_crc (a c : BitVec 32) (b : BitVec 576) (w : BitVec 640) (h : w = a ++ (c ++ b)) : w.extractLsb' 576 32 = c := by
  refine BitVec.eq_of_getLsbD_eq fun j hj => ?_
  rw [BitVec.getLsbD_extractLsb', wire_bits a c b w h _ (by omega), if_neg (by omega), Nat.add_sub_cancel_left]
  simp [hj]

/-- The body of a flit, of 72 bytes. -/
def bodyOf (f : Flit) : BitVec 576 := f.payload ++ flitHeader f

theorem wire_ok (a c : BitVec 32) (b : BitVec 576) (w : BitVec 640) (h : w = a ++ (c ++ b)) : flitOk w = decide (flitCrc b = c) := by
  have : b.extractLsb' 0 576 = b := BitVec.eq_of_getLsbD_eq fun j hj => by rw [BitVec.getLsbD_extractLsb']; simp [hj]
  rw [flitOk, wire_body a c b w h 0 576 (by decide), wire_crc a c b w h, this]

theorem witness_wires (f : Flit) : flitOk (wireOf f) = true ∧ flitOk (badWireOf f) = false := by
  refine ⟨(wire_ok 0 (flitCrc (bodyOf f)) (bodyOf f) _ rfl).trans (decide_eq_true rfl),
    (wire_ok 0 (~~~flitCrc (bodyOf f)) (bodyOf f) _ rfl).trans (decide_eq_false fun h => ?_)⟩
  have := congrArg (fun x : BitVec 32 => x.getLsbD 0) h
  simp at this

theorem wireOf_fields (f : Flit) :
    (flitOfWire (wireOf f)).type = (bodyOf f).extractLsb' 60 4 ∧ (flitOfWire (wireOf f)).seq = (bodyOf f).extractLsb' 44 12 ∧
      (flitOfWire (wireOf f)).nak = (bodyOf f).getLsbD 31 :=
  ⟨wire_body 0 _ (bodyOf f) _ rfl _ _ (by decide), wire_body 0 _ (bodyOf f) _ rfl _ _ (by decide), wire_bits 0 _ (bodyOf f) _ rfl 31 (by decide)⟩

theorem witness_flits : (up (portIn { st := .up8 })).dev.serving = true ∧ (up (portIn { st := .up8 })).dev.port[aPort].up = true ∧
    (linked { st := .up16 }).dev.rclUp = true ∧
    (flitOfWire (wireOf (flit 0 1))).type ≠ 0 ∧
    (flitOfWire (wireOf (flit 0 1))).seq = (up (portIn { st := .up8 })).dev.port[aPort].ack + 1 ∧
    (flitOfWire (wireOf (flit 1 1))).seq ≠ (up (portIn { st := .up8 })).dev.port[aPort].ack + 1 ∧
    (flitOfWire (wireOf (flit 0 0))).type = 0 ∧ (flitOfWire (wireOf (flit 0 0))).nak = false ∧
    (∀ l ∈ [(3 : Fin 16), 11], l.val < 12) := by
  simp only [wireOf_fields]
  decide +kernel

theorem witness_ports :
    (∀ x ∈ [({ st := .up12 } : Port), { st := .up8, dropped := 3 }], (up (portIn x)).dev.booted = true ∧
      (up (portIn x)).dev.port[aPort].lanes[(11 : Fin 12)] = .active) ∧
    (up (portIn { st := .up8, busy := true })).dev.port[aPort].busy = true ∧ (up (portIn { st := .up12 })).dev.port[aPort].joined = true ∧
    (up (portIn { st := .down })).dev.lexVal 0x2451 1 ≠ 0 ∧ (up (portIn { st := .down })).dev.port[aPort].absent = false ∧
    (∀ k ∈ [LnkState.down, .detect, .train, .retrain, .ident, .up12, .up8], (up (portIn { st := k })).dev.port[aPort].st = k) ∧
    (up (portIn { st := .down })).dev.serving = true ∧ (up (portIn { st := .down })).dev.lexVal 0x2451 1 = 1 := by decide +kernel

/-! ## Collectives -/

/-- A collective entry of members 0 and 1, tag 7: KIND, formats, DEST, RESV 2 and COUNT. -/
def collEntry (code fmts dest count : Nat) : Line :=
  entryOf [(16, code), (17, fmts), (19, 2), (22, dest), (24, 3), (32, 7), (40, 0x200000000), (48, 0x200100000), (56, count)]
def collXs : List Cmd :=
  [ready 0x10 (collEntry 1 0x55 0 100), ready 0x10 (collEntry 2 0 0 64), ready 0x10 (collEntry 3 0 0 64), ready 0x11 (collEntry 3 0 0 64),
   ready 0x12 (collEntry 2 0 0 64)]
def grouped (g : Grp) (d : Dev) : Dev := { d with grp := g }
/-- A member with one collective to run. -/
def collAt (g : Grp) (x : Cmd) : State := up fun d => grouped g { d with cmds := [x], nextId := 10 }

theorem witness_announce : ∀ p ∈ collCmds.zip collXs,
    p.1.2.2 (CollE.of p.2) = true ∧
    (let s := collAt headGrp p.2
     s.dev.hasDue 9 p.2 p.1.2.1 ∧ (CollE.of p.2).members.getLsbD s.dev.grp.module.val = true ∧ s.dev.mayAnnounce p.2) ∧
    (let s := collAt { headGrp with formed := false } p.2
     s.dev.hasDue 9 p.2 p.1.2.1 ∧ (CollE.of p.2).members.getLsbD s.dev.grp.module.val = true ∧ p.2.phase = .ready ∧ ¬s.dev.mayAnnounce p.2) ∧
    (let s := collAt { headGrp with module := 5 } p.2
     s.dev.hasDue 9 p.2 p.1.2.1 ∧ (CollE.of p.2).members.getLsbD s.dev.grp.module.val = false) := by decide +kernel

/-- An announcement of module 1 for a set of members 0 and 1 with tag 7, and that of module 0. -/
def annOf (reshard : Bool := false) : Announce :=
  { members := 3, tag := 7, digest := 5, dest := 0, isPermute := reshard, isReshard := reshard, withdrawn := false, poisoned := false }
/-- Collective 9 in a phase, with number 70. -/
def collIn (c : Coll) (g : Grp) (x : Cmd) : State := up fun d => grouped g { d with cmds := [x], nextId := 10, cjn := { d.cjn with colls := [c] } }
def waitingColl : Coll := { cmd := 9, ann := annOf }
def reduceX : Cmd := ready 0x10 (collEntry 1 0x55 0 100)
def gatherX : Cmd := ready 0x10 (collEntry 2 0 0 64)

theorem witness_csns :
    (let s := collIn waitingColl depGrp reduceX
     s.dev.serving = true ∧ s.dev.grp.oldHead = none ∧ s.dev.headFor 0 = true ∧ s.dev.awaitsCsn 3 7 waitingColl) ∧
    (let s := collIn waitingColl { depGrp with oldHead := some 5 } reduceX
     s.dev.serving = true ∧ s.dev.grp.oldHead = some 5 ∧ s.dev.awaitsCsn 3 7 waitingColl ∧ (0 : ModId) ≠ 5 ∧ s.dev.headFor 0 = true) := by
  decide +kernel

/-- A Head that holds the announcement of module 0, with the sets `sets`. -/
def announcedGrp (r : Bool) (sets : List HeadSet) : Grp := { headGrp with anns := [{ m := 0, ann := annOf r }], sets := sets }
def bothAnn (r : Bool) : List HeadAnn := [{ m := 0, ann := annOf r }, { m := 1, ann := annOf r }]

theorem witness_sets :
    (up (grouped depGrp)).dev.serving = true ∧ (up (grouped depGrp)).dev.isHead = false ∧ (up (grouped headGrp)).dev.isHead = true ∧
    (annOf).members.getLsbD 2 = false ∧ (annOf).members.getLsbD 1 = true ∧
    (let s := up (grouped headGrp)
     s.dev.grp.ready = [] ∧ takeSet (membersOf (annOf).members) annOf (s.dev.grp.anns ++ [{ m := 1, ann := annOf }]) = none) ∧
    (∀ r ∈ [false, true], let s := up (grouped (announcedGrp r [{ csn := 70, ann := annOf, left := 2 }]))
      s.dev.mayAssign = true ∧ s.dev.grp.ready = [] ∧ s.dev.grp.sets ≠ [] ∧ (bothAnn r).any (·.ann.isReshard) = r ∧
        takeSet (membersOf (annOf r).members) (annOf r) (s.dev.grp.anns ++ [{ m := 1, ann := annOf r }]) = some (bothAnn r, [])) ∧
    (let s := up (grouped { headGrp with awaitState := true }); s.dev.isHead = true ∧ s.dev.grp.awaitState = true) ∧
    (let s := up (grouped { headGrp with ready := [bothAnn true], sets := [{ csn := 70, ann := annOf, left := 2 }] })
     s.dev.isHead = true ∧ s.dev.grp.awaitState = false ∧ s.dev.grp.ready = [bothAnn true] ∧ s.dev.mayAssign = true ∧
       (s.dev.grp.sets.map fun y : HeadSet => if y.csn = 70 then { y with left := y.left &&& ~~~(modBit 1) } else y).filter
         (fun y => y.left ≠ 0) = []) := by decide +kernel

/-- Collective 9 that has number 70, and one that has been granted with one segment. -/
def assignedColl : Coll := { cmd := 9, ann := annOf, phase := .assigned, csn := 70 }
def grantedColl (g : Seg) (es : List Edge := []) : Coll := { cmd := 9, ann := annOf, phase := .granted, csn := 70, resv := 2, segs := [g], edges := es }

theorem witness_grant :
    (up).dev.serving = true ∧ (up).dev.csnWait = none ∧
    (∀ x ∈ [reduceX, gatherX, ready 0x11 (collEntry 3 0 0 64), ready 0x12 (collEntry 2 0 1 64), ready 0x10 (collEntry 1 0x55 0 0)],
      let s := collIn assignedColl { headGrp with shardGen := [(0, 5)] } x
      s.dev.csnWait = some 70 ∧ s.dev.hasColl .assigned 70 assignedColl x ∧ s.dev.grantable assignedColl x (CollE.of x) = true ∧
        s.dev.cjn.held = [] ∧ (s.dev.grantShards x (CollE.of x)).1 = !decide ((CollE.of x).dest = 1) ∧
        ((CollE.of x).count = 0 ∨ s.dev.segsOf x (CollE.of x) ≠ []) ∧ (CollE.of x).overlap = false) ∧
    (CollE.of (ready 0x11 (collEntry 3 0 0 64))).reshard = true ∧ alWf 0 (collIn assignedColl headGrp reduceX).dev.grp.shardGen ∧
    (let x := ready 0x10 (entryOf [(16, 1), (17, 0x55), (19, 255), (24, 3), (32, 7), (40, 0x200000000), (48, 0x200100000), (56, 100)])
     let s := up fun d => grouped headGrp { d with
       cmds := [x], nextId := 10
       cjn := { d.cjn with colls := [assignedColl, { cmd := 8, ann := annOf, phase := .granted, csn := 69, resv := 2 }] } }
     s.dev.csnWait = some 70 ∧ s.dev.hasColl .assigned 70 assignedColl x ∧ s.dev.grantable assignedColl x (CollE.of x) = false) := by
  decide +kernel

/-- Sixteen bytes that a peer has sent: two sums of the wire. -/
def sixteen : List Byte := List.replicate 16 1
/-- Collective 9 under way with the segment `g`. -/
def sendState (g : Seg) (es : List Edge) (grp : Grp) (x : Cmd) : State := collIn (grantedColl g es) grp x

theorem witness_send_up :
    (let g : Seg := { first := 0, len := 2 }; let k := grantedColl g [{ peer := 0, tree := false, port := 17 }]
     let x := ready 0x10 (collEntry 1 0x55 0 2); let e := CollE.of x; let s := sendState g k.edges depGrp x
     s.dev.serving = true ∧ s.dev.hasColl .granted 70 k x ∧ k.segs[0]? = some g ∧ e.count ≠ 0 ∧ e.kind = .reduce ∧
       s.dev.runsNow (fun d => d.segmentSend 70 0 false []) ∧ g.sentUp = false ∧ s.dev.slotFree x e k 0 = true ∧
       (s.dev.contribution x e 0).isSome = true ∧
       (k.segs.zipIdx.all fun q => decide (0 ≤ q.2) || segTree e q.2 ≠ segTree e 0 || q.1.sentUp) = true ∧
       (treeChildren e.members (segTree e 0) s.dev.grp.module).all (fun m => g.whole m (e.segBytes g)) = true ∧
       treeParent e.members (segTree e 0) s.dev.grp.module = some 0 ∧ s.dev.edgePort k 0 (segTree e 0) = some 17) ∧
    (∀ done ∈ [[], [(1 : ModId)]],
     let g : Seg := { first := 0, len := 2, ins := [(1, sixteen)], doneFrom := done }; let k := grantedColl g
     let x := ready 0x10 (collEntry 1 0x55 0 2); let e := CollE.of x; let s := sendState g [] headGrp x
     s.dev.hasColl .granted 70 k x ∧ s.dev.runsNow (fun d => d.segmentSend 70 0 false []) ∧ s.dev.slotFree x e k 0 = true ∧
       (s.dev.contribution x e 0).isSome = true ∧
       (treeChildren e.members (segTree e 0) s.dev.grp.module).all (fun m => g.whole m (e.segBytes g)) = true ∧
       treeParent e.members (segTree e 0) s.dev.grp.module = none ∧
       (s.dev.othersOver e k 0 && (treeChildren e.members (segTree e 0) s.dev.grp.module).all fun m => g.doneFrom.contains m) = (done != [])) := by
  decide +kernel

theorem witness_send_down_and_bytes :
    (let g : Seg := { first := 0, len := 2, sentUp := true, w := some sixteen }; let x := ready 0x10 (collEntry 1 0x55 0 2)
     (sendState g [] headGrp x).dev.hasColl .granted 70 (grantedColl g) x ∧ (CollE.of x).kind = .reduce ∧ g.w = some sixteen) ∧
    (∀ done ∈ [[], [(1 : ModId)]],
     let g : Seg := { first := 0, len := 64, ins := done.map fun m => (m, List.replicate 64 1), doneFrom := done }
     let k := grantedColl g; let s := sendState g [] headGrp gatherX; let e := CollE.of gatherX
     s.dev.hasColl .granted 70 k gatherX ∧ e.count ≠ 0 ∧ e.kind ≠ .reduce ∧ s.dev.runsNow (fun d => d.segmentSend 70 0 false []) ∧
       s.dev.slotFree gatherX e k 0 = true ∧ (k.segs.zipIdx.all fun q => decide (0 ≤ q.2) || q.1.sentUp) = true ∧ s.dev.cjn.held = [] ∧
       (s.dev.othersOver e k 0 && (e.dests s.dev.grp.module).all (fun m => g.doneFrom.contains m) && e.sourcesDone s.dev.grp.module g) =
         (done != [])) ∧
    (let g : Seg := { first := 0, len := 64, sentUp := true, ins := [(1, List.replicate 64 1)] }
     let e := CollE.of gatherX; let k := grantedColl g
     (sendState g [] headGrp gatherX).dev.hasColl .granted 70 k gatherX ∧ k.segs[0]? = some g ∧
       ({ g with doneFrom := g.doneFrom ++ [1] } : Seg).over e headGrp.module 0 = true ∧
       ({ g with doneFrom := g.doneFrom ++ [2] } : Seg).over e headGrp.module 0 = false) := by decide +kernel

/-! ## Groups -/

theorem witness_group_tables :
    (let s := up (grouped { headGrp with reachable := 7, nbr := (Vector.replicate 64 []).set 2 [some 0] })
     s.dev.booted = true ∧ s.dev.isHead = true ∧ (1 : ModId) ≠ s.dev.grp.module ∧ ([some 0] : List (Option ModId)) ≠ [] ∧
       (∀ n ∈ s.dev.others, n ≠ 1 → s.dev.grp.nbr[n] ≠ [])) ∧ 15 ≤ (List.replicate 15 100).length ∧
    (up (grouped depGrp)).dev.booted = true ∧ (up (grouped depGrp)).dev.isHead = false ∧ (up (grouped depGrp)).dev.grp.formed = true ∧
    (up (grouped { depGrp with formed := false })).dev.grp.formed = false := by decide +kernel

/-- An assignment that module 1 holds of its new Head. -/
def heldAssign : Assign := { sender := 0, members := 3, tag := 7, csn := 70, failed := none }
/-- A stream that a module carries on context 0. -/
def carriedOne : Placement := { stream := 0x55, module := 1, ctx := 0, cost := 10 }

theorem witness_head_changes :
    (let s := collIn waitingColl { depGrp with oldHead := some 5, heldAssign := [heldAssign] } reduceX
     s.dev.serving = true ∧ s.dev.grp.oldHead.isSome = true ∧ s.dev.grp.heldAssign = [heldAssign] ∧ s.dev.headFor heldAssign.sender = true ∧
       heldAssign.failed = none ∧ s.dev.awaitsCsn heldAssign.members heldAssign.tag waitingColl) ∧
    (up (grouped { depGrp with oldHead := some 5 })).dev.grp.heldAssign = [] ∧
    (let s := up (grouped { headGrp with awaitState := true }); s.dev.isHead = true ∧ s.dev.grp.awaitState = true ∧ s.dev.grp.early = []) ∧
    (up (grouped depGrp)).dev.headFor 0 = true ∧
    (∀ w ∈ [2, 6], (up (grouped { headGrp with awaitReports := BitVec.ofNat 64 w })).dev.isHead = true ∧
      (up (grouped { headGrp with awaitReports := BitVec.ofNat 64 w })).dev.grp.awaitReports.getLsbD 1 = true) ∧
    (2 : BitVec 64) &&& ~~~(modBit 1) = 0 ∧ (6 : BitVec 64) &&& ~~~(modBit 1) ≠ 0 ∧
    (1 : ModId) ≠ (up (grouped headGrp)).dev.grp.module ∧ (up (grouped depGrp)).dev.grp.role ≠ .misconfigured ∧
    (up (grouped { depGrp with carried := [carriedOne] })).dev.grp.carried.find? (·.stream = 0x55) = some carriedOne := by decide +kernel

/-- A PLACE of one stream of cost 10 for context 0, to be placed or removed. -/
def streamTable (action pin : Byte) : List Byte := leBytes 0x55 4 ++ leBytes 10 2 ++ [0, pin, action]
def placeX (n : Nat := 1) : Cmd := ready 0x13 (entryOf [(16, 0x200000000), (24, n)])
def placing (g : Grp) (x : Cmd := placeX) (action pin : Byte := 0) : State := up fun d => grouped g
  { d with cmds := [x], nextId := 10, mem := { d.mem with cells := memPuts [] 0x200000000 (streamTable action pin) }
           ctx := d.ctx.set 0 { d.ctx[0] with st := .active }, rcl := {} }
/-- What module 1 publishes: a hundred units left in context 0. -/
def rooms : List Published := [{ module := 1, left := [some 100] }]

theorem witness_place : (placing depGrp).dev.hasReady 9 placeX [0x13] ∧ (placing depGrp).dev.isHead = false ∧
    (∀ n ∈ [0, 65537], (placing headGrp (placeX n)).dev.hasReady 9 (placeX n) [0x13] ∧ (placing headGrp (placeX n)).dev.isHead = true ∧
      (ent (placeX n).entry 24 4 = 0 ∨ 65536 < ent (placeX n).entry 24 4)) ∧
    (∀ p ∈ [((0xFF : Byte), some (1 : ModId)), (0, some 0), (1, some 1), (9, none)],
     let s := placing headGrp placeX 0 p.1
     let b := (Dev.readOpen s.dev.seen (.cmd 9) (ent placeX.entry 16 8 % 2 ^ 52) 16).1
     s.dev.hasReady 9 placeX [0x13] ∧ s.dev.isHead = true ∧ ent placeX.entry 24 4 = 1 ∧ s.dev.runsNow (fun d => d.runPlace rooms placeX) ∧
      natAt b 8 1 = 0 ∧ natAt b 6 1 = 0 ∧ (∀ q ∈ s.dev.grp.placements, q.stream ≠ BitVec.ofNat 32 (natAt b 0 4)) ∧
      ((membersOf (s.dev.grp.reachable ||| modBit s.dev.grp.module)).find? fun m =>
        if natAt b 7 1 = 0xFF then s.dev.memberRoom rooms m (natAt b 6 1) (natAt b 4 2) else decide (m.val = natAt b 7 1)) = p.2 ∧
      s.dev.grp.role ≠ .misconfigured ∧ s.dev.rclUp = false ∧ s.memWf ∧ ent placeX.entry 16 8 % 2 ^ 52 % 16 = 0 ∧
      s.dev.region (ent placeX.entry 16 8 % 2 ^ 52) = .software) ∧
    (let s := placing { headGrp with placements := [carriedOne] } placeX 1 0xFF
     let b := (Dev.readOpen s.dev.seen (.cmd 9) (ent placeX.entry 16 8 % 2 ^ 52) 16).1
     s.dev.runsNow (fun d => d.runPlace rooms placeX) ∧ natAt b 6 1 = 0 ∧ natAt b 8 1 = 1 ∧
      s.dev.grp.placements.find? (·.stream = BitVec.ofNat 32 (natAt b 0 4)) = some carriedOne ∧ carriedOne.module ≠ s.dev.grp.module) := by
  decide +kernel

/-! ## Commands and tiles -/

/-- A loop descriptor entry as its fields: byte of the part, lowest bit and value. -/
def ldtOf (fs : List (Nat × Nat × Nat)) : BitVec 2048 := BitVec.ofNat 2048 ((fs.map fun p => p.2.2 * 2 ^ (8 * p.1 + p.2.1)).sum)
/-- An 8 by 8 product of K 8 at most in tiles of 4 by 4, operands in format `f` and output in `fc`. -/
def matE (f fc : Nat) : BitVec 2048 := ldtOf [(0,248,1),(0,240,255),(0,232,255),(0,220,f),(0,216,f),(0,212,fc),(0,200,1),(0,197,2),(0,194,3),(0,191,4),(0,188,5),(0,170,3),(0,163,3),(0,96,8),(0,72,8),(0,48,8),(0,32,1),(0,16,1),(0,0,1),
   (32,204,0x8000000),(32,128,4),(64,204,0x8000400),(64,128,4),(96,204,0x8000800),(96,128,4)]
def tensorOf (f fc : Nat) : Tensor := { cmd := 9, e := matE f fc, m := 4, n := 8, k := 4, p0 := 1, p1 := 1, p2 := 1, seed := 0, selE := matE f fc }
def firstPos : TilePos := { p0 := 0, p1 := 0, p2 := 0, r := 0, s := 0, ch := 0 }
/-- The tensor command of context 0, with what it waits for. -/
def tensorX (ws : List Wait := []) (ph : CmdPhase := .running) : Cmd :=
  { id := 9, c := 0, q := 0, entryNo := 5, launch := none, kind := 0x40, entry := 0, period := 1, waits := ws, sig := none, phase := ph }
/-- A block with the tensor command `tn` of context 0 and the tiles `ts`; array 0 holds slot 0. -/
def working (tn : Tensor) (x : Cmd) (ts : List Tile) (f : Dev → Dev := id) : State := up fun d => f
  { d with
    cmds := [x], nextId := 10, tensors := [tn], tiles := ts, nextUid := 50
    ctx := d.ctx.set 0 { d.ctx[0] with st := .active, g := { units := 2, quota := 4, base := 524288 }
                                       cp := { d.ctx[0].cp with fence := d.ctx[0].cp.fence.set 9 4, poison := 512 } }
    arr := d.arr.set 0 { st := .inService, slot := some 0, tile := some 40 } }
/-- A tile of the command at its first position, placed on array 0. -/
def tileOf (f : Tile → Tile := id) : Tile := f
  { uid := 40, n := 0, c := 0, cmd := 9, period := 1, layer := 0, work := .matrix firstPos, rows := 4, cols := 4, kLen := 4, phase := .placed
    arr := some 0, acc := List.replicate 4 (List.replicate 4 {}), chk := [0, 0, 0, 0], epiRead := true }

/-- Command `x` of the waiting ones may act at once. -/
abbrev Starts (s : State) (x : Cmd) : Prop :=
  s.dev.serving = true ∧ s.numbered ∧ s.dev.cmd? 9 = some x ∧ x.phase = .waiting ∧ s.dev.waitsMet x = true ∧ isCollKind x.kind = false ∧
    s.dev.runsNow (fun d => d.ready 9)

theorem witness_ready_1 :
    (let x := tensorX [{ f := 9, t := 5 }] .waiting; let s := working (tensorOf 5 6) x []
     s.dev.serving = true ∧ s.numbered ∧ s.dev.cmd? 9 = some x ∧ x.phase = .waiting ∧ s.dev.waitsMet x = false) ∧
    (let x := tensorX [{ f := 9, t := 4 }] .waiting; let s := working (tensorOf 5 6) x []
     Starts s x ∧ s.dev.waitPoisoned x = true ∧ x.launch = none ∧ (cut s).dev.rclUp = false) ∧
    (let x := { tensorX [] .waiting with status := some 0x10 }; let s := working (tensorOf 5 6) x []
     Starts s x ∧ s.dev.waitPoisoned x = false ∧ x.status = some 0x10) := by decide +kernel

theorem witness_ready_2 :
    (let x := { tensorX [] .waiting with kind := 0x13 }; let s := working (tensorOf 5 6) x []
     Starts s x ∧ s.dev.waitPoisoned x = false ∧ x.status = none ∧ x.kind ≠ 0x40 ∧ x.kind ≠ 0x41) ∧
    (let x := tensorX [] .waiting; let s := working (tensorOf 5 6) x []
     Starts s x ∧ s.dev.waitPoisoned x = false ∧ x.status = none ∧ x.kind = 0x40 ∧ s.dev.ctx[x.c].g.quota ≠ 0 ∧
       s.dev.tensor? 9 = some (tensorOf 5 6) ∧ (tensorOf 5 6).fin.length < (tensorOf 5 6).total ∧ (tensorOf 5 6).cut = false ∧
       s.dev.attn? 9 = none ∧ s.dev.coll? 9 = none ∧ (∀ c : CtxId, ∀ g ∈ s.dev.ctx[c].cp.programs, g.launch ≠ 9)) := by decide +kernel

/-- An attention command of one step entry of 2 queries over 1 key-value head, no key cached. -/
def attnE : BitVec 2048 := ldtOf [(0,248,2),(0,240,255),(0,232,255),(0,220,5),(0,216,5),(0,212,6),(0,96,8),(0,72,4096),(0,32,4),(160,246,0),(160,168,1)]
def snap0 : SeqSnap := { slot := 0, gen := 0, len := 0, pages := 0, gh := 0, gw := 0, t0 := 0, table := 0, pmax := 0 }
def step0 (n f : Nat) : StepEntry := { slot := 0, nq := n, f := f, qoff := 0, qrow := 0, frow := 0, tree := 0 }
def attnOf (n f : Nat) : Attn :=
  { cmd := 9, e := attnE, stepList := 0x200030000, count := 1, header := 0x200040000, h0 := 0, hc := 1, seed := 0, hkv := 1, tpp := 32, pool := 0
    snaps := [snap0], entries := [step0 n f] }
/-- A block with the attention command `a` of context 0 and the tiles `ts`. -/
def attending (a : Attn) (ts : List Tile := []) : State :=
  working { tensorOf 5 6 with cmd := 77 } { tensorX with kind := 0x41 } ts fun d => { d with attns := [a] }
/-- The span tile of that command, placed on array 0. -/
def spanTile (f : Tile → Tile := id) : Tile := f
  { uid := 40, n := 0, c := 0, cmd := 9, period := 1, layer := 0, work := .span { entry := 0, g := 0, chunk := 0, span := 0 }, rows := 2
    cols := 128, kLen := 32, phase := .placed, arr := some 0, sm := [none, none], smNan := [false, false], probs := [none, none] }

/-- Multicast channel 7 has a group of tile 40, which has joined. -/
def mcGroup (n : Nat) (joined : List Nat := [40]) : McGroup :=
  { cmd := 9, operandB := false, key := (0, 0, 0, 0), members := [40], joined := joined, pass := n }
def advancing (g : McGroup) (t : Tile) : State :=
  working (tensorOf 5 6) tensorX [t] fun d => { d with mc := d.mc.set 7 { group := some g, waiting := [mcGroup 5] } }

/-- Context 0 may expand tiles. -/
abbrev Expands (s : State) : Prop :=
  s.dev.serving = true ∧ s.numbered ∧ s.dev.ctx[(0 : CtxId)].g.quota ≠ 0 ∧ s.dev.ctx[(0 : CtxId)].cp.failed = false ∧
    s.dev.ctx[(0 : CtxId)].noPair = false ∧ s.dev.heldTiles 0 < 64

theorem witness_expand_1 :
    (let y := tileOf fun t => { t with phase := .lost, arr := none }; let s := working (tensorOf 5 6) tensorX [y]
     Expands s ∧ lowestTile (s.dev.tiles.filter fun t => t.c = 0 && t.phase = .lost) = some y) ∧
    (∀ tn ∈ [tensorOf 5 6, { tensorOf 5 6 with e := matE 5 5 }],
     let s := working tn tensorX []; let e := (s.dev.variantOf 0 tn).2; let tm : Tensor := { tn with e := e }
     Expands s ∧ (s.dev.tiles.filter fun t => t.c = 0 && t.phase = .lost) = [] ∧ s.dev.expanding 0 = some tensorX ∧ s.dev.tensor? 9 = some tn ∧
       tn.next = 0 ∧ (e = tn.e ∨ s.dev.entryStatus 0 (LdtE.of e) tn.shape = none) ∧ tm.nextTile tm.candidates tm.next = some (firstPos, 1)) ∧
    (let tn : Tensor := { tensorOf 5 6 with selE := matE 5 6 ||| (1 : BitVec 2048) <<< 210 }
     let s := working tn (tensorX [] .waiting) []; let e := (s.dev.variantOf 0 tn).2
     Expands s ∧ s.dev.expanding 0 = some (tensorX [] .waiting) ∧ s.dev.tensor? 9 = some tn ∧ tn.next = 0 ∧ e ≠ tn.e ∧
       s.dev.entryStatus 0 (LdtE.of e) tn.shape = some 0x11) := by decide +kernel

theorem witness_expand_2 :
    (let a := attnOf 2 2; let s := attending a
     Expands s ∧ s.dev.expanding 0 = some { tensorX with kind := 0x41 } ∧ s.dev.tensor? 9 = none ∧
       s.dev.attn? 9 = some a ∧ a.spanTiles[a.next]? = some { entry := 0, g := 0, chunk := 0, span := 0 }) ∧
    (let y := tileOf fun t => { t with passes := 1 }; let s := working (tensorOf 5 6) tensorX [y]
     s.numbered ∧ s.dev.arr[(0 : ArrId)].tile = some y.uid ∧ s.dev.tile? y.uid = some y ∧ y.phase = .placed ∧ y.arr = some 0 ∧
       s.dev.passCount y ≤ y.passes) := by decide +kernel

theorem witness_multicast_1 :
    ((working (tensorOf 5 6) tensorX []).dev.mc[(7 : Fin 8)].group = none) ∧
    (∀ j ∈ [[], [40]], let g := mcGroup 0 j; let s := advancing g tileOf
     s.dev.serving = true ∧ s.dev.mc[(7 : Fin 8)].group = some g ∧
       (40 ∈ if g.joined = [] then g.members else g.joined) ∧ s.dev.tile? 40 = some tileOf ∧ ¬g.pass < s.dev.mcNeed g tileOf ∧
       (tileOf).retry = false ∧ (tileOf).step = 0) := by decide +kernel

theorem witness_multicast_2 :
    (let y := tileOf fun t => { t with passes := 2, kLen := 1024 }; let g := mcGroup 1; let s := advancing g y
     s.dev.mc[(7 : Fin 8)].group = some g ∧ g.joined = [40] ∧ s.dev.tile? 40 = some y ∧ g.pass < s.dev.mcNeed g y ∧
       g.members.findSome? s.dev.tile? = some y ∧ g.pass + 1 < passesOf y.kLen) ∧
    (let y := tileOf fun t => { t with passes := 1 }; let g := mcGroup 0; let s := advancing g y
     s.dev.mc[(7 : Fin 8)].group = some g ∧ g.joined = [40] ∧ s.dev.tile? 40 = some y ∧ g.pass < s.dev.mcNeed g y ∧
       g.members.findSome? s.dev.tile? = some y ∧ passesOf y.kLen ≤ g.pass + 1) ∧
    (let y := tileOf fun t => { t with retry := true }; let g := mcGroup 0 []; let s := advancing g y
     s.dev.mc[(7 : Fin 8)].group = some g ∧ g.joined = [] ∧ g.members = [40] ∧ s.dev.tile? 40 = some y ∧ y.retry = true) := by decide +kernel

/-- The next pass of tile `y` is due on array 0. -/
abbrev PassDue (s : State) (y : Tile) : Prop :=
  s.dev.serving = true ∧ s.numbered ∧ s.dev.arr[(0 : ArrId)].tile = some y.uid ∧ s.dev.tile? y.uid = some y ∧ y.passes < s.dev.passCount y ∧
    s.dev.collectorBusy y = false ∧ ¬(y.isSpan = true ∧ 0 < y.passes ∧ ¬y.rows ≤ y.released)

theorem witness_passes :
    (let y := tileOf fun t => { t with passes := 1, kLen := 1024, member := some 7 }; let s := advancing (mcGroup 0) y
     PassDue s y ∧ (s.dev.seen.joinGroup y.uid).passReady y = false) ∧
    (∀ e ∈ [true, false], let y := tileOf fun t => { t with epiRead := e }; let s := working (tensorOf 5 6) tensorX [y]
     PassDue s y ∧ (s.dev.seen.joinGroup y.uid).passReady y = true ∧ s.dev.runsNow (fun d => d.loadPass 0 false) ∧
       s.dev.runsNow (fun d => d.loadPass 0 true)) ∧
    (let s := attending (attnOf 2 2) [spanTile]
     PassDue s spanTile ∧ (s.dev.seen.joinGroup (spanTile).uid).passReady spanTile = true ∧ s.dev.runsNow (fun d => d.loadPass 0 false) ∧
       s.dev.runsNow (fun d => d.loadPass 0 true)) := by
  refine ⟨⟨by decide +kernel, by decide +kernel⟩, by decide +kernel, by decide +kernel⟩

/-- The tile with its pass run, and one that has staged its rows twice. -/
def passed (f : Tile → Tile := id) : Tile := tileOf fun t => f { t with passes := 1 }
def stagedRows (s : Bool) : List StagedRow := (List.range 4).map fun i => { row := i, accs := List.replicate 4 {}, staged := s, codes := [0, 0, 0, 0] }
def twice (rs : List StagedRow) (f : Tile → Tile := id) : Tile := passed fun t => f
  { t with arr := some 1, released := 4, stagedRows := stagedRows true, firstRows := rs, firstArr := some 0, clamped := true }
/-- The span tile with a pass run. -/
def passedSpan (f : Tile → Tile := id) : Tile := spanTile fun t => f
  { t with passes := 1, acc := List.replicate 2 (List.replicate 32 {}), chk := [0, 0] }

/-- Tile `y` is placed on array `a`. -/
abbrev Placed (s : State) (y : Tile) (a : ArrId) : Prop :=
  s.dev.serving = true ∧ s.numbered ∧ s.dev.tile? y.uid = some y ∧ y.phase = .placed ∧ y.arr = some a
/-- The next row of tile `y` may leave it, and passes its check or not. -/
abbrev RowDue (s : State) (y : Tile) (flaw : RowFlaw) (good : Bool) : Prop :=
  y.released < y.rows ∧ s.dev.stagingRoom y = true ∧
    (match y.work with | .matrix _ => decide (passesOf y.kLen ≤ y.passes) | .span _ => decide (0 < y.passes)) = true ∧
    (let row := flawed flaw (y.acc.getD y.released []) (y.chk.getD y.released 0)
     decide (y.parity = false ∧ flaw ≠ .specialState ∧ (y.clamped = true ∨ rowPasses (s.dev.bf16Pair y) (s.dev.checkLen y) row.1 row.2 = true)) =
       good)

theorem witness_rows :
    (let y := passed; let s := working (tensorOf 5 6) tensorX [y]
     Placed s y 0 ∧ RowDue s y .none true ∧ s.dev.tensor? y.cmd = some (tensorOf 5 6) ∧
       s.dev.runsNow (fun d => d.releaseRow y.uid y.released .none)) ∧
    (∀ c ∈ [true, false], let y := passedSpan fun t => { t with clamped := c, released := 1 }; let s := attending (attnOf 2 2) [y]
     Placed s y 0 ∧ RowDue s y .none true ∧ s.dev.runsNow (fun d => d.releaseRow y.uid y.released .none)) ∧
    (∀ flaw ∈ [RowFlaw.specialState, .checkColumn 1], let y := passed; let s := working (tensorOf 5 6) tensorX [y]
     Placed s y 0 ∧ RowDue s y flaw false ∧ y.injected = false ∧ (y.failedOn ++ [0]).eraseDups.length < 4) := by
  refine ⟨by decide +kernel, by decide +kernel, by decide +kernel⟩

theorem witness_staging :
    (let y := passed fun t => { t with released := 4, stagedRows := stagedRows false }; let tn := tensorOf 5 6; let s := working tn tensorX [y]
     Placed s y 0 ∧ s.dev.tensor? y.cmd = some tn ∧ (Fmt.ofCode (stepFmt tn.x.fc y.step)).isSome = true ∧
       y.stagedRows.find? (fun r => !r.staged) = some { row := 0, accs := List.replicate 4 {}, codes := [0, 0, 0, 0] } ∧ y.clamped = false ∧
       s.dev.runsNow (fun d => d.stageRow y.uid 0 false) ∧ y.injected = false ∧ (y.failedOn ++ [0]).eraseDups.length < 4) ∧
    (let y := passed fun t => { t with
       released := 4, clamped := true
       stagedRows := (stagedRows true).take 3 ++ [{ row := 3, accs := List.replicate 4 {}, codes := [0, 0, 0, 0] }] }
     let tn := tensorOf 5 6; let s := working tn tensorX [y]
     Placed s y 0 ∧ s.dev.tensor? y.cmd = some tn ∧
       y.stagedRows.find? (fun r => !r.staged) = some { row := 3, accs := List.replicate 4 {}, codes := [0, 0, 0, 0] } ∧
       s.dev.runsNow (fun d => d.stageRow y.uid 3 false) ∧ y.clamped = true ∧ y.firstArr = none ∧ passesOf y.kLen ≤ y.passes ∧
       y.rows ≤ y.released ∧ ∀ q ∈ y.stagedRows, q.row ≠ 3 → q.staged = true) ∧
    (let y := passedSpan fun t => { t with stagedRows := [{ row := 1, accs := [] }] }; let s := attending (attnOf 2 2) [y]
     Placed s y 0 ∧ y.injected = false ∧ (y.failedOn ++ [0]).eraseDups.length < 4 ∧ ∃ r ∈ y.stagedRows, r.row = 1) ∧
    (∀ k ∈ [0, 1], let y := twice ((stagedRows true).drop k); let s := working (tensorOf 5 6) tensorX [y]
     Placed s y 1 ∧ y.firstArr = some 0 ∧ y.agreed = false ∧ s.dev.allStaged y = true ∧ y.injected = false ∧
       (y.failedOn ++ [0, 1]).eraseDups.length < 4 ∧
       decide (y.stagedRows.map (fun r => (r.row, r.accs)) = y.firstRows.map (fun r => (r.row, r.accs))) = decide (k = 0)) := by
  refine ⟨by decide +kernel, by decide +kernel, by decide +kernel, by decide +kernel⟩

theorem witness_fourth :
    (∀ flaw ∈ [RowFlaw.specialState, .checkColumn 1],
     let y := passed fun t => { t with failedOn := [5, 6, 7] }; let s := working (tensorOf 5 6) tensorX [y]
     Placed s y 0 ∧ RowDue s y flaw false ∧ y.clamped = false ∧ 4 ≤ (y.failedOn ++ [0]).eraseDups.length) ∧
    (let y := passedSpan fun t => { t with failedOn := [5, 6, 7], stagedRows := [{ row := 1, accs := [] }] }; let s := attending (attnOf 2 2) [y]
     Placed s y 0 ∧ RowDue s y .specialState false ∧ 4 ≤ (y.failedOn ++ [0]).eraseDups.length ∧ ∃ r ∈ y.stagedRows, r.row = 1) ∧
    (let y := passed fun t => { t with released := 4, stagedRows := stagedRows false, failedOn := [5, 6, 7] }
     let s := working (tensorOf 5 6) tensorX [y]
     Placed s y 0 ∧ (y.stagedRows.find? fun r => !r.staged) = some { row := 0, accs := List.replicate 4 {}, codes := [0, 0, 0, 0] } ∧
       4 ≤ (y.failedOn ++ [0]).eraseDups.length) ∧
    (let y := twice ((stagedRows true).drop 1) fun t => { t with failedOn := [5, 6] }; let s := working (tensorOf 5 6) tensorX [y]
     Placed s y 1 ∧ y.firstArr = some 0 ∧ y.agreed = false ∧ s.dev.allStaged y = true ∧
       y.stagedRows.map (fun r => (r.row, r.accs)) ≠ y.firstRows.map (fun r => (r.row, r.accs)) ∧
       4 ≤ (y.failedOn ++ [0, 1]).eraseDups.length) := by
  refine ⟨by decide +kernel, by decide +kernel, by decide +kernel, by decide +kernel⟩

/-- A tile whose rows are all staged. -/
def done (f : Tile → Tile := id) : Tile := passed fun t => f { t with released := 4, stagedRows := stagedRows true }

theorem witness_commit :
    (∀ y ∈ [done, done fun t => { t with cpFailed := true }, done fun t => { t with ldTrouble := true },
       done fun t => { t with ldTrouble := true, folded := true }, done fun t => { t with clamped := true },
       done fun t => { t with clamped := true, agreed := true, firstArr := some 1 }],
     let tn := tensorOf 5 6; let s := working tn tensorX [y]
     Placed s y 0 ∧ y.work = .matrix firstPos ∧ s.dev.tensor? y.cmd = some tn ∧ s.dev.allStaged y = true ∧
       s.dev.runsNow (fun d => d.commit y.uid) ∧ tn.fin.length + 1 < tn.total ∧ tn.cut = false) := by decide +kernel

/-- A troubled tile of an FP4 product, with `n` units of the budget `b` left. -/
def troubledTile (f : Tile → Tile := id) : Tile := tileOf fun t => f { t with n := 1, phase := .troubled, arr := none }
def troubled (n b : Nat) (y : Tile) (more : List Tile := []) : State := working (tensorOf 0 6) tensorX (y :: more) fun d =>
  { d with
    lex := { d.lex with vals := [(lexKey 0x2210 1, b)] }
    ctx := d.ctx.set 0 { d.ctx[0] with rph := { d.ctx[0].rph with remain := BitVec.ofNat 32 n } } }

/-- Tile `y` is the troubled one of context 0 to be decided. -/
abbrev Decides (s : State) (y : Tile) : Prop :=
  s.dev.serving = true ∧ s.numbered ∧ lowestTile (s.dev.tiles.filter fun t => t.c = 0 && t.phase = .troubled) = some y ∧
    y.work = .matrix firstPos ∧ s.dev.tensor? y.cmd = some (tensorOf 0 6)

theorem witness_rephrase :
    (let y := troubledTile; let s := troubled 1000000 1000000 y [{ tileOf with uid := 41, phase := .held, arr := none }]
     Decides s y ∧ (∃ u ∈ s.dev.tiles, u.c = 0 ∧ u.period = y.period ∧ u.n < y.n)) ∧
    (∀ p ∈ [((1000000 : Nat), (1000000 : Nat)), (0, 1000000), (1000000, 0)],
     let y := troubledTile; let s := troubled p.1 p.2 y; let tn := tensorOf 0 6; let n := y.step + 1
     Decides s y ∧ (∀ u ∈ s.dev.tiles, ¬(u.period < y.period ∨ (u.period = y.period ∧ u.n < y.n))) ∧ y.infOnly = false ∧ n ≤ 2 ∧
       stepFmt tn.x.fa n ≠ stepFmt tn.x.fa y.step ∧ stepFmt tn.x.fc n = tn.x.fc ∧ s.dev.ctx[(0 : CtxId)].g.quota ≠ 0 ∧
       s.dev.ctx[(0 : CtxId)].rph.exhausted = false ∧ s.dev.lexVal 0x2210 1 = p.2 ∧
       decide (tn.x.issueTime y.rows y.cols y.kLen n true ≤ s.dev.ctx[(0 : CtxId)].rph.remain.toNat) = decide (p.1 ≠ 0) ∧
       s.dev.runsNow (fun d => d.rephrase 0)) ∧
    (let y := troubledTile fun t => { t with step := 2 }; let s := troubled 1000000 1000000 y
     Decides s y ∧ ¬y.step + 1 ≤ 2 ∧ s.dev.runsNow (fun d => d.rephrase 0)) := by
  refine ⟨⟨by decide +kernel, by decide +kernel⟩, by decide +kernel, by decide +kernel⟩

/-- A row chunk of two rows of which span 0 waits. -/
def merge0 : Merge := { entry := 0, g := 0, chunk := 0, next := [0, 0], rows := [none, none], nan := [false, false], waiting := [(0, [none, none], [false, false])] }

theorem witness_span_next :
    (let a := { attnOf 2 256 with merges := [merge0] }; let s := attending a
     s.dev.serving = true ∧ s.dev.attn? 9 = some a ∧ s.dev.cmd? 9 = some { tensorX with kind := 0x41 } ∧ rowPlace a.rowGroups 1 = some (0, 0, 1) ∧
       (a.merges.find? fun m => m.entry = 0 && m.g = 0 && m.chunk = 1 / 256) = some merge0 ∧ a.entries[0]? = some (step0 2 256) ∧
       merge0.waiting.find? (fun w => w.1 = merge0.next.getD (1 % 256) 0) = some (0, [none, none], [false, false]) ∧
       0 + 1 < a.spansOf (step0 2 256)) := by decide +kernel

theorem witness_span_last :
    (let a := { attnOf 2 2 with merges := [merge0] }; let s := attending a
     s.dev.attn? 9 = some a ∧ rowPlace a.rowGroups 1 = some (0, 0, 1) ∧ a.entries[0]? = some (step0 2 2) ∧
       a.spansOf (step0 2 2) ≤ 0 + 1 ∧ s.dev.runsNow (fun d => d.spanMerge 9 1)) := by decide +kernel

/-! ## Pools, batches and the codec -/

def pooled (st : PoolState) : State := up fun d =>
  { d with ctx := d.ctx.set 0 { d.ctx[0] with st := .active, g := { units := 2, quota := 4, base := 524288 }
                                              att := { pool1 := { st := st, base := 65536, pages := 192 } } } }

theorem witness_pool : (pooled .initializing).dev.serving = true ∧ (pooled .initializing).memWf ∧
    ((pooled .initializing).dev.ctx[(0 : CtxId)].poolOf true).st = .initializing ∧
    ((pooled .initializing).dev.ctx[(0 : CtxId)].poolOf true).written = false := by decide +kernel

/-- A batch of one slot at 2^33 + 2^18 whose sequence has state 2: 5 tokens, 3 in the step just run, 2 in the next. -/
def batchBytes : List Byte := leBytes 1 2 ++ zeros 62
def seqBytes (step : Nat) : List Byte :=
  [0, 2, 4, 0] ++ leBytes 5 4 ++ leBytes 1 4 ++ leBytes 2 4 ++ leBytes 0 4 ++ leBytes 8 4 ++ leBytes 0x200050000 8 ++ leBytes 1 8 ++
    leBytes 0 8 ++ leBytes step 4 ++ zeros 12
/-- A block with a ready command, an attention entry of type `ty` and the bytes of a batch and of a step list. -/
def batched (x : Cmd) (ty step : Nat) : State := cut (up fun d =>
  { d with
    cmds := [x], nextId := 10
    ctx := d.ctx.set 0 { d.ctx[0] with st := .active, g := { units := 2, quota := 4, base := 524288 }
                                       att := { pool0 := { st := .ready, base := 0x200100000, pages := 4, free := 3 } }
                                       queue := d.ctx[0].queue.set 0 openQueue
                                       ldt := { d.ctx[0].ldt with entries := [(3, ldtOf [(0,248,ty),(0,220,6),(0,216,6)])] } }
    mem := { d.mem with cells := memPuts (memPuts [] 0x200040000 (batchBytes ++ seqBytes step)) 0x200030000 (zeros 32) } })

def ready0 (kind : Nat) (entry : Line) : Cmd := { ready kind entry with c := 0, q := 0 }
def scatterX : Cmd := ready0 0x20 (entryOf [(0, 0x20), (16, 0x200030000), (24, 1), (26, 3), (28, 0x200040000)])
def batchX : Cmd := ready0 0x21 (entryOf [(0, 0x21), (16, 0x200040000)])

theorem witness_scatter_type : (batched scatterX 1 0).dev.hasReady 9 scatterX [0x20] ∧ (batched scatterX 1 0).dev.rclUp = false ∧
    scatterX.launch = none ∧ ldtType ((batched scatterX 1 0).dev.ldtEntry scatterX.c (ent scatterX.entry 26 1)) ≠ 2 := by decide +kernel

theorem witness_scatter_1 : ∀ n ∈ [0, 3], (batched scatterX 2 n).dev.serving = true ∧ (batched scatterX 2 n).memWf ∧
    (batched scatterX 2 n).dev.hasReady 9 scatterX [0x20] ∧ (batched scatterX 2 n).dev.rclUp = false ∧ scatterX.launch = none ∧
    ldtType ((batched scatterX 2 n).dev.ldtEntry scatterX.c (ent scatterX.entry 26 1)) = 2 ∧ ent scatterX.entry 24 2 = 1 := by decide +kernel

theorem witness_scatter_2 : ∀ n ∈ [0, 3], (batched scatterX 2 n).dev.runsNow (fun d => d.runScatter scatterX) ∧
    (let s := batched scatterX 2 n
     let h := s.dev.seen.batchHeader (.cmd 9) 0x200040000
     let y := h.2.readOpen (.cmd 9) 0x200030000 32
     let q := y.2.seqDesc (.cmd 9) 0x200040000 (StepEntry.of y.1).slot
     (StepEntry.of y.1).slot < h.1.nslots ∧ s.dev.olderHeld scatterX.c 0x200040000 (StepEntry.of y.1).slot q.1.gen = false) := by decide +kernel

theorem witness_batch_1 : (batched batchX 2 3).dev.serving = true ∧ (batched batchX 2 3).memWf ∧ (batched batchX 2 3).dev.hasReady 9 batchX [0x21] ∧
    (batched batchX 2 3).dev.rclUp = false ∧ batchX.launch = none ∧ (batched batchX 2 3).dev.runsNow (fun d => d.runBatch batchX) := by decide +kernel

theorem witness_batch_2 :
    (let s := batched batchX 2 3
     let header := ent batchX.entry 16 8 % 2 ^ 52
     let h := s.dev.seen.batchHeader (.cmd 9) header
     let q := (h.2.seqDesc (.cmd 9) header 0).1
     (s.dev.ctx[batchX.c].poolOf (decide (h.1.pool = 1))).st = .ready ∧ h.1.nslots = 1 ∧ s.dev.farBehind batchX.c header [q] = false ∧
       s.dev.ctx[batchX.c].att.deferred = [] ∧ header % 64 = 0 ∧ s.dev.region header = .software ∧ s.dev.region (header + 64) = .software ∧
       s.dev.mem.bad (header + 64) = false ∧ q.req = 0 ∧ q.state = 2 ∧ 0 < q.step ∧ cdiv (q.len + q.step + q.next) (32 * h.1.tpb) ≤ q.pages) := by
  decide +kernel

/-- A session descriptor: encode, 64 by 128, one row a unit, with ring and work region in LPDDR, and its bytes. -/
def descBytes (depth : Nat) : List Byte :=
  [0, 0, 0, 0] ++ leBytes 64 2 ++ leBytes 128 2 ++ leBytes depth 1 ++ [1, 0, 0] ++ leBytes 30 2 ++ leBytes 60 2 ++ leBytes 1000 4 ++ zeros 4 ++
    leBytes 0x210000000 8 ++ leBytes 65536 4 ++ zeros 4 ++ leBytes 0x220000000 8 ++ leBytes 0x200000 4 ++ zeros 4 ++ leBytes 0x230000000 8
def desc0 : SessDesc := SessDesc.of (descBytes 8)

/-- A block with the command `x` of context 0 and its session `y`. -/
def coding (x : Cmd) (y : Sess) (es : List (EngId × Eng) := []) (bs : List Byte := []) : State := up fun d =>
  { d with
    cmds := [x], nextId := 10
    ctx := d.ctx.set 0 { d.ctx[0] with st := .active, g := { units := 2, quota := 4, base := 524288 }
                                       cp := { d.ctx[0].cp with fence := d.ctx[0].cp.fence.set 0 2 } }
    cod := { d.cod with sess := d.cod.sess.set 5 y, eng := es.foldl (fun v (p : EngId × Eng) => v.set p.1 p.2) d.cod.eng }
    mem := { d.mem with cells := memPuts [] 0x200060000 bs } }
def opened (f : Sess → Sess := id) : Sess := f { st := .opened, owner := 0, d := desc0 }
def decoding (f : Sess → Sess := id) : Sess := opened fun y => f { y with d := { desc0 with decode := true, workSize := 0x200000 } }

def openX : Cmd := ready0 0x30 (entryOf [(0, 0x30), (16, 5), (24, 0x200060000)])
theorem witness_cod_open : ∀ n ∈ [8, 9], (let s := coding openX {} [] (descBytes n)
    s.dev.hasReady 9 openX [0x30] ∧ s.dev.codEarlier openX = false ∧ s.dev.cod.sess[openX.sess].st = .free ∧
      s.dev.runsNow (fun d => d.codOpen openX) ∧
      (let b := (s.dev.seen.readOpen (.cmd 9) (ent openX.entry 24 8 % 2 ^ 52) 64).1
       descLegal b (SessDesc.of b) = decide (n = 8) ∧ s.dev.descFits (SessDesc.of b) = true)) := by decide +kernel
theorem witness_cod_open_taken : ∀ o ∈ [(0 : CtxId), 3], (let s := coding openX (opened fun y => { y with owner := o }) [] (descBytes 8)
    s.dev.hasReady 9 openX [0x30] ∧ s.dev.codEarlier openX = false ∧ s.dev.cod.sess[openX.sess].st ≠ .free ∧
      s.dev.cod.sess[openX.sess].owner = o ∧ openX.c = 0 ∧ s.dev.runsNow (fun d => d.codOpen openX)) := by decide +kernel

/-- Each other command of a session, on one that is free, one of another context and one whose engines are all out. -/
def sessCmds : List (Nat × Cmd) := [0x31, 0x32, 0x33, 0x34].map fun k => (k, ready0 k (entryOf [(0, k), (16, 5)]))
def enginesOut : List (EngId × Eng) := (List.finRange 8).map fun e => (e, { st := .outOfService })
theorem witness_cod_held : ∀ p ∈ sessCmds,
    (let s := coding p.2 {}; s.dev.hasReady 9 p.2 [p.1] ∧ s.dev.codEarlier p.2 = false ∧ s.dev.cod.sess[p.2.sess].st ≠ .opened) ∧
    (let s := coding p.2 (opened fun y => { y with owner := 3 })
     s.dev.hasReady 9 p.2 [p.1] ∧ s.dev.codEarlier p.2 = false ∧ s.dev.cod.sess[p.2.sess].owner ≠ p.2.c) ∧
    (let s := coding p.2 opened enginesOut
     s.dev.hasReady 9 p.2 [p.1] ∧ s.dev.codEarlier p.2 = false ∧ s.dev.servedBy s.dev.cod.sess[p.2.sess] = none) := by decide +kernel

def relX : Cmd := ready0 0x33 (entryOf [(0, 0x33), (16, 5), (20, 0x8001)])
theorem witness_cod_rel : (coding relX (decoding fun y => { y with bufOut := 0x8003 })).dev.onOpen 9 relX 0x33 ∧
    ((coding relX decoding).dev.cod.sess[relX.sess]).d.decode = true ∧ (coding relX opened).dev.onOpen 9 relX 0x33 ∧
    ((coding relX opened).dev.cod.sess[relX.sess]).d.decode = false := by decide +kernel

def closeX : Cmd := ready0 0x34 (entryOf [(0, 0x34), (16, 5)])
/-- An encode of the session that is under way. -/
def encX : Cmd := { ready0 0x31 (entryOf [(0, 0x31), (16, 5), (24, 0x240000000), (32, 64)]) with id := 8, phase := .running }
def closing (l : List Cmd) : State :=
  { coding closeX (opened fun y => { y with queue := l.map picOf }) with
    dev := { (coding closeX (opened fun y => { y with queue := l.map picOf })).dev with cmds := l ++ [closeX] } }
theorem witness_cod_close : ∀ l ∈ [[], [encX]], (closing l).dev.onOpen 9 closeX 0x34 ∧
    ((closing l).dev.cmds.any fun z => z.c = closeX.c && isCodec z.kind && z.sess = closeX.sess && decide (z.id < 9)) = !l.isEmpty := by
  decide +kernel

/-- COD_ENC with the long-term mark `m`. -/
def encM (m : Nat) : Cmd := ready0 0x31 (entryOf [(0, 0x31), (16, 5), (17, 2 * m), (24, 0x240000000), (32, 64)])
def pic0 : Pic := { picOf encX with nextRow := 1 }
theorem witness_cod_enc_refused :
    (let s := coding (encM 0) decoding; s.dev.onOpen 9 (encM 0) 0x31 ∧ (s.dev.cod.sess[(encM 0).sess]).d.decode = true) ∧
    (let x := ready0 0x31 (entryOf [(0, 0x31), (16, 5), (24, 2 ^ 61 + 0x240000000), (32, 64)])
     (coding x opened).dev.onOpen 9 x 0x31 ∧ codAddrOk (picOf x).src = false) := by decide +kernel
theorem witness_cod_enc :
    (let s := coding (encM 5) opened
     s.dev.onOpen 9 (encM 5) 0x31 ∧ (s.dev.cod.sess[(encM 5).sess]).close = none ∧ 4 < (picOf (encM 5)).mark) ∧
    (let s := coding (encM 0) (opened fun y => { y with queue := [pic0] })
     s.dev.onOpen 9 (encM 0) 0x31 ∧ (s.dev.cod.sess[(encM 0).sess]).d.decode = false ∧ (picOf (encM 0)).mark ≤ 4 ∧
       codAddrOk (picOf (encM 0)).src = true ∧ pic0.nextRow ≠ 0) ∧
    (let s := coding (encM 0) opened
     s.dev.onOpen 9 (encM 0) 0x31 ∧ (s.dev.cod.sess[(encM 0).sess]).queue = [] ∧ (s.dev.cod.sess[(encM 0).sess]).ltrOk (picOf (encM 0)) = true) ∧
    (let s := coding (encM 1) opened
     s.dev.onOpen 9 (encM 1) 0x31 ∧ (picOf (encM 1)).mark ≤ 4 ∧ (s.dev.cod.sess[(encM 1).sess]).queue = [] ∧
       (s.dev.cod.sess[(encM 1).sess]).ltrOk (picOf (encM 1)) = false) := by decide +kernel

def decX : Cmd := ready0 0x32 (entryOf [(0, 0x32), (16, 5), (24, 0x240000000), (32, 16777216)])
theorem witness_cod_dec : (coding decX decoding).dev.onOpen 9 decX 0x32 ∧ ((coding decX decoding).dev.cod.sess[decX.sess]).d.decode = true ∧
    0 < ent decX.entry 32 4 ∧ ent decX.entry 32 4 ≤ 2 ^ 24 ∧ ((coding decX decoding).dev.cod.sess[decX.sess]).discard = false ∧
    ((coding decX decoding).dev.cod.sess[decX.sess]).close = none ∧
    (∀ n ∈ [0, 16777217], let x := ready0 0x32 (entryOf [(0, 0x32), (16, 5), (24, 0x240000000), (32, n)])
      (coding x decoding).dev.onOpen 9 x 0x32 ∧ ¬(0 < ent x.entry 32 4 ∧ ent x.entry 32 4 ≤ 2 ^ 24)) := by decide +kernel

/-! ### Engines -/

def unit0 : Unit14 := { sess := 5, row := 0, rows := 1, live := false, cmd := 8 }
/-- A session with one picture to code, live or not. -/
def picturing (live : Bool) (q : List Pic := [picOf encX]) (f : Sess → Sess := id) : Sess :=
  f (opened fun y => { y with d := { desc0 with live := live }, queue := q })

theorem witness_unit_start_1 :
    (coding encX (picturing false) [(0, { recode := [unit0] })]).dev.serving = true ∧
    ((coding encX (picturing false) [(0, { recode := [unit0] })]).dev.cod.eng[(0 : EngId)]).st = .inService ∧
    ((coding encX (picturing false) [(0, { recode := [unit0] })]).dev.cod.eng[(0 : EngId)]).unit = none := by decide +kernel

theorem witness_unit_start_2 :
    (let s := coding encX (picturing true)
     s.dev.serving = true ∧ s.dev.cod.eng[(0 : EngId)] = {} ∧ s.dev.firstUnit (s.dev.unitsFor 0 true) = some { unit0 with live := true }) ∧
    (let s := coding encX (picturing false)
     s.dev.firstUnit (s.dev.unitsFor 0 true) = none ∧ s.dev.firstUnit (s.dev.unitsFor 0 false) = some unit0 ∧
       (s.dev.cod.reserve && s.dev.hasLive 0) = false) := by decide +kernel

/-- A live reserve, an open live session on the engine, and a file unit that is ready. -/
def reserved : State :=
  { coding encX (picturing false) with dev := { (coding encX (picturing false)).dev with
      cod := { (coding encX (picturing false)).dev.cod with
        reserve := true, sess := ((coding encX (picturing false)).dev.cod.sess).set 6 (picturing true []) } } }
theorem witness_unit_start_3 : reserved.dev.serving = true ∧ reserved.dev.cod.eng[(0 : EngId)] = {} ∧
    reserved.dev.firstUnit (reserved.dev.unitsFor 0 true) = none ∧ reserved.dev.firstUnit (reserved.dev.unitsFor 0 false) = some unit0 ∧
    (reserved.dev.cod.reserve && reserved.dev.hasLive 0) = true := by decide +kernel

theorem witness_recode_window : (let s := coding encX (picturing false) [(0, { unit := some unit0, recode := [{ unit0 with cmd := 7 }] })]
    s.dev.serving = true ∧ (s.dev.cod.eng[(0 : EngId)]).unit = some unit0 ∧
      (List.finRange 8).find? (fun f => f ≠ (0 : EngId) && sameWay 0 f && decide (s.dev.cod.eng[f].st = .inService)) = some 1 ∧
      (0 : EngId).val = (0 : Fin 4).val) ∧
    ((coding encX (picturing false)).dev.cod.eng[(0 : EngId)]).unit = none ∧
    (∀ i : SessId, (coding encX (picturing false)).dev.cod.sess[i].held = []) := by decide +kernel

/-! ### Units whose coded bytes are free

The witnesses below have no room in the ring and no work region, so that nothing they read depends on the coded bytes. -/

theorem storeSpace_nil (d : Dev) (who : Actor) (c : CtxId) (loc : Option ArrId) (sp a : Nat) : d.storeSpace who c loc sp a [] = d := by
  show d.reportSpace who sp [] = d
  unfold Dev.reportSpace
  split <;> rfl

theorem loadSpace_zero (d : Dev) (who : Actor) (c : CtxId) (loc : Option ArrId) (sp a : Nat) : d.loadSpace who c loc sp a 0 = ([], d) := by
  show (([], d.reportSpace who sp []) : List RByte × Dev) = _
  unfold Dev.reportSpace
  split <;> rfl

theorem workWrites_none (d : Dev) (x : Sess) (ws : List (Nat × List Byte)) (h : x.d.workSize = 0) : d.workWrites x ws = d := by
  unfold Dev.workWrites
  induction ws generalizing d with
  | nil => rfl
  | cons w l ih =>
    rw [List.foldl_cons]
    split
    · next g =>
      have e : w.2 = [] := List.eq_nil_of_length_eq_zero (by omega)
      rw [e, storeSpace_nil]; exact ih d
    · exact ih d

theorem workReads_none (d : Dev) (x : Sess) (l : List (Nat × Nat)) (h : x.d.workSize = 0) : d.workReads x l = (false, d) := by
  unfold Dev.workReads
  induction l with
  | nil => rfl
  | cons r l ih =>
    rw [List.foldl_cons]
    split
    · next g =>
      have e : r.2 = 0 := by omega
      rw [e, loadSpace_zero]; exact ih
    · exact ih

/-- A word of one line at hand is read without a miss. -/
theorem loadAddr_quiet (d : Dev) (who : Actor) (a : Nat) (h : a % 64 = 8) (g : d.region a = .software) (k : d.atHand (a - 8) = true) :
    d.Quiet (d.loadAddr who a 8).2 := by
  have q : d.reportAccess who [(a, 8)] = d := by simp [Dev.reportAccess, g]
  have p : d.loadPiece a 8 = d.loadKey a 8 := by
    unfold Dev.loadPiece; rw [g]; show Dev.loadKey _ _ _ = _; rw [h, d.touchRead_held _ k]
  unfold Dev.loadAddr
  rw [linePieces_one a 8 (by decide) (by omega), List.foldl_cons, List.foldl_nil, q]
  show d.Quiet (d.loadPiece a 8).2
  rw [p]; exact d.quiet_loadKey a 8

theorem quiet_sess {d d' : Dev} (h : d.Quiet d') (i : SessId) :
    ({ d'.cod.sess[i] with evSeq := 0 } : Sess) = { d.cod.sess[i] with evSeq := 0 } := by
  have e : d'.cod.sess.map (fun x : Sess => { x with evSeq := 0 }) = d.cod.sess.map (fun x : Sess => { x with evSeq := 0 }) :=
    h.get fun x => x.cod.sess
  have := congrArg (fun v : Vector Sess 256 => v[i]) e
  simpa using this

theorem modSess_self (d : Dev) (i : SessId) (f : Sess → Sess) : (d.modSess i f).cod.sess[i] = f d.cod.sess[i] := by
  simp [Dev.modSess]

theorem unitBytes_pos (x : Sess) (u : HeldUnit) : 0 < (x.unitBytes u).length := by
  unfold Sess.unitBytes; simp only [List.length_append, length_leBytes]; omega

/-- The ring has no room: the units stay, and RD has been read. -/
theorem placeAll_full (d : Dev) (i : SessId) (u : HeldUnit) (rest : List HeldUnit) (h : d.cod.sess[i].held = u :: rest)
    (r : (d.cod.sess[i]).d.ringSize = 0) : ∃ v, d.placeAll i = (d.loadAddr d.cod.sess[i].actor ((d.cod.sess[i]).d.status + 8) 8).2.modSess i fun y => { y with rd := v } := by
  unfold Dev.placeAll
  rw [h]
  show ∃ v, d.placeUnits i (rest.length + 1) = _
  rw [Dev.placeUnits]
  simp only [h]
  refine ⟨_, if_pos ?_⟩
  rw [r]
  exact Nat.lt_of_lt_of_le (unitBytes_pos _ _) (Nat.le_add_left _ _)

theorem encodeDone_eq (d : Dev) (i : SessId) (u : Unit14) (p : Pic) (hq : (d.cod.sess[i]).queue = [p]) (hp : p.repeatFrom = none)
    (hw : (d.cod.sess[i]).d.workSize = 0) :
    ∃ (u' : HeldUnit) (p' : Pic) (c : Nat), p'.repeatFrom = none ∧ d.encodeDone i u =
      ((d.readSource d.cod.sess[i] p u.row u.rows).2.modSess i fun y =>
        { y with held := y.held ++ [u'], code := c, queue := [p'] }).placeAll i := by
  unfold Dev.encodeDone
  simp only [hq, workReads_none _ _ _ hw, workWrites_none _ _ _ hw]
  exact ⟨_, { p with nextRow := u.row + u.rows, poisoned := p.poisoned || (d.readSource d.cod.sess[i] p u.row u.rows).1.2 || false }, _, hp, rfl⟩

/-- A unit that finds no room stays before the ring. -/
theorem staysBeforeRing (r : Dev) (i : SessId) (u : HeldUnit) (p : Pic) (c : Nat) (x : Sess) (e : r.cod.sess[i] = x) (hh : x.held = [])
    (hr : x.d.ringSize = 0) (m : r.rcl.missed = false) (a : (x.d.status + 8) % 64 = 8) (g : r.region (x.d.status + 8) = .software)
    (k : r.atHand x.d.status = true) :
    let z := (r.modSess i fun y => { y with held := y.held ++ [u], code := c, queue := [p] }).placeAll i
    z.rcl.missed = false ∧ z.cod.eng = r.cod.eng ∧ (z.cod.sess[i]).queue = [p] := by
  intro z
  have es : (r.modSess i fun y => { y with held := y.held ++ [u], code := c, queue := [p] }).cod.sess[i] =
      { x with held := [u], code := c, queue := [p] } := by
    rw [modSess_self, e, hh]; rfl
  obtain ⟨v, hv⟩ := placeAll_full (r.modSess i fun y => { y with held := y.held ++ [u], code := c, queue := [p] }) i u [] (by rw [es]) (by rw [es]; exact hr)
  rw [es] at hv
  have q := loadAddr_quiet (r.modSess i fun y => { y with held := y.held ++ [u], code := c, queue := [p] })
    ({ x with held := [u], code := c, queue := [p] } : Sess).actor (x.d.status + 8) a g k
  have hz : z = _ := hv
  rw [hz]
  refine ⟨q.missed.trans m, q.eng, ?_⟩
  rw [modSess_self]
  have h1 := congrArg (fun y : Sess => y.queue) (quiet_sess q i)
  dsimp only at h1
  rw [es] at h1
  exact h1

theorem unitEnds_missed (z : Dev) (e : EngId) (u : Unit14) (h : z.cod.eng[e].leaving = false) :
    (z.unitEnds e u).rcl.missed = z.rcl.missed := by
  have k (w : Dev) (hw : w.cod.eng[e].leaving = false) (hm : w.rcl.missed = z.rcl.missed) :
      (w.leaveAndStrand e).rcl.missed = z.rcl.missed := by
    unfold Dev.leaveAndStrand; simp only [hw]; exact hm
  unfold Dev.unitEnds
  dsimp only
  split
  · exact k _ h rfl
  · exact k _ h rfl

theorem unitVisible_missed (d : Dev) (e : EngId) (u : Unit14) (f : Dev) (h0 : d.cod.eng[e].unit = some u)
    (hf : (d.modEng e fun x => { x with unit := none }) = f) (h1 : (d.cod.sess[u.sess]).d.decode = false)
    (hm : (f.encodeDone u.sess u).emitRepeats u.sess = f.encodeDone u.sess u)
    (hl : ((f.encodeDone u.sess u).cod.eng[e]).leaving = false) :
    (d.unitVisible e).rcl.missed = (f.encodeDone u.sess u).rcl.missed := by
  unfold Dev.unitVisible
  rw [h0]
  dsimp only
  rw [hf, h1]
  simp only [Bool.false_eq_true, if_false, hm]
  exact unitEnds_missed _ e u hl

/-- A picture with one more row to code after the unit that engine 0 runs. -/
def codingUnit : State :=
  coding encX (picturing false [picOf encX] fun y => { y with d := { y.d with workSize := 0, ringSize := 0 } }) [(0, { unit := some unit0 })]

theorem witness_unit_visible_1 : codingUnit.dev.serving = true ∧ (codingUnit.dev.cod.eng[(0 : EngId)]).unit = some unit0 ∧
    (codingUnit.dev.cod.eng[(0 : EngId)]).leaving = false ∧ ((codingUnit.dev.cod.sess[unit0.sess])).d.decode = false ∧
    (codingUnit.dev.cod.sess[unit0.sess]).queue = [picOf encX] ∧ (picOf encX).repeatFrom = none ∧
    (codingUnit.dev.cod.sess[unit0.sess]).held = [] ∧ unit0.row + unit0.rows < (codingUnit.dev.cod.sess[unit0.sess]).d.rows := by decide +kernel

/-- The device when the engine has given its unit up, and when the source has been read. -/
def freedDev : Dev := codingUnit.dev.seen.modEng 0 fun x => { x with unit := none }
def readDev : Dev := (freedDev.readSource freedDev.cod.sess[unit0.sess] (picOf encX) unit0.row unit0.rows).2

theorem readDev_facts : readDev.rcl.missed = false ∧ readDev.region (0x230000000 + 8) = .software ∧ readDev.atHand 0x230000000 = true ∧
    readDev.cod.sess[unit0.sess] = freedDev.cod.sess[unit0.sess] ∧ (readDev.cod.eng[(0 : EngId)]).leaving = false := by decide +kernel

theorem freedDev_facts : codingUnit.dev.seen.cod.eng[(0 : EngId)].unit = some unit0 ∧
    (codingUnit.dev.seen.cod.sess[unit0.sess]).d.decode = false ∧
    (freedDev.cod.sess[unit0.sess]).queue = [picOf encX] ∧ (picOf encX).repeatFrom = none ∧ (freedDev.cod.sess[unit0.sess]).d.workSize = 0 ∧
    (freedDev.cod.sess[unit0.sess]).held = [] ∧ (freedDev.cod.sess[unit0.sess]).d.ringSize = 0 ∧
    (freedDev.cod.sess[unit0.sess]).d.status = 0x230000000 := by decide +kernel

theorem witness_unit_visible_2 : codingUnit.dev.runsNow (fun d => d.unitVisible 0) := by
  obtain ⟨m, g, k, e, l⟩ := readDev_facts
  obtain ⟨f0, f1, f2, f3, f4, f5, f6, f7⟩ := freedDev_facts
  obtain ⟨u', p', c, hp, he⟩ := encodeDone_eq freedDev unit0.sess unit0 (picOf encX) f2 f3 f4
  have hs := staysBeforeRing readDev unit0.sess u' p' c _ e f5 f6 m (by rw [f7]) (f7.symm ▸ g) (f7.symm ▸ k)
  have he : freedDev.encodeDone unit0.sess unit0 = _ := he
  dsimp only at hs
  have hr : (freedDev.readSource freedDev.cod.sess[unit0.sess] (picOf encX) unit0.row unit0.rows).2 = readDev := by delta readDev; exact Eq.refl _
  rw [hr] at he
  rw [← he] at hs
  have hm : (freedDev.encodeDone unit0.sess unit0).emitRepeats unit0.sess = freedDev.encodeDone unit0.sess unit0 := by
    unfold Dev.emitRepeats; simp only [hs.2.2, hp]
  have hl : ((freedDev.encodeDone unit0.sess unit0).cod.eng[(0 : EngId)]).leaving = false := by rw [hs.2.1]; exact l
  have hf : (codingUnit.dev.seen.modEng 0 fun x => { x with unit := none }) = freedDev := by delta freedDev; exact Eq.refl _
  have hv := unitVisible_missed codingUnit.dev.seen 0 unit0 freedDev f0 hf f1 hm hl
  rw [hs.1] at hv
  generalize codingUnit = s at hv ⊢
  exact hv

/-- A session with no input, no close and no move ahead, no room in the ring and no work region. -/
structure Bare (d : Dev) (i : SessId) (e : EngId) : Prop where
  missed : d.rcl.missed = false
  region : d.region ((d.cod.sess[i]).d.status + 8) = .software
  atHand : d.atHand (d.cod.sess[i]).d.status = true
  aligned : ((d.cod.sess[i]).d.status + 8) % 64 = 8
  input : (d.cod.sess[i]).input = []
  moving : (d.cod.sess[i]).moving = false
  close : (d.cod.sess[i]).close = none
  ring : (d.cod.sess[i]).d.ringSize = 0
  eng : d.cod.eng[e].leaving = false

theorem bare_modSess {d : Dev} {i : SessId} {e : EngId} (h : Bare d i e) (f : Sess → Sess)
    (hf : ∀ x, (f x).d = x.d ∧ (x.input = [] → (f x).input = []) ∧ (f x).moving = x.moving ∧ (f x).close = x.close) : Bare (d.modSess i f) i e := by
  have es := modSess_self d i f
  obtain ⟨h1, h2, h3, h4, h5, h6, h7, h8, h9⟩ := h
  obtain ⟨g1, g2, g3, g4⟩ := hf d.cod.sess[i]
  constructor
  · exact h1
  · rw [es, g1]; exact h2
  · rw [es, g1]; exact h3
  · rw [es, g1]; exact h4
  · rw [es]; exact g2 h5
  · rw [es, g3]; exact h6
  · rw [es, g4]; exact h7
  · rw [es, g1]; exact h8
  · exact h9

theorem bare_shows {d : Dev} {i : SessId} {e : EngId} (h : Bare d i e) (l : List Nat) : Bare (d.showPics i l) i e := by
  unfold Dev.showPics
  induction l generalizing d with
  | nil => exact h
  | cons b l ih =>
    rw [List.foldl_cons]
    refine ih ?_
    split
    · exact h
    · exact bare_modSess h _ fun x => ⟨rfl, fun g => g, rfl, rfl⟩

theorem bare_count {d : Dev} {i : SessId} {e : EngId} (h : Bare d i e) :
    Bare ({ d with cod := { d.cod with timeouts := satInc d.cod.timeouts } }.count 23) i e := by
  obtain ⟨h1, h2, h3, h4, h5, h6, h7, h8, h9⟩ := h
  exact ⟨h1, h2, h3, h4, h5, h6, h7, h8, h9⟩

theorem bare_inputDone {d : Dev} {i : SessId} {e : EngId} (h : Bare d i e) : Bare (d.inputDone i) i e := by
  unfold Dev.inputDone
  rw [h.input]
  exact bare_modSess h _ fun x => ⟨rfl, fun _ => rfl, rfl, rfl⟩

theorem bare_end {d : Dev} {i : SessId} {e : EngId} {u : Unit14} (h : Bare d i e) :
    (((((d.inputDone i).placeAll i).moveSession i).codSettle i).unitEnds e u).rcl.missed = false := by
  have k := bare_inputDone h
  generalize d.inputDone i = x at k
  have p : (x.placeAll i).rcl.missed = false ∧ ((x.placeAll i).cod.sess[i]).moving = false ∧ ((x.placeAll i).cod.sess[i]).close = none ∧
      (x.placeAll i).cod.eng[e].leaving = false := by
    cases hh : (x.cod.sess[i]).held with
    | nil =>
      have : x.placeAll i = x := by unfold Dev.placeAll; rw [hh]; rfl
      rw [this]; exact ⟨k.missed, k.moving, k.close, k.eng⟩
    | cons u rest =>
      obtain ⟨v, hv⟩ := placeAll_full x i u rest hh k.ring
      have q := loadAddr_quiet x x.cod.sess[i].actor _ k.aligned k.region k.atHand
      rw [hv]
      generalize (x.loadAddr x.cod.sess[i].actor ((x.cod.sess[i]).d.status + 8) 8).2 = y at q
      have m := quiet_sess q i
      refine ⟨q.missed.trans k.missed, ?_, ?_, ?_⟩
      · rw [modSess_self]
        have := congrArg (fun y : Sess => y.moving) m
        dsimp only at this ⊢; rw [this]; exact k.moving
      · rw [modSess_self]
        have := congrArg (fun y : Sess => y.close) m
        dsimp only at this ⊢; rw [this]; exact k.close
      · have := congrArg (fun v : Vector Eng 8 => v[e].leaving) q.eng
        exact this.trans k.eng
  generalize x.placeAll i = z at p
  have m : z.moveSession i = z := by unfold Dev.moveSession; simp only [p.2.1]; rfl
  have c : z.codSettle i = z := by unfold Dev.codSettle; simp only [p.2.2.1]
  rw [m, c, unitEnds_missed z e u p.2.2.2]; exact p.1

theorem timeBound_missed (d : Dev) (e : EngId) (u : Unit14) (f : Dev) (h0 : d.cod.eng[e].unit = some u)
    (hf : (d.modEng e fun x => { x with unit := none }) = f) (h1 : (d.cod.sess[u.sess]).d.decode = true)
    (hw : (f.cod.sess[u.sess]).d.workSize = 0) (b : Nat) (hc : (f.cod.sess[u.sess]).cur = some b) (hl : (f.cod.sess[u.sess]).lastOut = none)
    (h : Bare f u.sess e) : (d.timeBound e).rcl.missed = false := by
  unfold Dev.timeBound
  rw [h0]
  dsimp only
  rw [hf, h1]
  simp only [if_true]
  unfold Dev.decodeUnit
  have hi := h.input
  simp only [hi, Dev.inputBytes, Dev.parseInput, List.foldl_nil, List.length_nil, Nat.min_zero, Bool.not_true, Bool.false_eq_true, and_false, if_false, Bool.or_true, if_true, hc]
  simp only [workReads_none _ _ _ hw, workWrites_none _ _ _ hw]
  have t : ∀ (w : Prop) [Decidable w] (z : Dev) (l : List Byte), (if w then z.concealed f.cod.sess[u.sess] else (l, z)).2 = z := by
    intro w _ z l
    split
    · simp only [Dev.concealed, hl]
    · rfl
  refine bare_end (bare_count (bare_shows ?_ _))
  simp only [t]
  refine bare_modSess ?_ _ ?_
  · refine bare_modSess ?_ _ ?_
    · refine bare_modSess h _ fun x => ⟨rfl, fun g => ?_, rfl, rfl⟩
      dsimp only; rw [g]; rfl
    · exact fun x => ⟨rfl, fun g => g, rfl, rfl⟩
  · exact fun x => ⟨rfl, fun g => g, rfl, rfl⟩

/-- A decode unit at work on engine 4, in buffer 3. -/
def decodingUnit : State :=
  coding decX (decoding fun y => { y with d := { y.d with workSize := 0, ringSize := 0 }, midPic := true, cur := some 3 }) [(4, { unit := some unit0 })]
def freedDev4 : Dev := decodingUnit.dev.seen.modEng 4 fun x => { x with unit := none }

theorem witness_time_bound_1 : decodingUnit.dev.serving = true ∧ decodingUnit.dev.cod.eng[(4 : EngId)].unit = some unit0 ∧
    (decodingUnit.dev.cod.eng[(4 : EngId)]).leaving = false ∧ (decodingUnit.dev.cod.sess[unit0.sess]).d.decode = true := by decide +kernel

theorem decodingUnit_facts : decodingUnit.dev.seen.cod.eng[(4 : EngId)].unit = some unit0 ∧ (decodingUnit.dev.seen.cod.sess[unit0.sess]).d.decode = true ∧
    (freedDev4.cod.sess[unit0.sess]).d.workSize = 0 ∧ (freedDev4.cod.sess[unit0.sess]).cur = some 3 ∧ (freedDev4.cod.sess[unit0.sess]).lastOut = none := by
  decide +kernel

theorem decodingUnit_bare : Bare freedDev4 unit0.sess 4 :=
  ⟨by decide +kernel, by decide +kernel, by decide +kernel, by decide +kernel, by decide +kernel, by decide +kernel, by decide +kernel,
    by decide +kernel, by decide +kernel⟩

/-- With no input the unit waits for it. -/
theorem decodeUnit_waits (d : Dev) (i : SessId) (h : (d.cod.sess[i]).input = []) : d.decodeUnit i false = (true, d) := by
  unfold Dev.decodeUnit
  simp only [h, Dev.inputBytes, List.foldl_nil, List.length_nil, Nat.min_zero, Bool.not_false, and_self, if_true]

theorem unitVisible_waits (d : Dev) (e : EngId) (u : Unit14) (f : Dev) (h0 : d.cod.eng[e].unit = some u)
    (hf : (d.modEng e fun x => { x with unit := none }) = f) (h1 : (d.cod.sess[u.sess]).d.decode = true)
    (hi : (f.cod.sess[u.sess]).input = []) : d.unitVisible e = f.modEng e fun x => { x with unit := some u } := by
  unfold Dev.unitVisible
  rw [h0]
  dsimp only
  rw [hf, h1]
  simp only [if_true, decodeUnit_waits _ _ hi]

theorem witness_decode_visible : decodingUnit.dev.runsNow (fun d => d.unitVisible 4) := by
  have hi : (freedDev4.cod.sess[unit0.sess]).input = [] := by decide +kernel
  have hm : freedDev4.rcl.missed = false := by decide +kernel
  obtain ⟨h0, h1, -, -, -⟩ := decodingUnit_facts
  have hf : (decodingUnit.dev.seen.modEng 4 fun x => { x with unit := none }) = freedDev4 := by delta freedDev4; exact Eq.refl _
  have hv := unitVisible_waits decodingUnit.dev.seen 4 unit0 freedDev4 h0 hf h1 hi
  generalize decodingUnit = s at hv ⊢
  show (s.dev.seen.unitVisible 4).rcl.missed = false
  rw [hv]
  exact hm

theorem witness_time_bound_2 : decodingUnit.dev.runsNow (fun d => d.timeBound 4) := by
  obtain ⟨h0, h1, h2, h3, h4⟩ := decodingUnit_facts
  have hf : (decodingUnit.dev.seen.modEng 4 fun x => { x with unit := none }) = freedDev4 := by delta freedDev4; exact Eq.refl _
  have hv := timeBound_missed decodingUnit.dev.seen 4 unit0 freedDev4 h0 hf h1 h2 3 h3 h4 decodingUnit_bare
  generalize decodingUnit = s at hv ⊢
  exact hv

end Sys2Proof.Tests
end

section
/-!
PROOF. What a slot of a clause word that does not act leaves (R150, R176): a word whose guard is false acts as the word with a
no-operation in that slot, and words that act alike come to issue alike.
-/
namespace Sys2Proof.Machine

/-! ## Slots that do nothing -/

theorem pickSlot_guard_false {α : Type} (u n : Bool) (x : α) : pickSlot false u n x = none := rfl
theorem pickSlot_nop {α : Type} (g u : Bool) (x : α) : pickSlot g u true x = none := by simp [pickSlot]

/-- A field of zeros is a no-operation, and no undefined encoding (R150, R177). -/
theorem QSlot.zeros_undefined : QSlot.undefined {} = false := by decide
theorem TSlot.zeros_undefined : TSlot.undefined {} = false := by decide
theorem VSlot.zeros_undefined : VSlot.undefined {} = false := by decide
theorem ASlot.zeros_undefined : ASlot.undefined {} = false := by decide
theorem SSlot.zeros_undefined (s0 : Bool) : SSlot.undefined s0 {} = false := by cases s0 <;> decide

/-- A field of zeros does nothing, whatever the registers hold (R150). -/
theorem Acts.of_withNop_idle (r : Snap) (w : ClauseWord) (n : SlotName) : (Acts.of r (w.withNop n)).idle n = true := by
  cases n <;> simp [Acts.of, Acts.idle, ClauseWord.withNop, pickSlot_nop]

/-- A slot whose guard is false adds nothing to what its word does: the other slots act, and are undefined, as they are (R150). -/
theorem Acts.of_withNop {r : Snap} {w : ClauseWord} {n : SlotName} (h : guardOf r w n = false) :
    Acts.of r (w.withNop n) = Acts.of r w := by
  -- Both words pick nothing in slot `n`, and it is undefined with a true guard in neither; the five other slots are the same.
  cases n <;>
    (simp only [guardOf] at h
     simp only [Acts.of, ClauseWord.withNop, h, pickSlot_guard_false, pickSlot_nop, decide_true, Bool.and_false, Bool.false_and,
      QSlot.zeros_undefined, TSlot.zeros_undefined, VSlot.zeros_undefined, ASlot.zeros_undefined, SSlot.zeros_undefined]
     rfl)

/-! ## Words that act alike -/

/-- A word is tried by the slots that act alone. -/
theorem Dev.tryWord_congr {d : Dev} {c : CtxId} {w w' : ClauseWord} (h : Acts.of d.ctx[c].cp.r w = Acts.of d.ctx[c].cp.r w')
    (q : QId) : d.tryWord c q w = d.tryWord c q w' := by
  rw [Dev.tryWord_eq, Dev.tryWord_eq, h]

/-- Where the instruction buffer holds no word to compare with, words whose slots act alike come to issue alike. -/
theorem Dev.clause_congr {d : Dev} {c : CtxId} {w w' : ClauseWord} (h : Acts.of d.ctx[c].cp.r w = Acts.of d.ctx[c].cp.r w')
    (hb : d.ctx[c].cp.ibuf = []) : d.clause c w = d.clause c w' := by
  unfold Dev.clause
  simp only [hb, List.find?_nil, Dev.tryWord_congr h]

/-- Two changes that agree on a device with no read missed do the same in service. -/
theorem Dev.inService_congr {d : Dev} {f g : Dev → Dev}
    (h : f { d with rcl := { d.rcl with missed := false } } = g { d with rcl := { d.rcl with missed := false } }) :
    d.inService f = d.inService g := by
  unfold Dev.inService Dev.attempt
  dsimp only
  rw [h]

/-- Two changes that agree on the device as a command finds it answer the same state, in service or not. -/
theorem run_inService_congr {s : State} {f g : Dev → Dev} (h : f s.dev.seen = g s.dev.seen) :
    s.run (fun d => d.inService f) = s.run (fun d => d.inService g) := by
  have e : Dev.inService { s.dev with out := [] } f = Dev.inService { s.dev with out := [] } g := Dev.inService_congr h
  exact congrArg (fun d : Dev => (.next { s with dev := d } : Host.Outcome State Fault Refusal)) e

/-! ## The word of a slot operation -/

/-- A slot operation is the issue of its word (R150 to R153). -/
theorem exec_slotWord {i : Instr} {c : CtxId} {w : ClauseWord} (s : State) (h : slotWord i = some (c, w)) :
    exec i s = issueOn c w s := by
  cases i <;> cases h <;> rfl

/-- A slot operation whose word has a false guard in slot `n` does what its word with a no-operation there does (R150). -/
theorem issueOn_withNop {c : CtxId} {w : ClauseWord} {n : SlotName} {s : State} (hg : guardOf (s.regs c) w n = false)
    (hb : s.dev.ctx[c].cp.ibuf = []) : issueOn c (w.withNop n) s = issueOn c w s :=
  run_inService_congr (Dev.clause_congr (Acts.of_withNop hg) hb)

/-- Settles O8: a slot that does not act enters its word's issue through `Acts.of` alone. -/
theorem falseGuardIsNoOperation : Obligations.FalseGuardIsNoOperation := by
  unfold Obligations.FalseGuardIsNoOperation
  refine ⟨Acts.of_withNop_idle, fun r w => rfl, fun i c w n s hw hg hb => ?_⟩
  calc exec i s = issueOn c w s := exec_slotWord s hw
    _ = issueOn c (w.withNop n) s := (issueOn_withNop hg hb).symm
    _ = exec (.nop c n w) s := rfl

end Sys2Proof.Machine
end

section
/-!
PROOF. The fourth array that fails one tile halts the block (R404, R412, R418): what the halt leaves of commands and tiles, that a
change which meets a fatal fault ends in it, and that each way an attempt fails comes to a fatal fault at the fourth array.
-/
namespace Sys2Proof.Machine

/-! ## What only ends commands -/

/-- `d'` differs from `d` in no tile and in no cause of a halt, and has no command that `d` has not. -/
structure Dev.OnlyEnds (d d' : Dev) : Prop where
  cmds : d'.cmds ⊆ d.cmds
  tiles : d'.tiles = d.tiles
  cause : d'.dump.cause = d.dump.cause

theorem Dev.OnlyEnds.refl (d : Dev) : d.OnlyEnds d := ⟨List.Subset.refl _, rfl, rfl⟩

theorem Dev.OnlyEnds.trans {a b c : Dev} (h : a.OnlyEnds b) (g : b.OnlyEnds c) : a.OnlyEnds c :=
  ⟨List.Subset.trans g.cmds h.cmds, g.tiles.trans h.tiles, g.cause.trans h.cause⟩

theorem Dev.Quiet.onlyEnds {d d' : Dev} (h : d.Quiet d') : d.OnlyEnds d' :=
  ⟨fun _ hx => h.cmds ▸ hx, h.tiles, h.get fun x => x.dump.cause⟩

theorem onlyEnds_foldl {α : Type} (f : Dev → α → Dev) (h : ∀ (d : Dev) a, d.OnlyEnds (f d a)) (l : List α) (d : Dev) :
    d.OnlyEnds (l.foldl f d) := by
  induction l generalizing d with
  | nil => exact .refl d
  | cons a l ih => exact (h d a).trans (ih _)

theorem onlyEnds_ite {d a b : Dev} {p : Prop} [Decidable p] (h : d.OnlyEnds a) (g : d.OnlyEnds b) :
    d.OnlyEnds (if p then a else b) := by
  split <;> assumption

theorem Dev.onlyEnds_modCp (d : Dev) (c : CtxId) (f : Cp → Cp) : d.OnlyEnds (d.modCp c f) := ⟨List.Subset.refl _, rfl, rfl⟩

theorem Dev.onlyEnds_filter (d : Dev) (p : Cmd → Bool) : d.OnlyEnds { d with cmds := d.cmds.filter p } :=
  ⟨List.filter_subset_self _, rfl, rfl⟩

theorem Dev.quiet_countStatus (d : Dev) (c : CtxId) (st : BitVec 8) : d.Quiet (d.countStatus c st) := by
  unfold Dev.countStatus
  exact quiet_ite (d.quiet_count ..) (quiet_ite (d.quiet_count ..) (quiet_ite (d.quiet_count ..) (.refl d)))

theorem Dev.onlyEnds_signal (d : Dev) (c : CtxId) (f : Option (BitVec 8)) (st : BitVec 8) : d.OnlyEnds (d.signal c f st) := by
  cases f with
  | none => exact .refl d
  | some f => exact ⟨List.Subset.refl _, rfl, rfl⟩

/-! ## The end of a command -/

/-- What every end of a command begins with: its status is counted, its signal advances, and it is gone. -/
theorem Dev.onlyEnds_gone (d : Dev) (c : CtxId) (f : Option (BitVec 8)) (st : BitVec 8) (id : Nat) :
    d.OnlyEnds { (d.countStatus c st).signal c f st with
      cmds := ((d.countStatus c st).signal c f st).cmds.filter (·.id ≠ id) } :=
  ((d.quiet_countStatus c st).onlyEnds.trans (Dev.onlyEnds_signal ..)).trans (Dev.onlyEnds_filter ..)

theorem Dev.onlyEnds_endEntry (d : Dev) (x : Cmd) (st : BitVec 8) (fl : BitVec 4) : d.OnlyEnds (d.endEntry x st fl) :=
  (d.onlyEnds_gone ..).trans (Dev.quiet_complete ..).onlyEnds

theorem Dev.endEntry_gone (d : Dev) (x : Cmd) (st : BitVec 8) (fl : BitVec 4) : ∀ y ∈ (d.endEntry x st fl).cmds, y.id ≠ x.id := by
  intro y hy
  unfold Dev.endEntry at hy
  rw [(Dev.quiet_complete ..).cmds] at hy
  simpa using (List.mem_filter.1 hy).2

theorem Dev.quiet_walkOps (d : Dev) (x : Cmd) (p : Program) (ops : List LaunchOp) : d.Quiet (d.walkOps x p ops).1 := by
  induction ops generalizing d p with
  | nil => exact .refl d
  | cons op ops ih =>
    cases op with
    | cmd id sf =>
      cases sf with
      | none => exact .refl d
      | some sf => exact ih ..
    | post tag => exact (d.quiet_complete ..).trans (ih ..)
    | endp => exact .refl d

theorem Dev.onlyEnds_settleProgram (d : Dev) (c : CtxId) (p : Program) : d.OnlyEnds (d.settleProgram c p) := by
  unfold Dev.settleProgram
  split
  · exact .refl d
  · next x _ =>
    have walked : d.OnlyEnds ((d.walkOps x p p.ops).1.modCp c fun cp => cp.modProgram p.launch fun _ => (d.walkOps x p p.ops).2.1) :=
      (d.quiet_walkOps ..).onlyEnds.trans (Dev.onlyEnds_modCp ..)
    have left := fun f => walked.trans (Dev.onlyEnds_modCp _ c f)
    dsimp only
    refine onlyEnds_ite (onlyEnds_ite walked (left _)) (onlyEnds_ite walked ?_)
    split <;> exact onlyEnds_ite ((left _).trans (Dev.onlyEnds_endEntry ..)) walked

theorem Dev.onlyEnds_settle (d : Dev) (c : CtxId) : d.OnlyEnds (d.settle c) :=
  onlyEnds_foldl _ (fun d p => d.onlyEnds_settleProgram c p) _ d

/-- The end of command `id` only ends commands, and leaves none of that number. -/
theorem Dev.endCmd_ends (d : Dev) (id : Nat) (st : BitVec 8) (fl : BitVec 4) :
    d.OnlyEnds (d.endCmd id st fl) ∧ ∀ y ∈ (d.endCmd id st fl).cmds, y.id ≠ id := by
  unfold Dev.endCmd
  cases h : d.cmd? id with
  | none => exact ⟨.refl d, fun y hy e => by simpa [e] using List.find?_eq_none.1 h y hy⟩
  | some x =>
    have hx : x.id = id := by simpa using List.find?_some h
    dsimp only
    cases hl : x.launch with
    | none => exact ⟨d.onlyEnds_endEntry x st fl, hx ▸ d.endEntry_gone x st fl⟩
    | some l =>
      refine ⟨((d.onlyEnds_gone ..).trans (Dev.onlyEnds_modCp ..)).trans (Dev.onlyEnds_settle _ x.c), fun y hy => ?_⟩
      simpa using (List.mem_filter.1 ((Dev.onlyEnds_settle _ _).cmds hy)).2

theorem Dev.onlyEnds_endCmd (d : Dev) (id : Nat) (st : BitVec 8) (fl : BitVec 4) : d.OnlyEnds (d.endCmd id st fl) :=
  (d.endCmd_ends id st fl).1

/-- Ending the commands of a list, one after the other, leaves none of their numbers. -/
theorem Dev.endCmds_gone (st : BitVec 8) (l : List Cmd) (d : Dev) :
    ∀ y ∈ (l.foldl (fun d x => d.endCmd x.id st x.flags) d).cmds, ∀ x ∈ l, y.id ≠ x.id := by
  induction l generalizing d with
  | nil => simp
  | cons x l ih =>
    intro y hy z hz
    rcases List.mem_cons.1 hz with rfl | hz
    · exact (d.endCmd_ends ..).2 y ((onlyEnds_foldl _ (fun d x => d.onlyEnds_endCmd ..) l _).cmds hy)
    · exact ih _ y hy z hz

/-! ## The end of every command (R418, Table 18-1) -/

/-- The commands of programs end first and those of queues after them: none is left. -/
theorem Dev.endCmds_none (d : Dev) (st : BitVec 8) :
    let e := (d.cmds.filter fun x => x.launch.isSome).foldl (fun d x => d.endCmd x.id st x.flags) d
    ((e.cmds.filter fun x => x.launch.isNone).foldl (fun d x => d.endCmd x.id st x.flags) e).cmds = [] := by
  intro e
  refine List.eq_nil_iff_forall_not_mem.2 fun y hy => ?_
  have he : y ∈ e.cmds := (onlyEnds_foldl _ (fun d x => d.onlyEnds_endCmd ..) _ _).cmds hy
  have hd : y ∈ d.cmds := (onlyEnds_foldl _ (fun d x => d.onlyEnds_endCmd ..) _ _).cmds he
  cases hl : y.launch with
  | none => exact Dev.endCmds_gone st _ e y hy y (List.mem_filter.2 ⟨he, by simp [hl]⟩) rfl
  | some l => exact Dev.endCmds_gone st _ d y he y (List.mem_filter.2 ⟨hd, by simp [hl]⟩) rfl

/-- No command is left, and the tiles and the cause of the halt are those of `d`. -/
structure Dev.Ended (d d' : Dev) : Prop where
  cmds : d'.cmds = []
  tiles : d'.tiles = d.tiles
  cause : d'.dump.cause = d.dump.cause

theorem Dev.Ended.then {a b c : Dev} (h : a.Ended b) (g : b.OnlyEnds c) : a.Ended c :=
  ⟨List.subset_nil.1 (h.cmds ▸ g.cmds), g.tiles.trans h.tiles, g.cause.trans h.cause⟩

theorem Dev.Ended.foldl {α : Type} {f : Dev → α → Dev} {a : Dev} (hf : ∀ (d : Dev) x, a.Ended d → a.Ended (f d x)) (l : List α)
    {d : Dev} (h : a.Ended d) : a.Ended (l.foldl f d) := by
  induction l generalizing d with
  | nil => exact h
  | cons x l ih => exact ih (hf d x h)

/-- A command that is made where there is none and ends at once leaves none. -/
theorem Dev.Ended.endNew {a d : Dev} (h : a.Ended d) (x : Cmd) (st : BitVec 8) :
    a.Ended ((d.newCmd x).2.endCmd (d.newCmd x).1 st) := by
  obtain ⟨ends, gone⟩ := Dev.endCmd_ends (d.newCmd x).2 (d.newCmd x).1 st 0
  refine ⟨List.eq_nil_iff_forall_not_mem.2 fun y hy => gone y hy ?_, ends.tiles.trans h.tiles, ends.cause.trans h.cause⟩
  have hm := ends.cmds hy
  simp only [Dev.newCmd, h.cmds, List.nil_append, List.mem_singleton] at hm
  rw [hm]; rfl

theorem Dev.endAll_ended (d : Dev) (st : BitVec 8) : d.Ended (d.endAll st) := by
  have ends : ∀ (d : Dev) (p : Cmd → Bool), d.OnlyEnds ((d.cmds.filter p).foldl (fun d x => d.endCmd x.id st x.flags) d) :=
    fun d p => onlyEnds_foldl _ (fun d x => d.onlyEnds_endCmd ..) _ d
  have both := (ends d fun x => x.launch.isSome).trans (ends _ fun x => x.launch.isNone)
  have issued : d.Ended _ := ⟨d.endCmds_none st, both.tiles, both.cause⟩
  unfold Dev.endAll
  refine issued.foldl (fun e p he => ?_) _
  exact Dev.Ended.foldl (fun e h he => he.endNew _ st) _ (he.then ⟨List.Subset.refl _, rfl, rfl⟩)

/-! ## The halt (R418) -/

theorem Dev.quiet_flushWcb (d : Dev) : d.Quiet d.flushWcb := by
  unfold Dev.flushWcb
  refine quiet_foldl _ (fun d k => ?_) _ d
  refine .trans (quiet_foldl _ (fun d e => ?_) _ d) (Dev.quiet_mem _ _ rfl)
  exact quiet_ite (.refl d) (d.quiet_countCh ..)

/-- Steps 4 and 5 note the cause, and touch neither commands nor tiles. -/
theorem Dev.writeDump_ends (d cap : Dev) (cause : BitVec 3) (unit : Word) (stop : Option DumpStop) :
    (d.writeDump cap cause unit stop).tiles = d.tiles ∧ (d.writeDump cap cause unit stop).dump.cause = cause := by
  have copied : ∀ (l : List (Nat × List Byte)) (n at_ : Nat) (e : Dev), e.Quiet ((List.range n).foldl (fun d i =>
      d.rclSend (.putLine (at_ + 64 * i) (Line.ofBytes (d.mem.read (at_ + 64 * i) 64)) false)) (l.foldl (fun d p =>
        { d with mem := { d.mem with cells := memPuts d.mem.cells (at_ + p.1) p.2 } }) e)) := fun l n at_ e =>
    .trans (quiet_foldl _ (fun d p => d.quiet_mem { d.mem with cells := memPuts d.mem.cells (at_ + p.1) p.2 } rfl) l e)
      (quiet_foldl _ (fun d i => d.quiet_rclSend _) _ _)
  unfold Dev.writeDump
  dsimp only
  split
  · exact ⟨(copied ..).tiles, (copied ..).onlyEnds.cause⟩
  · exact ⟨rfl, rfl⟩

theorem Dev.onlyEnds_portState (d : Dev) (p : PortId) (st : LnkState) : d.OnlyEnds (d.portState p st) := by
  unfold Dev.portState
  dsimp only
  split_ifs
  · exact .refl d
  · have moved : d.OnlyEnds (d.modPort p fun x => { x with st := st }) := ⟨List.Subset.refl _, rfl, rfl⟩
    exact moved.trans (Dev.quiet_event ..).onlyEnds

/-- An image of the lifetime record changes that record and the flash alone. -/
theorem Dev.startFlush_eq (d : Dev) (reason : Nat) (halt : Option Nat) :
    ∃ l x, d.startFlush reason halt = { d with life := l, sec := x } := by
  unfold Dev.startFlush
  dsimp only
  split
  · unfold Dev.endFlush Dev.flashWrite
    generalize List.replicate 65536 Config.erased = bs
    cases d.life.writing <;> exact ⟨_, _, rfl⟩
  · exact ⟨_, _, rfl⟩

@[simp] theorem Dev.startFlush_cmds (d : Dev) (reason : Nat) (halt : Option Nat) : (d.startFlush reason halt).cmds = d.cmds := by
  obtain ⟨l, x, e⟩ := d.startFlush_eq reason halt; rw [e]
@[simp] theorem Dev.startFlush_tiles (d : Dev) (reason : Nat) (halt : Option Nat) : (d.startFlush reason halt).tiles = d.tiles := by
  obtain ⟨l, x, e⟩ := d.startFlush_eq reason halt; rw [e]
@[simp] theorem Dev.startFlush_dump (d : Dev) (reason : Nat) (halt : Option Nat) : (d.startFlush reason halt).dump = d.dump := by
  obtain ⟨l, x, e⟩ := d.startFlush_eq reason halt; rw [e]

/-- Step 7 with the processors that leave their programs. -/
theorem Dev.onlyEnds_down (d : Dev) (v : Vector Ctx 16) :
    d.OnlyEnds ((List.finRange 18).foldl (fun d p => d.portState p .down) { d with ctx := v }) := by
  have idle : d.OnlyEnds { d with ctx := v } := ⟨List.Subset.refl _, rfl, rfl⟩
  exact idle.trans (onlyEnds_foldl _ (fun d p => d.onlyEnds_portState p .down) _ _)

/-- The block has halted with a CAUSE of Table 18-2, and no command and no tile is left. -/
def State.HaltedBy (cause : BitVec 3) (t : State) : Prop :=
  t.dev.dump.halted = true ∧ t.dev.dump.cause = cause ∧ t.dev.cmds = [] ∧ t.dev.tiles = []

theorem State.halt_haltedBy (s : State) (cause : BitVec 3) (unit : Word) (stop : Option DumpStop) :
    (s.halt cause unit stop).HaltedBy cause := by
  unfold State.halt Dev.halt State.HaltedBy
  dsimp only
  simp only [Dev.startFlush_cmds, Dev.startFlush_tiles, Dev.startFlush_dump]
  -- Steps 1 and 3 to 5 drop the tiles and note the cause.
  generalize hw : Dev.flushWcb _ = w
  have flushed : w.tiles = [] := by rw [← hw]; exact (Dev.quiet_flushWcb _).tiles
  obtain ⟨dumpTiles, dumpCause⟩ := w.writeDump_ends s.dev cause unit stop
  generalize Dev.writeDump _ _ _ _ _ = x at dumpTiles dumpCause ⊢
  -- Steps 6 and 7 end every command.
  have ended := x.endAll_ended stHalted
  generalize x.endAll stHalted = e at ended ⊢
  generalize Vector.map _ e.ctx = v
  have down := ended.then (e.onlyEnds_down v)
  generalize List.foldl _ _ (List.finRange 18) = z at down ⊢
  exact ⟨trivial, down.cause.trans dumpCause, down.cmds, down.tiles.trans (dumpTiles.trans flushed)⟩

/-! ## A command that meets a fatal fault (R412) -/

/-- The device as a command that may meet a fatal fault finds it. -/
def Dev.undue (d : Dev) : Dev := { d.seen with dump := { d.dump with due := none } }

/-- A command in service whose change misses no read and meets a fatal fault ends in the halted state. -/
theorem runFatal_due {s : State} {f : Dev → Dev} {cause : BitVec 3} {unit : Word} (hs : s.dev.serving = true)
    (hd : (f s.dev.undue).dump.due = some (cause, unit)) (hm : (f s.dev.undue).rcl.missed = false) :
    Answers (s.runFatal fun d => d.inService f) (State.HaltedBy cause) := by
  have e : Dev.inService { s.dev with out := [], dump := { s.dev.dump with due := none } } f =
      s.dev.after (f s.dev.undue) := by
    unfold Dev.inService Dev.attempt
    rw [if_pos (show Dev.serving { s.dev with out := [], dump := { s.dev.dump with due := none } } = true from hs)]
    exact if_neg (Bool.eq_false_iff.1 hm)
  have due : (s.dev.after (f s.dev.undue)).dump.due = some (cause, unit) := hd
  unfold State.runFatal
  simp only [e, due]
  exact ⟨_, rfl, State.halt_haltedBy ..⟩

/-! ## What an attempt that fails does to the arrays reads no memory (R405, R406) -/

theorem missed_foldl {α : Type} (f : Dev → α → Dev) (h : ∀ (d : Dev) a, (f d a).rcl.missed = d.rcl.missed) (l : List α) (d : Dev) :
    (l.foldl f d).rcl.missed = d.rcl.missed := by
  induction l generalizing d with
  | nil => rfl
  | cons a l ih => exact (ih _).trans (h d a)

@[simp] theorem Dev.event_missed (d : Dev) (src : EvSrc) (code : Nat) (a : DWord) (b : Word) (i : Bool) :
    (d.event src code a b i).rcl.missed = d.rcl.missed := (d.quiet_event ..).missed
@[simp] theorem Dev.countArr_missed (d : Dev) (k : Nat) (a : ArrId) (n : Nat) :
    (d.countArr k a n).rcl.missed = d.rcl.missed := rfl
@[simp] theorem Dev.leaveGroup_rcl (d : Dev) (uid : Nat) : (d.leaveGroup uid).rcl = d.rcl := rfl

@[simp] theorem Dev.unrun_rcl (d : Dev) (t : Tile) : (d.unrun t).rcl = d.rcl := by
  unfold Dev.unrun
  cases t.arr with
  | none => rfl
  | some a => dsimp only; split_ifs <;> rfl

@[simp] theorem Dev.noteReplace_rcl (d : Dev) : d.noteReplace.rcl = d.rcl := by
  have bit (p : Prop) [Decidable p] (d : Dev) (i : Nat) : (if p then d.replaceBit i else d).rcl = d.rcl := by split_ifs <;> rfl
  unfold Dev.noteReplace
  simp only [bit]

@[simp] theorem Dev.goMove_rcl (d : Dev) : d.goMove.rcl = d.rcl := by
  unfold Dev.goMove
  cases d.mover with
  | none => rfl
  | some m =>
    dsimp only
    split_ifs
    · rfl
    · cases d.flt.slot[m.2].arr <;> rfl

@[simp] theorem Dev.vacate_missed (d : Dev) (h : Fin 192) (a : ArrId) : (d.vacate h a).rcl.missed = d.rcl.missed := by
  simp [Dev.vacate]

@[simp] theorem Dev.kickMoves_missed (d : Dev) : d.kickMoves.rcl.missed = d.rcl.missed := by
  unfold Dev.kickMoves
  dsimp only
  split
  · simp
  · split
    · rfl
    · split
      · split
        · -- The array that left held the highest slot itself, which leaves once its tile has ended.
          split <;> simp
        · -- The array of the highest slot takes the slot that was left.
          split <;> simp
      · rfl

@[simp] theorem Dev.retireArr_missed (d : Dev) (a : ArrId) : (d.retireArr a).rcl.missed = d.rcl.missed := by
  simp [Dev.retireArr]

@[simp] theorem Dev.takeOver_rcl (d : Dev) (a b : ArrId) : (d.takeOver a b).rcl = d.rcl := by
  unfold Dev.takeOver
  cases d.arr[a].slot <;> rfl

@[simp] theorem Dev.arrayFailed_missed (d : Dev) (a : ArrId) : (d.arrayFailed a).rcl.missed = d.rcl.missed := by
  unfold Dev.arrayFailed
  dsimp only
  generalize he : d.modArr a _ = e
  have hm : e.rcl = d.rcl := by rw [← he]; rfl
  rw [← hm]
  cases e.arr[a].slot with
  | none => rfl
  | some s =>
    dsimp only
    split
    · rfl
    · cases e.lowestSpare with
      | some b => simp
      | none => dsimp only; split <;> simp

/-! ## The fourth array (R404) -/

/-- An attempt that makes a fourth array fail its tile is fatal, and misses no read. -/
theorem Dev.failAttempt_fourth (d : Dev) (t : Tile) (arrs : List ArrId) (h : 4 ≤ (t.failedOn ++ arrs).eraseDups.length) :
    (∃ unit, (d.failAttempt t arrs).dump.due = some (1, unit)) ∧ (d.failAttempt t arrs).rcl.missed = d.rcl.missed := by
  unfold Dev.failAttempt
  dsimp only
  rw [if_pos h]
  refine ⟨⟨_, rfl⟩, (missed_foldl _ (fun d a => ?_) arrs _).trans ?_⟩
  · split <;> simp
  · rw [Dev.leaveGroup_rcl, Dev.unrun_rcl]; split <;> rfl

/-- A command in service that fails an attempt on a fourth array halts the block. -/
theorem failAttempt_halts {s : State} {f : Dev → Dev} {t : Tile} {arrs : List ArrId} (hs : s.dev.serving = true)
    (h : 4 ≤ (t.failedOn ++ arrs).eraseDups.length) (hf : f s.dev.undue = s.dev.undue.failAttempt t arrs) :
    Answers (s.runFatal fun d => d.inService f) (State.HaltedBy 1) := by
  obtain ⟨⟨unit, due⟩, missed⟩ := s.dev.undue.failAttempt_fourth t arrs h
  exact runFatal_due hs (hf ▸ due) (hf ▸ missed)

/-! ## The ways an attempt fails (R105, R106, R112, R402, R403) -/

section
variable {d : Dev} {y : Tile} {a : ArrId} (ht : d.tile? y.uid = some y) (hp : y.phase = .placed) (ha : y.arr = some a)
include ht hp ha

/-- A due row that fails its check fails the attempt on the tile's array. -/
theorem Dev.releaseRow_bad {flaw : RowFlaw} {row : List Acc × Int}
    (hrow : flawed flaw (y.acc.getD y.released []) (y.chk.getD y.released 0) = row) (hr : y.released < y.rows) (room : d.stagingRoom y = true)
    (passes : match y.work with | .matrix _ => passesOf y.kLen ≤ y.passes | .span _ => 0 < y.passes)
    (bad : y.parity = true ∨ flaw = .specialState ∨
      y.clamped = false ∧ rowPasses (d.bf16Pair y) (d.checkLen y) row.1 row.2 = false) :
    d.releaseRow y.uid y.released flaw = d.failAttempt y [a] := by
  have fails : (y.parity || flaw = .specialState ||
      (!y.clamped && !rowPasses (d.bf16Pair y) (d.checkLen y) row.1 row.2)) = true := by
    rcases bad with h | h | ⟨h, g⟩
    · simp [h]
    · simp [h]
    · simp [h, g]
  unfold Dev.releaseRow
  -- The row and the verdict of its check are kept in the form that `hrow` and `fails` have.
  cases hw : y.work with
  | matrix p =>
    simp only [hw] at passes
    simp [-List.getD_eq_getElem?_getD, -Bool.or_eq_true, ht, hp, ha, hr, room, hw, hrow, Dev.passCount, passes, fails]
  | span p =>
    simp only [hw] at passes
    simp [-List.getD_eq_getElem?_getD, -Bool.or_eq_true, ht, hp, ha, hr, room, hw, hrow, passes, fails]

/-- Where the two copies of the row unit differ in a row of the tile, its attempt fails on the tile's array. -/
theorem Dev.stageRow_differs {row : Nat}
    (held : match y.work with
      | .matrix _ => ∃ r, y.stagedRows.find? (fun r => !r.staged) = some r ∧ r.row = row
      | .span _ => ∃ r ∈ y.stagedRows, r.row = row) :
    d.stageRow y.uid row true = d.failAttempt y [a] := by
  unfold Dev.stageRow
  cases hw : y.work with
  | matrix p =>
    simp only [hw] at held
    obtain ⟨r, found, rfl⟩ := held
    simp [ht, hp, ha, hw, Tile.isSpan, found]
  | span p =>
    simp only [hw] at held
    obtain ⟨r, hr, rfl⟩ := held
    have found : (y.stagedRows.find? fun q => !q.staged || (true && y.isSpan && q.row = r.row)).isSome = true :=
      List.find?_isSome.2 ⟨r, hr, by simp [Tile.isSpan, hw]⟩
    obtain ⟨q, hq⟩ := Option.isSome_iff_exists.1 found
    simp only [ht, hp, ha, hw, hq, and_self, if_true]

/-- A second attempt that does not agree with the first fails on the arrays of both. -/
theorem Dev.bf16Compare_differs {f : ArrId} (hf : y.firstArr = some f) (hg : y.agreed = false) (hs : d.allStaged y = true)
    (hne : y.stagedRows.map (fun r => (r.row, r.accs)) ≠ y.firstRows.map (fun r => (r.row, r.accs))) :
    d.bf16Compare y.uid = d.failAttempt y [f, a] := by
  unfold Dev.bf16Compare
  simp [ht, hp, ha, hf, hg, hs, hne]

end

/-- Settles O49: each of the three ways an attempt fails comes to `failAttempt`, which at the fourth array is fatal, and the block
then halts as the command ends. -/
theorem fourthFailedArrayIsFatal : Obligations.FourthFailedArrayIsFatal := by
  unfold Obligations.FourthFailedArrayIsFatal
  intro y a s hs _ ht hp ha
  refine ⟨fun four => ⟨fun flaw hr room passes bad => ?_, fun row held => ?_⟩, fun f hf hg staged hne four => ?_⟩
  · exact failAttempt_halts hs four (Dev.releaseRow_bad (d := s.dev.undue) ht hp ha rfl hr room passes bad)
  · exact failAttempt_halts hs four (Dev.stageRow_differs (d := s.dev.undue) ht hp ha held)
  · exact failAttempt_halts hs four (Dev.bf16Compare_differs (d := s.dev.undue) ht hp ha hf hg staged hne)

end Sys2Proof.Machine
end

section
/-!
PROOF. A powered second in the histograms of the lifetime record (R428): what one count changes in a table, and that the reading
the temperature bin is taken from is the highest of the die sensors.
-/
namespace Sys2Proof.Machine

/-! ## One count in a histogram -/

/-- Counting in a bin keeps the canonical form. -/
theorem addBin_wf {h : List (Nat × Nat)} (wf : alWf 0 h) (i : Nat) : alWf 0 (addBin i h) := alPut_wf wf

/-- A count adds one to its bin, which holds at all ones, and to no other. -/
theorem alGet_addBin {h : List (Nat × Nat)} (wf : alWf 0 h) (i j : Nat) :
    alGet 0 (addBin i h) j = if j = i then holdAt 32 (alGet 0 h j + 1) else alGet 0 h j := by
  rw [addBin, alGet_alPut wf.1]
  split
  next same => rw [same]
  next => rfl

/-- Counts in two different bins do not meet: each bin that is named gets one. -/
theorem alGet_addBin_addBin {h : List (Nat × Nat)} (wf : alWf 0 h) {i k : Nat} (apart : i ≠ k) (j : Nat) :
    alGet 0 (addBin k (addBin i h)) j = if j = i ∨ j = k then holdAt 32 (alGet 0 h j + 1) else alGet 0 h j := by
  rw [alGet_addBin (addBin_wf wf i), alGet_addBin wf]
  by_cases hk : j = k
  · have hi : j ≠ i := fun hi => apart (hi.symm.trans hk)
    simp only [hk, hk ▸ hi, or_true, if_true, if_false]
  · simp only [hk, or_false, if_false]

/-! ## The hottest die sensor -/

/-- The scan for the hottest reading ends at the reading of the list that no other exceeds. -/
theorem foldl_slt_eq {hot : BitVec 16} (l : List (BitVec 16)) (m : BitVec 16) (mem : hot ∈ m :: l)
    (top : ∀ x ∈ m :: l, x.toInt ≤ hot.toInt) : l.foldl (fun m x => if m.slt x then x else m) m = hot := by
  induction l generalizing m with
  | nil => exact (List.mem_singleton.1 mem).symm
  | cons x l ih =>
    have hm : m.toInt ≤ hot.toInt := top m (by simp)
    have hx : x.toInt ≤ hot.toInt := top x (by simp)
    have rest : ∀ y ∈ l, y.toInt ≤ hot.toInt := fun y hy => top y (by simp [hy])
    rw [List.foldl_cons]
    by_cases lt : m.slt x
    · rw [if_pos lt]
      refine ih x ?_ (List.forall_mem_cons.2 ⟨hx, rest⟩)
      -- `m` is below `x`, so it is not the highest.
      have ne : hot ≠ m := by rintro rfl; exact absurd (BitVec.slt_iff_toInt_lt.1 lt) (Int.not_lt.2 hx)
      exact (List.mem_cons.1 mem).resolve_left ne
    · rw [if_neg lt]
      refine ih m ?_ (List.forall_mem_cons.2 ⟨hm, rest⟩)
      have le : x.toInt ≤ m.toInt := Int.not_lt.1 fun h => lt (BitVec.slt_iff_toInt_lt.2 h)
      -- Where `x` is the highest, `m` reads the same.
      have eq : hot = x → hot = m := by rintro rfl; exact BitVec.eq_of_toInt_eq (Int.le_antisymm le hm)
      rcases List.mem_cons.1 mem with h | h
      · exact h ▸ List.mem_cons_self ..
      · exact (List.mem_cons.1 h).elim (fun e => eq e ▸ List.mem_cons_self ..) (List.mem_cons_of_mem _)

/-- The hottest die sensor reads what one of sensors 0 to 15 reads and none of them exceeds. -/
theorem hotDie_eq {v : Vector (BitVec 16) 74} {hot : BitVec 16} (one : ∃ k : Fin 16, v[k.val] = hot)
    (top : ∀ k : Fin 16, v[k.val].toInt ≤ hot.toInt) : hotDie v = hot := by
  have die : ∀ x, x ∈ v.toList.take 16 ↔ ∃ k : Fin 16, v[k.val] = x := fun x => by
    simp [List.mem_take_iff_getElem, Fin.exists_iff]
  have first : v.toList.headD 0 = v[(0 : Fin 16).val] := by
    simp [List.headD_eq_head?_getD, List.head?_eq_getElem?]
  refine foldl_slt_eq _ _ (List.mem_cons_of_mem _ ((die hot).2 one)) (List.forall_mem_cons.2 ⟨first ▸ top 0, fun x hx => ?_⟩)
  obtain ⟨k, rfl⟩ := (die x).1 hx
  exact top k

/-! ## The bins of a second -/

/-- The temperature bin is the whole degrees Celsius of a reading in sixteenths, held to 0 to 127. -/
theorem tempBin_eq (t : BitVec 16) :
    tempBin t = if t.toInt / 16 < 0 then 0 else if 127 < t.toInt / 16 then 127 else (t.toInt / 16).toNat := by
  unfold tempBin
  split_ifs <;> omega

/-- The voltage bin is the whole tenths of a volt above 25 V of a reading in millivolts, held to 0 to 255. -/
theorem voltBin_eq (mv : BitVec 16) :
    voltBin mv = if mv.toNat < 25000 then 0 else if 255 < (mv.toNat - 25000) / 100 then 255 else (mv.toNat - 25000) / 100 := by
  unfold voltBin
  split_ifs <;> omega

/-- The histogram after a second: one more in the two bins, which lie in the table's two parts. -/
theorem Life.alGet_second {l : Life} (wf : alWf 0 l.hist) (p : Pwr) (j : Nat) :
    alGet 0 (l.second p).hist j = if j = tempBin (hotDie p.temp) ∨ j = 128 + voltBin p.vin then
      holdAt 32 (alGet 0 l.hist j + 1) else alGet 0 l.hist j :=
  have below : tempBin (hotDie p.temp) ≤ 127 := Nat.min_le_left ..
  alGet_addBin_addBin wf (by omega) j

/-- A second while the die is awake is a second of the lifetime record. -/
theorem exec_histogramSecond {s : State} (awake : s.dev.awake = true) :
    exec .histogramSecond s = .next { s with dev := { s.dev with out := [], life := s.dev.life.second s.dev.pwr } } := by
  change s.run _ = _
  have quiet : Dev.awake { s.dev with out := [] } = true := awake
  rw [State.run, if_pos quiet]

/-- Settles O29: the scan of the die sensors ends at the hottest, and the two bins lie in different parts of the table. -/
theorem poweredSecondCountsTwoBins : Obligations.PoweredSecondCountsTwoBins := by
  unfold Obligations.PoweredSecondCountsTwoBins
  intro s hot awake wf one top t16 temperature mv voltage
  refine ⟨_, exec_histogramSecond awake, fun j => ?_⟩
  have ht : temperature = tempBin (hotDie s.dev.pwr.temp) := by rw [hotDie_eq one top, tempBin_eq]
  have hv : voltage = voltBin s.dev.pwr.vin := (voltBin_eq _).symm
  rw [Life.alGet_second wf, ht, hv, holdAt, Nat.min_comm]

end Sys2Proof.Machine
end
